-- ==== Sys2Proof/Word.lean ====
section
/-! DEFINITION. The word types of the Strelic (R7, R15, R263, R275) and the finite table type the sparse parts of its state use. -/

namespace Sys2Proof

/-- One byte of memory. -/
abbrev Byte := BitVec 8
/-- A 64-bit lane, a predicate, a device register. -/
abbrev Word := BitVec 64
/-- A 256-bit general register (R275). -/
abbrev Vec := BitVec 256
/-- A coordinate: DIE, ROW, COL (R15). -/
abbrev Coord := BitVec 16
/-- A program counter, counted in 12-byte instruction units (R264). -/
abbrev Pc := BitVec 32
/-- One 96-bit instruction word (R262). -/
abbrev InstrWord := BitVec 96

/-- A finite table: key and value pairs with keys strictly rising; an absent key reads as the reader's default. -/
abbrev Tbl (α : Type) := List (Nat × α)

end Sys2Proof
end

