-- ==== Sys2Proof/Syntax.lean ====
section
/-! DEFINITION. Instructions and events: operand forms (R275 to R286), modifiers (R277, R278), headers (R262), and the one
inductive Instr with a constructor for each row of the table of operations and events. -/

namespace Sys2Proof

/-- Special registers, in the order of their indices (R283). -/
inductive SReg where
  | gtid | coord | home | slot | company | fmt | xb | ovl | time | cycle | rc | hbint | cause | epc | tval
  deriving DecidableEq, Repr

/-- Issue hints (R218, R262); the reserved value 3 decodes to a fault. -/
inductive IssueHint where
  | none | yieldAfter | longLatency
  deriving DecidableEq, Repr

/-- Migration hints (R77, R262); the reserved value 3 decodes to a fault. -/
inductive MigHint where
  | auto | stay | go
  deriving DecidableEq, Repr

/-- Type suffixes (R278); TY = 15 decodes to a fault. -/
inductive Ty where
  | none | i8 | i16 | i32 | i64 | n8 | n16 | n32 | n64 | f32 | bf16 | f16 | e4m3 | e5m2 | e2m1
  deriving DecidableEq, Repr

/-- Ordering qualifiers (R180, R277). -/
inductive Order where
  | rlx | acq | rel | ar
  deriving DecidableEq, Repr

/-- One operand field (R275); `wide` is the 48-bit immediate of MOVI and MOVH in field A (R286). -/
inductive Operand where
  | none
  | g (r : Fin 16) (lane : Fin 64)
  | q (r : Fin 16)
  | w (r : Fin 16) (k : Fin 16)
  | s (r : SReg)
  | i (v : BitVec 21)
  | m (base : Fin 16) (spc : Bool) (off : BitVec 16)
  | p (r : Fin 8)
  | wide (v : BitVec 48)
  deriving DecidableEq, Repr

/-- The modifier carried by the first field that can carry one (R277). -/
structure Modifier where
  ty : Ty
  ord : Order
  nsp : Bool
  na : Bool
  deriving DecidableEq, Repr

/-- Guard and hints of a word (R262, R273, R274). -/
structure Hdr where
  gpred : Fin 8
  gsense : Bool
  issue : IssueHint
  last : Bool
  mig : MigHint
  deriving DecidableEq, Repr

/-- Everything of an instruction word but its opcode. -/
structure Fields where
  h : Hdr
  md : Modifier
  d : Operand
  a : Operand
  b : Operand
  deriving DecidableEq, Repr

/-- What a DIST does in one action: take the head of its input, push a staged head, or steal (R435). -/
inductive DistAct where
  | take | push (replica : Nat) | steal
  deriving DecidableEq, Repr

/-- Why another package did not perform a packet: its number differs from the packet's target (R517), it has no such company or bank
(R337, R357), or the company is suspended (R338). -/
inductive PeerRefusal where
  | wrongPackage | noTarget | suspended
  deriving DecidableEq, Repr

/-- What a peer port delivers (R517): a message packet, a piece of a remote copy or a remote atomic of another package, or the answer
to a packet of this one. -/
inductive PeerPacket where
  | message (target : BitVec 12) (company : Nat) (core : Coord) (tag : Nat) (doff : Nat) (data : List Byte)
      (request : Nat)
  | write (target : BitVec 12) (company : Nat) (core : Coord) (addr : Nat) (data : List Byte) (request : Nat)
  | atomic (target : BitVec 12) (company : Nat) (core : Coord) (addr : Nat) (opc : BitVec 12) (size : Nat)
      (value expect : Word) (request : Nat)
  | answer (request : Nat) (refusal : Option PeerRefusal) (value : Word)
  deriving DecidableEq, Repr

/-- A configuration record submitted through PF 0 (R525, R526); its byte layout is not architectural. -/
structure ConfigRecord where
  version : Nat
  minSvn : Nat
  keyHashes : List (BitVec 512)
  body : List Byte
  signature : List Byte
  deriving DecidableEq, Repr

/-- A time record submitted through PF 0 (R527). -/
structure TimeRecord where
  seconds : Nat
  body : List Byte
  signature : List Byte
  deriving DecidableEq, Repr

/-- What a register write reaches: a class 0xD address (R27), a custom register of a command-processor core (R519), or a
register of a virtual function (R439). -/
inductive RegTarget where
  | mmio (socket : Fin 32) (offset : Nat) (size : Nat)
  | csr (cp : Fin 4) (number : Nat)
  | vf (index : Nat) (offset : Nat) (size : Nat)
  deriving DecidableEq, Repr

/-- The part of a suspended company's holdings that the command processor reassigns (R258). -/
structure Holdings where
  slots : List (Coord × Nat)
  banks : List Nat
  macros : List (Coord × Nat)
  deriving DecidableEq, Repr

/-- Where a soft error arises (R477, R478). -/
inductive ErrSite where
  /-- A register of a context's register file, by the number that tval gives. -/
  | register (k : Nat) (r : Nat)
  | localWord (core : Coord) (offset : Nat)
  | line (line : Nat)
  | bank (cl bank : Nat)
  | tileMacro (core : Coord) (q : Nat)
  | queueSlot (queue : Nat)
  /-- An entry of a diversion table, 0 to 63. -/
  | diversion (cl entry : Nat)
  /-- An entry of a translation cache: a cluster's by its index, an operator tile's by 192 + its number. -/
  | translation (cache index : Nat)
  | control (core : Coord)
  deriving DecidableEq, Repr

/-- One constructor for each row of the table of operations and events. An instruction carries its word's fields; an event
carries what the agenda or the outside chose. (Events that this model's own schedule names stand before those that only the
agenda names: Lean's code generator can build a constructor with arguments only at positions 0 to 243.) -/
inductive Instr where
  | nop (f : Fields)
  | yield (f : Fields)
  | hbeat (f : Fields)
  | exit (f : Fields)
  | br (f : Fields)
  | brx (f : Fields)
  | call (f : Fields)
  | ret (f : Fields)
  | loop (f : Fields)
  | bqc (f : Fields)
  | trap (f : Fields)
  | tret (f : Fields)
  | gets (f : Fields)
  | sets (f : Fields)
  | ovret (f : Fields)
  | isync (f : Fields)
  | bkpt (f : Fields)
  | trace (f : Fields)
  | mark (f : Fields)
  | sleep (f : Fields)
  | event (f : Fields)
  | twait (f : Fields)
  | pmov (f : Fields)
  | pand (f : Fields)
  | por (f : Fields)
  | pxor (f : Fields)
  | pandn (f : Fields)
  | pany (f : Fields)
  | pall (f : Fields)
  | pcnt (f : Fields)
  | pfromg (f : Fields)
  | ptog (f : Fields)
  | mov (f : Fields)
  | movi (f : Fields)
  | movh (f : Fields)
  | add (f : Fields)
  | sub (f : Fields)
  | neg (f : Fields)
  | abs (f : Fields)
  | mul (f : Fields)
  | mulh (f : Fields)
  | mulhn (f : Fields)
  | madd (f : Fields)
  | div (f : Fields)
  | divn (f : Fields)
  | rem (f : Fields)
  | remn (f : Fields)
  | min (f : Fields)
  | max (f : Fields)
  | minn (f : Fields)
  | maxn (f : Fields)
  | and (f : Fields)
  | or (f : Fields)
  | xor (f : Fields)
  | andn (f : Fields)
  | orn (f : Fields)
  | shl (f : Fields)
  | shr (f : Fields)
  | sra (f : Fields)
  | rol (f : Fields)
  | ror (f : Fields)
  | popc (f : Fields)
  | clz (f : Fields)
  | ctz (f : Fields)
  | brev (f : Fields)
  | bswap (f : Fields)
  | bfx (f : Fields)
  | bfi (f : Fields)
  | sext (f : Fields)
  | zext (f : Fields)
  | sel (f : Fields)
  | cmp (f : Fields)
  | tst (f : Fields)
  | lea (f : Fields)
  | adds (f : Fields)
  | subs (f : Fields)
  | rect (f : Fields)
  | cdist (f : Fields)
  | home (f : Fields)
  | ld (f : Fields)
  | st (f : Fields)
  | ldv (f : Fields)
  | stv (f : Fields)
  | ldvt (f : Fields)
  | aadd (f : Fields)
  | amin (f : Fields)
  | amax (f : Fields)
  | aminn (f : Fields)
  | amaxn (f : Fields)
  | aand (f : Fields)
  | aor (f : Fields)
  | axor (f : Fields)
  | aswp (f : Fields)
  | acas (f : Fields)
  | afadd (f : Fields)
  | afmax (f : Fields)
  | fence (f : Fields)
  | fjoin (f : Fields)
  | pref (f : Fields)
  | clwb (f : Fields)
  | clinv (f : Fields)
  | bari (f : Fields)
  | bara (f : Fields)
  | barw (f : Fields)
  | bars (f : Fields)
  | msend (f : Fields)
  | mwait (f : Fields)
  | mcnt (f : Fields)
  | mset (f : Fields)
  | probe (f : Fields)
  | qbind (f : Fields)
  | qfree (f : Fields)
  | qadv (f : Fields)
  | qcom (f : Fields)
  | qwait (f : Fields)
  | qcue (f : Fields)
  | qskip (f : Fields)
  | qlen (f : Fields)
  | fwait (f : Fields)
  | ftest (f : Fields)
  | fcancel (f : Fields)
  | fexport (f : Fields)
  | finit (f : Fields)
  | fres (f : Fields)
  | ffail (f : Fields)
  | fwhen (f : Fields)
  | spawn (f : Fields)
  | migrate (f : Fields)
  | claim (f : Fields)
  | acq (f : Fields)
  | acqt (f : Fields)
  | rel (f : Fields)
  | boxq (f : Fields)
  | cpy (f : Fields)
  | cpys (f : Fields)
  | cfill (f : Fields)
  | cpyq (f : Fields)
  | srfence (f : Fields)
  | opset (f : Fields)
  | opget (f : Fields)
  | opctlStart (f : Fields)
  | opctlStop (f : Fields)
  | opctlStatus (f : Fields)
  | opctlReset (f : Fields)
  | opctlSkiphead (f : Fields)
  | vadd (f : Fields)
  | vsub (f : Fields)
  | vmul (f : Fields)
  | vfma (f : Fields)
  | vmin (f : Fields)
  | vmax (f : Fields)
  | vabs (f : Fields)
  | vneg (f : Fields)
  | vdiv (f : Fields)
  | vsqrt (f : Fields)
  | vexp2 (f : Fields)
  | vlog2 (f : Fields)
  | vcmp (f : Fields)
  | vsel (f : Fields)
  | vand (f : Fields)
  | vor (f : Fields)
  | vxor (f : Fields)
  | vshl (f : Fields)
  | vshr (f : Fields)
  | vsra (f : Fields)
  | vcvt (f : Fields)
  | vqnt (f : Fields)
  | vdq (f : Fields)
  | vlut (f : Fields)
  | vsplat (f : Fields)
  | vperm (f : Fields)
  | vext (f : Fields)
  | vins (f : Fields)
  | vred (f : Fields)
  | vamax (f : Fields)
  | vdot (f : Fields)
  | vscan (f : Fields)
  | vpack (f : Fields)
  | vunpk (f : Fields)
  | tldb (f : Fields)
  | tlda (f : Fields)
  | tldaq (f : Fields)
  | tmma (f : Fields)
  | tzero (f : Fields)
  | tget (f : Fields)
  | tstor (f : Fields)
  | tstat (f : Fields)
  | clmul (f : Fields)
  | clmulh (f : Fields)
  | bdep (f : Fields)
  | bext (f : Fields)
  | unassignedOpcode (opc : BitVec 12) (hint : Byte)
  | waitComplete (k : Nat)
  | sleepEnd (k : Nat)
  | twaitDeadline (k : Nat)
  | eventLanding (pkt : Nat)
  | migrationArrival (k : Nat)
  | spawnArrival (pkt : Nat)
  | continuationStart (pkt : Nat)
  | heartbeatExpiry (k : Nat)
  | forceFence (core : Coord)
  | fenceLift (core : Coord)
  | trapServiceStart (core : Coord)
  | asyncTrap (k : Nat)
  | fetchOverlayTrap (k : Nat)
  | breakpointTableStop (k : Nat)
  | translationMiss (die : Nat)
  | walkEntryRead (walk : Nat)
  | walkAdCasResult (walk : Nat)
  | homeAccessPerform (k : Nat)
  | homeMissFill (fill : Nat) (bank : Nat) (victim : Option Nat)
  | writebackAccept (line : Nat)
  | shootdownDropPoint (cp : Fin 4) (cache : Nat)
  | shootdownComplete (cp : Fin 4)
  | boxDecision (cl : Nat)
  | boxRedecision (cl : Nat)
  | bankSwitch (cl : Nat) (bank : Nat)
  | discardEntryRemove (cl : Nat) (company : Nat) (lbank : Nat)
  | entryDelivery (queue : Nat)
  | creditReturn (queue : Nat)
  | extensionRefill (queue : Nat)
  | copyOperation (op : Nat)
  | messageSendOperation (op : Nat)
  | messagePacketLanding (pkt : Nat)
  | scratchLanding (pkt : Nat)
  | tileCommandPerform (core : Coord)
  | engineResolve (op : Nat)
  | exportCellUpdate (pkt : Nat)
  | seqAction (opr : Nat)
  | refAction (opr : Nat)
  | refReadReturn (opr : Nat) (index : Nat)
  | putAction (opr : Nat)
  | distAction (opr : Nat) (act : DistAct)
  | distFrameResize (opr : Nat)
  | collectAction (opr : Nat)
  | forkAction (opr : Nat)
  | joinAction (opr : Nat)
  | zipAction (opr : Nat)
  | reduceAction (opr : Nat)
  | filterAction (opr : Nat)
  | convertAction (opr : Nat)
  | bridgeSend (opr : Nat)
  | bridgeReceive (opr : Nat)
  | suspensionPoint (cl : Nat) (company : Nat)
  | taskSteal (core : Coord) (k : Nat)
  | controlContextResume (core : Coord)
  | pageCountReport
  | shootdownStart (cp : Fin 4) (value : Word)
  | linkStepChange (port : Nat) (stp : Nat)
  | retrainingEnd (port : Nat)
  | peerPacketArrival (packet : PeerPacket)
  | doorbell (vf : Nat) (value : Word)
  | dberrRead (vf : Nat)
  | quantumExpiry (slot : Nat)
  | dependencePoll
  | launchStart
  | launchRetire
  | queueTeardown (vf : Nat)
  | teardownDone (vf : Nat)
  | partitionActivate (cp : Fin 4)
  | partitionDeactivate (cp : Fin 4)
  | sethb (cp : Fin 4)
  | quant (cp : Fin 4)
  | companySuspend (cl : Nat) (company : Nat)
  | companyResume (cl : Nat) (company : Nat)
  | companyKill (cl : Nat) (company : Nat) (kcode : Byte)
  | dump (cp : Fin 4)
  | policyRegister (cp : Fin 4)
  | policyExpiry (pnum : Nat)
  | breakpointTableLoad (pnum : Nat) (core : Coord)
  | counterSweep (die : Nat)
  | gridIntervalEnd (stream : Nat)
  | traceDrain (core : Coord)
  | firmwareLoad
  | firmwareSwitch
  | quiescentSwitchRestart
  | firmwareDiscard
  | watchdogKick
  | ladderAck
  | watchdogTimeout
  | rungSwitch
  | rungCpReset
  | rungPartitionReset
  | rungIoDieReset
  | packageReset
  | junctionAlarm
  | junctionTrip
  | powerUpBoot
  | configRecordInstall (record : ConfigRecord)
  | trustedClockSet (record : TimeRecord)
  | pldmFirmwareUpdate (image : List Byte)
  | spdmAttestation
  | functionLevelReset (vf : Nat)
  | registerWrite (target : RegTarget) (value : Word)
  | holdingsReassign (cl : Nat) (company : Nat) (what : Holdings)
  | wingsLogLimitRaise (cl : Nat) (company : Nat) (limit : Nat)
  | softError (site : ErrSite) (uncorrectable : Bool)
  deriving DecidableEq, Repr

end Sys2Proof
end

