-- ==== Sys2Proof/Machine/Signature.lean ====
section
/-! DEFINITION. What each entry of the instruction chapters accepts: its opcode and extension (R287, R288), the class of each
operand field (R285), lanes (R276, R379), TY, ORD, spaces and NA (R277, R278, R301, R335), and limits on values (R270). -/

namespace Sys2Proof

/-- Extensions (R287). -/
inductive Ext where
  | base | v | t | x
  deriving DecidableEq, Repr

/-- Memory spaces (R57). -/
inductive Space where
  | g | s | l
  deriving DecidableEq, Repr

/-- Operand classes (R285): `q` is a Q field that names its register, `imm` an I field with its limits, `wide` the 48-bit
immediate that takes fields A and B (R286). -/
inductive FieldClass where
  | none | dst | src | reg | rsrc | mem | pred | spec | q
  | imm (lo hi : Int)
  | wide
  deriving DecidableEq, Repr

/-- An I field with no limit of its own (R279). -/
abbrev FieldClass.anyImm : FieldClass := .imm (-1048576) 1048575

/-- What LANE of a G field may be (R276, R309, R379): `unlessTyped` is zero when TY = 0, `part` a part number (R390, R392). -/
inductive LaneRule where
  | scalar | zero | unlessTyped | part
  deriving DecidableEq, Repr

/-- What one entry accepts. -/
structure Sig where
  opc : BitVec 12
  ext : Ext
  d : FieldClass
  a : FieldClass
  b : FieldClass
  dl : LaneRule
  al : LaneRule
  bl : LaneRule
  tys : List Ty
  ords : List Order
  spaces : List Space
  na : Bool
  deriving DecidableEq, Repr

/-- An entry that takes no modifier and only scalar lanes. -/
def sig (opc : BitVec 12) (ext : Ext) (d a b : FieldClass) : Sig :=
  { opc, ext, d, a, b, dl := .scalar, al := .scalar, bl := .scalar, tys := [.none], ords := [.rlx], spaces := [], na := false }

/-- Type class any of R301, and scale of LEA. -/
def tyAny : List Ty := [.none, .i8, .i16, .i32, .i64, .n8, .n16, .n32, .n64]
/-- Type class signed of R301. -/
def tySigned : List Ty := [.none, .i8, .i16, .i32, .i64]
/-- Type class unsigned of R301. -/
def tyUnsigned : List Ty := [.none, .n8, .n16, .n32, .n64]
/-- The types of a load or store (R343). -/
def tyMemory : List Ty := [.none, .i8, .i16, .i32, .i64, .n8, .n16, .n32, .n64, .f32, .bf16, .f16, .e4m3, .e5m2]
/-- The types of an integer atomic (R346). -/
def tyAtomic : List Ty := [.none, .i32, .i64, .n32, .n64]

/-- Fields and signature of an instruction; an event has none. -/
def Instr.sig? : Instr → Option (Fields × Sig)
  | .nop f => some (f, sig 0x000 .base .none .none .none)
  | .yield f => some (f, sig 0x001 .base .none .none .none)
  | .hbeat f => some (f, sig 0x002 .base .none .none .none)
  | .exit f => some (f, sig 0x003 .base .none .none .none)
  | .br f => some (f, sig 0x004 .base .none .anyImm .none)
  | .brx f => some (f, sig 0x005 .base .none .src .src)
  | .call f => some (f, sig 0x006 .base .reg .src .none)
  | .ret f => some (f, sig 0x007 .base .none .src .none)
  | .loop f => some (f, sig 0x008 .base .reg .anyImm .none)
  | .bqc f => some (f, sig 0x009 .base (.imm 1 7) .q .anyImm)
  | .trap f => some (f, sig 0x00A .base .none .src .none)
  | .tret f => some (f, sig 0x00B .base .none .none .none)
  | .gets f => some (f, sig 0x00C .base .dst .spec .none)
  | .sets f => some (f, sig 0x00D .base .spec .src .none)
  | .ovret f => some (f, sig 0x00E .base .none .none .none)
  | .isync f => some (f, sig 0x00F .base .none .none .none)
  | .bkpt f => some (f, sig 0x010 .base .none .src .none)
  | .trace f => some (f, sig 0x011 .base .none .src .none)
  | .mark f => some (f, sig 0x012 .base .none .src .none)
  | .sleep f => some (f, sig 0x013 .base .dst .src .none)
  | .event f => some (f, sig 0x014 .base .none .src .none)
  | .twait f => some (f, sig 0x015 .base .dst .src .none)
  | .pmov f => some (f, sig 0x016 .base .pred .pred .none)
  | .pand f => some (f, sig 0x017 .base .pred .pred .pred)
  | .por f => some (f, sig 0x018 .base .pred .pred .pred)
  | .pxor f => some (f, sig 0x019 .base .pred .pred .pred)
  | .pandn f => some (f, sig 0x01A .base .pred .pred .pred)
  | .pany f => some (f, sig 0x01B .base .pred .pred .src)
  | .pall f => some (f, sig 0x01C .base .pred .pred .src)
  | .pcnt f => some (f, sig 0x01D .base .dst .pred .none)
  | .pfromg f => some (f, sig 0x01E .base .pred .src .none)
  | .ptog f => some (f, sig 0x01F .base .dst .pred .none)
  | .mov f => some (f, { sig 0x100 .base .dst .src .none with tys := tyAny, dl := .unlessTyped, al := .unlessTyped })
  | .movi f => some (f, sig 0x101 .base .dst .wide .none)
  | .movh f => some (f, sig 0x102 .base .reg .wide .none)
  | .add f => some (f, { sig 0x103 .base .dst .src .src with tys := tyAny })
  | .sub f => some (f, { sig 0x104 .base .dst .src .src with tys := tyAny })
  | .neg f => some (f, { sig 0x105 .base .dst .src .none with tys := tyAny })
  | .abs f => some (f, { sig 0x106 .base .dst .src .none with tys := tySigned })
  | .mul f => some (f, { sig 0x107 .base .dst .src .src with tys := tyAny })
  | .mulh f => some (f, { sig 0x108 .base .dst .src .src with tys := tySigned })
  | .mulhn f => some (f, { sig 0x109 .base .dst .src .src with tys := tyUnsigned })
  | .madd f => some (f, { sig 0x10A .base .reg .src .src with tys := tyAny })
  | .div f => some (f, { sig 0x10B .base .dst .src .src with tys := tySigned })
  | .divn f => some (f, { sig 0x10C .base .dst .src .src with tys := tyUnsigned })
  | .rem f => some (f, { sig 0x10D .base .dst .src .src with tys := tySigned })
  | .remn f => some (f, { sig 0x10E .base .dst .src .src with tys := tyUnsigned })
  | .min f => some (f, { sig 0x10F .base .dst .src .src with tys := tySigned })
  | .max f => some (f, { sig 0x110 .base .dst .src .src with tys := tySigned })
  | .minn f => some (f, { sig 0x111 .base .dst .src .src with tys := tyUnsigned })
  | .maxn f => some (f, { sig 0x112 .base .dst .src .src with tys := tyUnsigned })
  | .and f => some (f, { sig 0x113 .base .dst .src .src with tys := tyAny })
  | .or f => some (f, { sig 0x114 .base .dst .src .src with tys := tyAny })
  | .xor f => some (f, { sig 0x115 .base .dst .src .src with tys := tyAny })
  | .andn f => some (f, { sig 0x116 .base .dst .src .src with tys := tyAny })
  | .orn f => some (f, { sig 0x117 .base .dst .src .src with tys := tyAny })
  | .shl f => some (f, { sig 0x118 .base .dst .src .src with tys := tyAny })
  | .shr f => some (f, { sig 0x119 .base .dst .src .src with tys := tyAny })
  | .sra f => some (f, { sig 0x11A .base .dst .src .src with tys := tyAny })
  | .rol f => some (f, { sig 0x11B .base .dst .src .src with tys := tyAny })
  | .ror f => some (f, { sig 0x11C .base .dst .src .src with tys := tyAny })
  | .popc f => some (f, { sig 0x11D .base .dst .src .none with tys := tyAny })
  | .clz f => some (f, { sig 0x11E .base .dst .src .none with tys := tyAny })
  | .ctz f => some (f, { sig 0x11F .base .dst .src .none with tys := tyAny })
  | .brev f => some (f, { sig 0x120 .base .dst .src .none with tys := tyAny })
  | .bswap f => some (f, { sig 0x121 .base .dst .src .none with tys := tyAny })
  | .bfx f => some (f, { sig 0x122 .base .dst .src .src with tys := tyAny })
  | .bfi f => some (f, { sig 0x123 .base .reg .src .src with tys := tyAny })
  | .sext f => some (f, sig 0x124 .base .dst .src .src)
  | .zext f => some (f, sig 0x125 .base .dst .src .src)
  | .sel f => some (f, { sig 0x126 .base .reg .src .src with tys := tyAny })
  | .cmp f => some (f, { sig 0x127 .base .pred .src .src with tys := tyAny })
  | .tst f => some (f, { sig 0x128 .base .pred .src .src with tys := tyAny })
  | .lea f => some (f, { sig 0x129 .base .dst .mem .none with tys := tyAny, spaces := [.g, .s, .l] })
  | .adds f => some (f, { sig 0x12A .base .dst .src .src with tys := tyAny })
  | .subs f => some (f, { sig 0x12B .base .dst .src .src with tys := tyAny })
  | .rect f => some (f, sig 0x12C .base .pred .src .src)
  | .cdist f => some (f, sig 0x12D .base .dst .src .src)
  | .home f => some (f, sig 0x12E .base .dst .src .none)
  | .ld f => some (f, { sig 0x200 .base .dst .mem .none with tys := tyMemory, ords := [.rlx, .acq, .ar], spaces := [.g, .s, .l], na := true })
  | .st f => some (f, { sig 0x201 .base .mem .rsrc .none with tys := tyMemory, ords := [.rlx, .rel, .ar], spaces := [.g, .s, .l], na := true })
  | .ldv f => some (f, { sig 0x202 .base .dst .mem .none with dl := .zero, ords := [.rlx, .acq, .ar], spaces := [.g, .s, .l], na := true })
  | .stv f => some (f, { sig 0x203 .base .mem .rsrc .none with al := .zero, ords := [.rlx, .rel, .ar], spaces := [.g, .s, .l], na := true })
  | .ldvt f => some (f, { sig 0x204 .base .dst .mem .src with dl := .zero, tys := tyMemory, ords := [.rlx, .acq, .ar], spaces := [.g, .s, .l], na := true })
  | .aadd f => some (f, { sig 0x205 .base .dst .mem .src with tys := tyAtomic, ords := [.rlx, .acq, .rel, .ar], spaces := [.g, .s, .l] })
  | .amin f => some (f, { sig 0x206 .base .dst .mem .src with tys := [.none, .i32, .i64], ords := [.rlx, .acq, .rel, .ar], spaces := [.g, .s, .l] })
  | .amax f => some (f, { sig 0x207 .base .dst .mem .src with tys := [.none, .i32, .i64], ords := [.rlx, .acq, .rel, .ar], spaces := [.g, .s, .l] })
  | .aminn f => some (f, { sig 0x208 .base .dst .mem .src with tys := [.none, .n32, .n64], ords := [.rlx, .acq, .rel, .ar], spaces := [.g, .s, .l] })
  | .amaxn f => some (f, { sig 0x209 .base .dst .mem .src with tys := [.none, .n32, .n64], ords := [.rlx, .acq, .rel, .ar], spaces := [.g, .s, .l] })
  | .aand f => some (f, { sig 0x20A .base .dst .mem .src with tys := tyAtomic, ords := [.rlx, .acq, .rel, .ar], spaces := [.g, .s, .l] })
  | .aor f => some (f, { sig 0x20B .base .dst .mem .src with tys := tyAtomic, ords := [.rlx, .acq, .rel, .ar], spaces := [.g, .s, .l] })
  | .axor f => some (f, { sig 0x20C .base .dst .mem .src with tys := tyAtomic, ords := [.rlx, .acq, .rel, .ar], spaces := [.g, .s, .l] })
  | .aswp f => some (f, { sig 0x20D .base .dst .mem .src with tys := .f32 :: tyAtomic, ords := [.rlx, .acq, .rel, .ar], spaces := [.g, .s, .l] })
  | .acas f => some (f, { sig 0x20E .base .reg .mem .src with tys := tyAtomic, ords := [.rlx, .acq, .rel, .ar], spaces := [.g, .s, .l] })
  | .afadd f => some (f, { sig 0x20F .base .dst .mem .src with tys := [.none, .f32], ords := [.rlx, .acq, .rel, .ar], spaces := [.g, .s, .l] })
  | .afmax f => some (f, { sig 0x210 .base .dst .mem .src with tys := [.none, .f32], ords := [.rlx, .acq, .rel, .ar], spaces := [.g, .s, .l] })
  | .fence f => some (f, sig 0x211 .base .none .none .none)
  | .fjoin f => some (f, { sig 0x212 .base .reg .src .none with dl := .zero })
  | .pref f => some (f, { sig 0x213 .base .none .mem .none with spaces := [.g] })
  | .clwb f => some (f, { sig 0x214 .base .none .mem .none with spaces := [.g] })
  | .clinv f => some (f, { sig 0x215 .base .none .mem .none with spaces := [.g] })
  | .bari f => some (f, { sig 0x216 .base .none .mem .src with spaces := [.s] })
  | .bara f => some (f, { sig 0x217 .base .dst .mem .none with spaces := [.s] })
  | .barw f => some (f, { sig 0x218 .base .none .mem .src with spaces := [.s] })
  | .bars f => some (f, { sig 0x219 .base .dst .mem .none with spaces := [.s] })
  | .msend f => some (f, { sig 0x21A .base .reg .mem .reg with dl := .zero, bl := .zero, spaces := [.g, .s, .l] })
  | .mwait f => some (f, sig 0x21B .base .none (.imm 0 15) .src)
  | .mcnt f => some (f, sig 0x21C .base .dst (.imm 0 15) .none)
  | .mset f => some (f, sig 0x21D .base .none (.imm 0 15) .src)
  | .probe f => some (f, { sig 0x21E .base .dst .mem .none with spaces := [.g, .s, .l] })
  | .qbind f => some (f, sig 0x300 .base .dst .q .src)
  | .qfree f => some (f, sig 0x301 .base .none .q .none)
  | .qadv f => some (f, sig 0x302 .base .none .q (.imm 1 16))
  | .qcom f => some (f, sig 0x303 .base .q (.imm 1 16) .none)
  | .qwait f => some (f, sig 0x304 .base .none .q (.imm 1 1048575))
  | .qcue f => some (f, sig 0x305 .base .q .src (.imm 1 7))
  | .qskip f => some (f, { sig 0x306 .base .reg .q .pred with dl := .zero })
  | .qlen f => some (f, sig 0x307 .base .dst .q .none)
  | .fwait f => some (f, sig 0x308 .base .none .reg .none)
  | .ftest f => some (f, sig 0x309 .base .pred .reg .none)
  | .fcancel f => some (f, sig 0x30A .base .none .reg .none)
  | .fexport f => some (f, { sig 0x30B .base .mem .reg .none with spaces := [.g] })
  | .finit f => some (f, { sig 0x30C .base .mem .src .none with spaces := [.g] })
  | .fres f => some (f, { sig 0x30D .base .mem .src .none with spaces := [.g] })
  | .ffail f => some (f, { sig 0x30E .base .mem .src .none with spaces := [.g] })
  | .fwhen f => some (f, { sig 0x30F .base .dst .mem .src with spaces := [.g] })
  | .spawn f => some (f, sig 0x310 .base .dst .src .none)
  | .migrate f => some (f, sig 0x311 .base .dst .src .none)
  | .claim f => some (f, sig 0x312 .base .dst .src .none)
  | .acq f => some (f, sig 0x313 .base .dst .src .none)
  | .acqt f => some (f, sig 0x314 .base .dst .src .pred)
  | .rel f => some (f, { sig 0x315 .base .none .reg .none with al := .zero })
  | .boxq f => some (f, { sig 0x316 .base .reg .src .none with dl := .zero })
  | .cpy f => some (f, { sig 0x317 .base .reg .mem .reg with dl := .zero, bl := .zero, spaces := [.g, .s, .l], na := true })
  | .cpys f => some (f, { sig 0x318 .base .reg .mem .src with dl := .zero, spaces := [.g], na := true })
  | .cfill f => some (f, { sig 0x319 .base .reg .mem .reg with dl := .zero, bl := .zero, spaces := [.g, .s, .l], na := true })
  | .cpyq f => some (f, { sig 0x31A .base .reg .q .reg with dl := .zero, bl := .zero })
  | .srfence f => some (f, sig 0x31B .base .none .src .none)
  | .opset f => some (f, sig 0x31C .base .none .src .src)
  | .opget f => some (f, sig 0x31D .base .dst .src .none)
  | .opctlStart f => some (f, sig 0x31E .base .dst .src .src)
  | .opctlStop f => some (f, sig 0x31E .base .dst .src (.imm 1 1))
  | .opctlStatus f => some (f, sig 0x31E .base .dst .src (.imm 2 2))
  | .opctlReset f => some (f, sig 0x31E .base .dst .src (.imm 3 3))
  | .opctlSkiphead f => some (f, sig 0x31E .base .dst .src (.imm 4 4))
  | .vadd f => some (f, { sig 0x400 .v .dst .src .src with dl := .zero, al := .zero, bl := .zero })
  | .vsub f => some (f, { sig 0x401 .v .dst .src .src with dl := .zero, al := .zero, bl := .zero })
  | .vmul f => some (f, { sig 0x402 .v .dst .src .src with dl := .zero, al := .zero, bl := .zero })
  | .vfma f => some (f, { sig 0x403 .v .reg .src .src with dl := .zero, al := .zero, bl := .zero })
  | .vmin f => some (f, { sig 0x404 .v .dst .src .src with dl := .zero, al := .zero, bl := .zero })
  | .vmax f => some (f, { sig 0x405 .v .dst .src .src with dl := .zero, al := .zero, bl := .zero })
  | .vabs f => some (f, { sig 0x406 .v .dst .src .none with dl := .zero, al := .zero, bl := .zero })
  | .vneg f => some (f, { sig 0x407 .v .dst .src .none with dl := .zero, al := .zero, bl := .zero })
  | .vdiv f => some (f, { sig 0x408 .v .dst .src .src with dl := .zero, al := .zero, bl := .zero })
  | .vsqrt f => some (f, { sig 0x409 .v .dst .src .none with dl := .zero, al := .zero, bl := .zero })
  | .vexp2 f => some (f, { sig 0x40A .v .dst .src .none with dl := .zero, al := .zero, bl := .zero })
  | .vlog2 f => some (f, { sig 0x40B .v .dst .src .none with dl := .zero, al := .zero, bl := .zero })
  | .vcmp f => some (f, { sig 0x40C .v .pred .src .src with dl := .zero, al := .zero, bl := .zero })
  | .vsel f => some (f, { sig 0x40D .v .reg .src .pred with dl := .zero, al := .zero, bl := .zero })
  | .vand f => some (f, { sig 0x40E .v .dst .src .src with dl := .zero, al := .zero, bl := .zero })
  | .vor f => some (f, { sig 0x40F .v .dst .src .src with dl := .zero, al := .zero, bl := .zero })
  | .vxor f => some (f, { sig 0x410 .v .dst .src .src with dl := .zero, al := .zero, bl := .zero })
  | .vshl f => some (f, { sig 0x411 .v .dst .src .src with dl := .zero, al := .zero, bl := .zero })
  | .vshr f => some (f, { sig 0x412 .v .dst .src .src with dl := .zero, al := .zero, bl := .zero })
  | .vsra f => some (f, { sig 0x413 .v .dst .src .src with dl := .zero, al := .zero, bl := .zero })
  | .vcvt f => some (f, { sig 0x414 .v .reg .src .anyImm with dl := .zero, al := .zero, bl := .zero, tys := [.i8, .i16, .i32, .f32, .bf16, .f16, .e4m3, .e5m2] })
  | .vqnt f => some (f, { sig 0x415 .v .reg .src .reg with dl := .zero, al := .zero, bl := .part, tys := [.f32, .bf16, .f16] })
  | .vdq f => some (f, { sig 0x416 .v .dst .src .reg with dl := .zero, al := .zero, bl := .part, tys := [.f32, .bf16, .f16] })
  | .vlut f => some (f, { sig 0x417 .v .none .src .none with dl := .zero, al := .zero, bl := .zero })
  | .vsplat f => some (f, { sig 0x418 .v .dst .src .none with dl := .zero })
  | .vperm f => some (f, { sig 0x419 .v .dst .src .rsrc with dl := .zero, al := .zero, bl := .zero })
  | .vext f => some (f, { sig 0x41A .v .dst .rsrc .src with al := .zero })
  | .vins f => some (f, { sig 0x41B .v .reg .src .src with dl := .zero })
  | .vred f => some (f, { sig 0x41C .v .dst .src (.imm 0 2) with dl := .zero, al := .zero, bl := .zero })
  | .vamax f => some (f, { sig 0x41D .v .dst .src .src with al := .zero })
  | .vdot f => some (f, { sig 0x41E .v .reg .src .src with dl := .zero, al := .zero, bl := .zero })
  | .vscan f => some (f, { sig 0x41F .v .dst .src (.imm 0 2) with dl := .zero, al := .zero, bl := .zero })
  | .vpack f => some (f, { sig 0x420 .v .dst .src .src with dl := .zero, al := .zero, bl := .zero })
  | .vunpk f => some (f, { sig 0x421 .v .dst .src (.imm 0 1) with dl := .zero, al := .zero, bl := .zero })
  | .tldb f => some (f, { sig 0x500 .t .reg .mem .reg with dl := .zero, bl := .zero, spaces := [.g, .s, .l], na := true })
  | .tlda f => some (f, { sig 0x501 .t .reg .mem .reg with dl := .zero, bl := .zero, spaces := [.g, .s, .l], na := true })
  | .tldaq f => some (f, { sig 0x502 .t .reg .q .reg with dl := .zero, bl := .zero })
  | .tmma f => some (f, { sig 0x503 .t .reg .src .none with dl := .zero })
  | .tzero f => some (f, { sig 0x504 .t .reg .src .none with dl := .zero })
  | .tget f => some (f, { sig 0x505 .t .reg .src .none with dl := .zero })
  | .tstor f => some (f, { sig 0x506 .t .reg .mem .reg with dl := .zero, bl := .zero, spaces := [.g, .s, .l], na := true })
  | .tstat f => some (f, sig 0x507 .t .dst .none .none)
  | .clmul f => some (f, { sig 0x600 .x .dst .src .src with tys := tyUnsigned })
  | .clmulh f => some (f, { sig 0x601 .x .dst .src .src with tys := tyUnsigned })
  | .bdep f => some (f, { sig 0x602 .x .dst .src .src with tys := tyUnsigned })
  | .bext f => some (f, { sig 0x603 .x .dst .src .src with tys := tyUnsigned })
  | _ => none

/-- The fields of an instruction word; an event has none. -/
def Instr.fields? (i : Instr) : Option Fields := i.sig?.map Prod.fst

/-- OPCTL's five commands are five rows of the table: an immediate command picks its row, and a command read from a register
when it issues belongs to the first (R377). -/
def opctlForm (f : Fields) : Instr :=
  match f.b with
  | .i v => if v = 1 then .opctlStop f else if v = 2 then .opctlStatus f else if v = 3 then .opctlReset f
            else if v = 4 then .opctlSkiphead f else .opctlStart f
  | _ => .opctlStart f

/-- The opcode map of R288, eight opcodes a row. -/
def opcodeRows : List (Nat × List (Fields → Instr)) :=
  [
   (0x000, [.nop, .yield, .hbeat, .exit, .br, .brx, .call, .ret]),
   (0x008, [.loop, .bqc, .trap, .tret, .gets, .sets, .ovret, .isync]),
   (0x010, [.bkpt, .trace, .mark, .sleep, .event, .twait, .pmov, .pand]),
   (0x018, [.por, .pxor, .pandn, .pany, .pall, .pcnt, .pfromg, .ptog]),
   (0x100, [.mov, .movi, .movh, .add, .sub, .neg, .abs, .mul]),
   (0x108, [.mulh, .mulhn, .madd, .div, .divn, .rem, .remn, .min]),
   (0x110, [.max, .minn, .maxn, .and, .or, .xor, .andn, .orn]),
   (0x118, [.shl, .shr, .sra, .rol, .ror, .popc, .clz, .ctz]),
   (0x120, [.brev, .bswap, .bfx, .bfi, .sext, .zext, .sel, .cmp]),
   (0x128, [.tst, .lea, .adds, .subs, .rect, .cdist, .home]),
   (0x200, [.ld, .st, .ldv, .stv, .ldvt, .aadd, .amin, .amax]),
   (0x208, [.aminn, .amaxn, .aand, .aor, .axor, .aswp, .acas, .afadd]),
   (0x210, [.afmax, .fence, .fjoin, .pref, .clwb, .clinv, .bari, .bara]),
   (0x218, [.barw, .bars, .msend, .mwait, .mcnt, .mset, .probe]),
   (0x300, [.qbind, .qfree, .qadv, .qcom, .qwait, .qcue, .qskip, .qlen]),
   (0x308, [.fwait, .ftest, .fcancel, .fexport, .finit, .fres, .ffail, .fwhen]),
   (0x310, [.spawn, .migrate, .claim, .acq, .acqt, .rel, .boxq, .cpy]),
   (0x318, [.cpys, .cfill, .cpyq, .srfence, .opset, .opget, opctlForm]),
   (0x400, [.vadd, .vsub, .vmul, .vfma, .vmin, .vmax, .vabs, .vneg]),
   (0x408, [.vdiv, .vsqrt, .vexp2, .vlog2, .vcmp, .vsel, .vand, .vor]),
   (0x410, [.vxor, .vshl, .vshr, .vsra, .vcvt, .vqnt, .vdq, .vlut]),
   (0x418, [.vsplat, .vperm, .vext, .vins, .vred, .vamax, .vdot, .vscan]),
   (0x420, [.vpack, .vunpk]),
   (0x500, [.tldb, .tlda, .tldaq, .tmma, .tzero, .tget, .tstor, .tstat]),
   (0x600, [.clmul, .clmulh, .bdep, .bext])]

/-- The instruction of an opcode (R288); none if it is unassigned (R272). -/
def ofOpc (opc : BitVec 12) : Option (Fields → Instr) :=
  (opcodeRows.find? fun r => r.1 == opc.toNat / 8 * 8).bind fun r => r.2[opc.toNat % 8]?

/-- Sign extension of an I operand for a scalar use (R279). -/
def immWord (v : BitVec 21) : Word := v.signExtend 64

/-- Bits at and above n of x are zero. -/
def highZero (x : Word) (n : Nat) : Bool := x >>> n == 0

/-- The limits an entry sets on the value of its A operand, where breaking them is OPERAND_FORM. -/
def aValueOk (i : Instr) (x : Word) : Bool :=
  match i with
  | .fjoin _ => highZero x 32 && (x.extractLsb' 6 10 == 0)                                        -- R351
  | .finit _ => 1 ≤ x.toNat && x.toNat ≤ 63                                                       -- R366
  | .spawn _ => spawnOk x                                                                         -- R369
  | .migrate _ => highZero x 17                                                                   -- R370
  | .claim _ => x.extractLsb' 0 7 ≤ 120#7 && x.extractLsb' 8 6 ≤ 32#6 && x.extractLsb' 16 5 ≤ 16#5  -- R245
  | .acq _ => requestOk x                                                                         -- R247
  | .acqt _ => requestOk x
  | .opset _ => highZero x 26                                                                     -- R377
  | .opget _ => highZero x 26
  | .opctlStart _ => highZero x 26
  | .opctlStop _ => highZero x 26
  | .opctlStatus _ => highZero x 26
  | .opctlReset _ => highZero x 26
  | .opctlSkiphead _ => highZero x 26
  | .tmma _ => highZero x 5 && (x.extractLsb' 0 4 != 0)                                           -- R411
  | .tzero _ => highZero x 2                                                                      -- R413
  | .tget _ => highZero x 10                                                                      -- R414
  | _ => true
where
  /-- The limits of a spawn word that do not depend on the image (R369). -/
  spawnOk (x : Word) : Bool :=
    highZero x 32 && x.extractLsb' 26 5 ≤ 16#5 && (x.extractLsb' 22 4).toNat + (x.extractLsb' 26 5).toNat ≤ 16
  /-- The limits of a request word that do not depend on the core (R247). -/
  requestOk (x : Word) : Bool :=
    x.extractLsb' 8 6 ≤ 32#6 && x.extractLsb' 16 3 ≤ 4#3 &&
      (x.extractLsb' 8 6 == 0 || x.extractLsb' 14 2 == 1 || x.extractLsb' 14 2 == 2)

/-- The limits an entry sets on the value of its B operand, where breaking them is OPERAND_FORM. -/
def bValueOk (i : Instr) (x : Word) : Bool :=
  match i with
  | .bari _ => 1 ≤ x.toNat && x.toNat < 2 ^ 32    -- R355
  | .qbind _ => highZero x 13                     -- R359
  | .fwhen _ => aValueOk.spawnOk x                -- R367
  | .cpys _ => highZero x 3                       -- R375
  | .opctlStart _ => x.toNat ≤ 4                  -- R377
  | _ => true

/-- Whether a class takes an operand of this kind, an immediate within its limits (R285, R270). -/
def FieldClass.takes (c : FieldClass) (o : Operand) : Bool :=
  match c, o with
  | .none, .none => true
  | .dst, .g .. => true
  | .dst, .q _ => true
  | .dst, .w .. => true
  | .src, .g .. => true
  | .src, .q _ => true
  | .src, .w .. => true
  | .src, .i _ => true
  | .reg, .g .. => true
  | .rsrc, .g .. => true
  | .rsrc, .q _ => true
  | .rsrc, .w .. => true
  | .mem, .m .. => true
  | .pred, .p _ => true
  | .spec, .s _ => true
  | .q, .q _ => true
  | .imm lo hi, .i v => lo ≤ v.toInt && v.toInt ≤ hi
  | .wide, .wide _ => true
  | _, _ => false

/-- Elements of m of R390 and R392: 8 for FP32, 16 for a 16-bit format. -/
def partCount (ty : Ty) : Nat := if ty = .f32 then 8 else 4

/-- LANE within its limit (R276, R309, R379, R390, R392). -/
def LaneRule.allows (r : LaneRule) (ty : Ty) (o : Operand) : Bool :=
  match o with
  | .g _ lane =>
    match r with
    | .scalar => lane.val ≤ 3
    | .zero => lane.val = 0
    | .unlessTyped => if ty = .none then lane.val = 0 else lane.val ≤ 3
    | .part => lane.val < partCount ty
  | _ => true

/-- The space an M operand names (R336). -/
def mSpace (spc nsp : Bool) : Space := if spc then (if nsp then .l else .s) else .g

/-- The space of a memory operand is one the entry accepts (R335). DESIGN CHOICE (log entry 138): OPERAND_FORM names the field of the M operand,
also where it is NSP in D's carrier that makes the space wrong. -/
def Sig.spaceOk (s : Sig) (md : Modifier) (o : Operand) : Bool :=
  match o with
  | .m _ spc _ => s.spaces.contains (mSpace spc md.nsp)
  | _ => true

/-- An operand that can carry the modifier (R277). -/
def Operand.carries : Operand → Bool
  | .g .. => true
  | .q _ => true
  | .w .. => true
  | .s _ => true
  | .p _ => true
  | _ => false

/-- The memory operand of an instruction, if it has one: its SPC bit. -/
def Fields.spc? (f : Fields) : Option Bool :=
  match f.d, f.a with
  | .m _ spc _, _ => some spc
  | _, .m _ spc _ => some spc
  | _, _ => none

/-- The modifier is one the entry accepts (R277, R278, R280, R335). -/
def Sig.modOk (s : Sig) (f : Fields) : Bool :=
  s.tys.contains f.md.ty && s.ords.contains f.md.ord && (!f.md.nsp || f.spc? == some true) &&
    (!f.md.na || (s.na && f.spc? == some false))

/-- The modifier of a word with no carrier (R335). -/
def Modifier.plain : Modifier := { ty := .none, ord := .rlx, nsp := false, na := false }

/-- Which field carries the modifier: the first of D, A, B that can (R277). -/
def Fields.carrier (f : Fields) : Option (Fin 3) :=
  if f.d.carries then some 0 else if f.a.carries then some 1 else if f.b.carries then some 2 else none

/-- An I operand meets the limits that the entry sets on the value (R270). -/
def immOk (ok : Word → Bool) (o : Operand) : Bool :=
  match o with
  | .i v => ok (immWord v)
  | _ => true

/-- An I command of the row OPCTL_START is 0 (R377). -/
def startOk (i : Instr) (o : Operand) : Bool :=
  match i, o with
  | .opctlStart _, .i v => v == 0
  | _, _ => true

/-- VQNT names two different registers in D and B (R131, R270). -/
def companionOk (i : Instr) (f : Fields) : Bool :=
  match i, f.d, f.b with
  | .vqnt _, .g r _, .g r' _ => r != r'
  | _, _, _ => true

/-- The checks of step 4 of R269 on one field, the modifier checked in its carrier. -/
def fieldOk (i : Instr) (f : Fields) (s : Sig) (k : Fin 3) : Bool :=
  match k with
  | 0 => s.d.takes f.d && s.dl.allows f.md.ty f.d && s.spaceOk f.md f.d && (f.carrier != some 0 || s.modOk f)
  | 1 => s.a.takes f.a && s.al.allows f.md.ty f.a && s.spaceOk f.md f.a && (f.carrier != some 1 || s.modOk f) &&
         immOk (aValueOk i) f.a
  | 2 => s.b.takes f.b && s.bl.allows f.md.ty f.b && s.spaceOk f.md f.b && (f.carrier != some 2 || s.modOk f) &&
         immOk (bValueOk i) f.b && startOk i f.b && companionOk i f

end Sys2Proof
end

