-- ==== Sys2Proof/WellFormed.lean ====
section
/-! DEFINITION. Which instructions exist as words: the checks of step 4 of R269 on every field, and a plain modifier where no
field carries one (R277, R335). -/

namespace Sys2Proof

/-- A well-formed instruction: every field passes step 4 of R269. An event has no word and is well formed. -/
def Instr.wf (i : Instr) : Bool :=
  match i.sig? with
  | none => true
  | some (f, s) =>
    fieldOk i f s 0 && fieldOk i f s 1 && fieldOk i f s 2 && (f.carrier.isSome || f.md == Modifier.plain)

end Sys2Proof
end

