-- ==== Sys2Proof/Decode.lean ====
section
/-! DEFINITION. Reading an instruction word (R262, R263, R269 to R286) and writing one from the same tables. -/

namespace Sys2Proof

/-- Why a word is no instruction: ILLEGAL_OP at step 2 of R269, or OPERAND_FORM at step 4 for field 0 D, 1 A or 2 B. -/
inductive DecErr where
  | illegal (opc : BitVec 12) (hint : Byte)
  | form (opc : BitVec 12) (which : Fin 3) (raw : BitVec 24)
  deriving DecidableEq, Repr

/-- The tval of a decoding fault (R270). -/
def DecErr.tval : DecErr → Word
  | .illegal opc hint => (0#44 ++ hint ++ opc)
  | .form _ which raw => (0#38 ++ BitVec.ofNat 2 which.val ++ raw)

/-- Bits [15:6] of an operand field that can carry the modifier (R277). -/
def rawMod (raw : BitVec 24) : BitVec 10 := raw.extractLsb' 6 10

/-- The type of a TY code; none for 15 (R278). -/
def tyOfCode (c : BitVec 4) : Option Ty :=
  [Ty.none, .i8, .i16, .i32, .i64, .n8, .n16, .n32, .n64, .f32, .bf16, .f16, .e4m3, .e5m2, .e2m1][c.toNat]?

/-- The TY code of a type (R278). -/
def tyCode (t : Ty) : BitVec 4 :=
  match t with
  | .none => 0 | .i8 => 1 | .i16 => 2 | .i32 => 3 | .i64 => 4 | .n8 => 5 | .n16 => 6 | .n32 => 7 | .n64 => 8
  | .f32 => 9 | .bf16 => 10 | .f16 => 11 | .e4m3 => 12 | .e5m2 => 13 | .e2m1 => 14

/-- The order of an ORD code (R277). -/
def orderOfCode (c : BitVec 2) : Order :=
  if c = 0 then .rlx else if c = 1 then .acq else if c = 2 then .rel else .ar

/-- The ORD code of an order. -/
def orderCode (o : Order) : BitVec 2 :=
  match o with
  | .rlx => 0 | .acq => 1 | .rel => 2 | .ar => 3

/-- The modifier in the MOD bits of a carrier; none for TY = 15 or a nonzero reserved bit (R277, R278). -/
def modOfBits (m : BitVec 10) : Option Modifier :=
  if m.extractLsb' 8 2 ≠ 0 then none
  else (tyOfCode (m.extractLsb' 0 4)).map fun ty =>
    { ty, ord := orderOfCode (m.extractLsb' 4 2), nsp := m.getLsbD 6, na := m.getLsbD 7 }

/-- The MOD bits of a modifier (R277). -/
def modBits (m : Modifier) : BitVec 10 :=
  0#2 ++ BitVec.ofBool m.na ++ BitVec.ofBool m.nsp ++ orderCode m.ord ++ tyCode m.ty

/-- The special register of an index (R283). -/
def sregOfIndex (n : Nat) : Option SReg :=
  [SReg.gtid, .coord, .home, .slot, .company, .fmt, .xb, .ovl, .time, .cycle, .rc, .hbint, .cause, .epc, .tval][n]?

/-- The index of a special register (R283). -/
def sregIndex (r : SReg) : Fin 32 :=
  match r with
  | .gtid => 0 | .coord => 1 | .home => 2 | .slot => 3 | .company => 4 | .fmt => 5 | .xb => 6 | .ovl => 7
  | .time => 8 | .cycle => 9 | .rc => 10 | .hbint => 11 | .cause => 12 | .epc => 13 | .tval => 14

/-- The operand of a field that carries no wide immediate, its MOD bits left out; none where R275 or R276 rejects the kind, the
index or bits [5:0] (R275, R279, R280). -/
def operandOfRaw (raw : BitVec 24) : Option Operand :=
  let kind := raw.extractLsb' 21 3
  let index := raw.extractLsb' 16 5
  let low : Fin 64 := (raw.extractLsb' 0 6).toFin
  let r16 : Fin 16 := (raw.extractLsb' 16 4).toFin
  if kind = 0 then if index.getLsbD 4 then none else some (.g r16 low)
  else if kind = 1 then if index.getLsbD 4 || low != 0 then none else some (.q r16)
  else if kind = 2 then
    if index.getLsbD 4 || 16 ≤ low.val then none else some (.w r16 (raw.extractLsb' 0 4).toFin)
  else if kind = 3 then if low != 0 then none else (sregOfIndex index.toNat).map .s
  else if kind = 4 then some (.i (raw.extractLsb' 0 21))
  else if kind = 5 then some (.m r16 (index.getLsbD 4) (raw.extractLsb' 0 16))
  else if kind = 6 then
    if index.extractLsb' 3 2 ≠ 0 || low != 0 then none else some (.p (raw.extractLsb' 16 3).toFin)
  else none

/-- The operand field of an operand, with the MOD bits it carries. -/
def operandRaw (o : Operand) (m : BitVec 10) : BitVec 24 :=
  match o with
  | .none => 0
  | .g r lane => 0#3 ++ BitVec.ofNat 5 r.val ++ m ++ BitVec.ofNat 6 lane.val
  | .q r => 1#3 ++ BitVec.ofNat 5 r.val ++ m ++ 0#6
  | .w r k => 2#3 ++ BitVec.ofNat 5 r.val ++ m ++ BitVec.ofNat 6 k.val
  | .s r => 3#3 ++ BitVec.ofNat 5 (sregIndex r).val ++ m ++ 0#6
  | .i v => 4#3 ++ v
  | .m base spc off => 5#3 ++ BitVec.ofBool spc ++ BitVec.ofNat 4 base.val ++ off
  | .p r => 6#3 ++ BitVec.ofNat 5 r.val ++ m ++ 0#6
  | .wide v => v.extractLsb' 24 24

/-- One field by its class: an unused field must be all zero (R271, R285, R286). -/
def parseField (c : FieldClass) (raw low : BitVec 24) : Option Operand :=
  match c with
  | .none => if raw = 0 then some .none else none
  | .wide => some (.wide (raw ++ low))
  | _ => operandOfRaw raw

/-- The MOD bits of a field that is no carrier are zero (R277). -/
def modZero (o : Operand) (raw : BitVec 24) : Bool := !o.carries || rawMod raw == 0

/-- The guard and hints of a word; none for a reserved hint (R262, R271). -/
def hdrOfWord (w : InstrWord) : Option Hdr :=
  let issue := w.extractLsb' 78 2
  let mig := w.extractLsb' 75 2
  if issue = 3 || mig = 3 || w.extractLsb' 72 3 ≠ 0 then none
  else some
    { gpred := (w.extractLsb' 80 3).toFin, gsense := w.getLsbD 83,
      issue := if issue = 0 then .none else if issue = 1 then .yieldAfter else .longLatency,
      last := w.getLsbD 77, mig := if mig = 0 then .auto else if mig = 1 then .stay else .go }

/-- The hint byte, bits [79:72], of a guard and hints. -/
def hdrBits (h : Hdr) : BitVec 12 :=
  let issue : BitVec 2 := match h.issue with | .none => 0 | .yieldAfter => 1 | .longLatency => 2
  let mig : BitVec 2 := match h.mig with | .auto => 0 | .stay => 1 | .go => 2
  BitVec.ofBool h.gsense ++ BitVec.ofNat 3 h.gpred.val ++ issue ++ BitVec.ofBool h.last ++ mig ++ 0#3

/-- Fields with nothing in them but a header. -/
def Fields.blank (h : Hdr) : Fields := { h, md := .plain, d := .none, a := .none, b := .none }

/-- Steps 2 and 4 of R269 for a word whose opcode is assigned. -/
def decodeFields (w : InstrWord) (mk : Fields → Instr) (h : Hdr) (s : Sig) : Except DecErr Instr :=
  let rd := w.extractLsb' 48 24
  let ra := w.extractLsb' 24 24
  let rb := if s.a = .wide then 0 else w.extractLsb' 0 24
  let d := parseField s.d rd 0
  let a := parseField s.a ra (w.extractLsb' 0 24)
  let b := parseField s.b rb 0
  let f₀ : Fields := { Fields.blank h with d := d.getD .none, a := a.getD .none, b := b.getD .none }
  let md? := match f₀.carrier with
    | none => some Modifier.plain
    | some 0 => modOfBits (rawMod rd)
    | some 1 => modOfBits (rawMod ra)
    | some 2 => modOfBits (rawMod rb)
  let f := { f₀ with md := md?.getD .plain }
  let i := mk f
  let s' := (i.sig?.map Prod.snd).getD s
  let good (k : Fin 3) (o : Option Operand) (raw : BitVec 24) : Bool :=
    o.isSome && (if f.carrier = some k then md?.isSome else modZero (o.getD .none) raw) && fieldOk i f s' k
  if !good 0 d rd then .error (.form s.opc 0 rd)
  else if !good 1 a ra then .error (.form s.opc 1 ra)
  else if !good 2 b rb then .error (.form s.opc 2 rb)
  else .ok i

/-- The instruction of a word: steps 2 and 4 of R269. An unassigned opcode is an instruction of its own, which faults when it
executes (R272). -/
def decode (w : InstrWord) : Except DecErr Instr :=
  let opc := w.extractLsb' 84 12
  let hint := w.extractLsb' 72 8
  match ofOpc opc with
  | none => .ok (.unassignedOpcode opc hint)
  | some mk =>
    match hdrOfWord w with
    | none => .error (.illegal opc hint)
    | some h =>
      match (mk (.blank h)).sig? with
      | none => .error (.illegal opc hint)
      | some (_, s) => decodeFields w mk h s

/-- The word of an instruction (R262); an event has none. -/
def encode (i : Instr) : Option InstrWord :=
  match i with
  | .unassignedOpcode opc hint => some (opc ++ 0#4 ++ hint ++ 0#72)
  | i =>
    i.sig?.map fun (f, s) =>
      let bits (k : Fin 3) : BitVec 10 := if f.carrier = some k then modBits f.md else 0
      let rb := match f.a with
        | .wide v => v.extractLsb' 0 24
        | _ => operandRaw f.b (bits 2)
      s.opc ++ hdrBits f.h ++ operandRaw f.d (bits 0) ++ operandRaw f.a (bits 1) ++ rb

/-- The 12 bytes of a word, lowest address first (R263). -/
def wordBytes (w : InstrWord) : List Byte := (List.range 12).map fun k => w.extractLsb' (8 * k) 8

/-- The word that 12 bytes hold (R263). -/
def wordOfBytes (b : List Byte) : InstrWord :=
  b.foldr (fun x acc => (acc <<< 8) ||| x.setWidth 96) 0

/-- The instruction the decoder reads from an instruction whose bits are w, numbered from the first byte; every bit at or above
nbits is zero. -/
def decodeTableWord (nbits w : Nat) : Option Instr :=
  if nbits ≤ 96 ∧ w < 2 ^ nbits then (decode (wordOfBytes (wordBytes (BitVec.ofNat 96 w)))).toOption else none

end Sys2Proof
end

