-- ==== Sys2Proof/Config.lean ====
section
/-! DEFINITION. What the package fixes (R2, R9, R342) and the free values the spec leaves open: constants with no body. -/

namespace Sys2Proof.Config

/-- Core dies (R2). -/
def dies : Nat := 8
/-- Clusters of one die (R16). -/
def clustersPerDie : Nat := 24
/-- Clusters of the package (R17). -/
def clusters : Nat := 192
/-- Partitions, numbered from 1 (R50). -/
def partitions : Nat := 40
/-- Page-table walkers of one die (R2). -/
def walkersPerDie : Nat := 32
/-- Entries of a cluster's translation cache (R42). -/
def tlbEntries : Nat := 512
/-- Entries of a REF or PUT operator's translation cache (R42). -/
def oprTlbEntries : Nat := 64
/-- Requesters one walk serves (R43). -/
def walkRequesters : Nat := 64
/-- Lines of one 64 KiB bank in CACHE mode (R2, R71). -/
def linesPerBank : Nat := 1024
/-- Lines of a cluster's write-back buffer (R83). -/
def writebackLines : Nat := 32
/-- Release records of one cluster (R203). -/
def releaseRecords : Nat := 256
/-- Queue-slot units of one core (R143). -/
def queueSlotUnits : Nat := 256
/-- Hardware queue slots of the package (R442). -/
def hwQueueSlots : Nat := 1024
/-- Thread slots of a cluster for tasks (R246). -/
def slotsPerCluster : Nat := 120
/-- Cluster-store banks of a cluster (R246). -/
def banksPerCluster : Nat := 32
/-- Tile macros of a cluster (R246). -/
def macrosPerCluster : Nat := 16
/-- First byte past a core's local memory (R28, R59). -/
def localBytes : Nat := 0x18000

/-- FREE VALUE (R198): the manual names an 8-bit hash of a barrier's identity and not the function; log entry 9. -/
opaque barrierHash : Nat → BitVec 8
/-- FREE VALUE (R55, R170): slots per frame of a partition's share of the links, a number that the manual does not give; log entry 52. -/
opaque linkShare : Nat → Nat
/-- FREE VALUE (R525, R526): whether the counter block authenticates under the PUF-derived key; log entry 11. -/
opaque counterBlockOk : Nat → Bool
/-- FREE VALUE (R525): contents, as bytes, of a part of module flash the manual gives no layout; log entry 11. -/
opaque flashBytes : Nat → List Byte
/-- FREE VALUE (R124): the QN4 code of a value where the block scale is NaN or infinite, so that no code is nearest; log entry 13. -/
opaque openCode : (scale code value : Nat) → BitVec 4
/-- FREE VALUE (R486): what a link direction has counted up to a time in ns, for each virtual channel the flits sent (word 2 v) and the
stall cycles (word 2 v + 1); the manual does not give the routing; log entry 14. -/
opaque linkTotal : (link word time : Nat) → Nat
/-- FREE VALUE (R482, R492): which counter of a shared unit stands in a word of a die's or the package's row of DTOT, a place that the
manual does not give: 1 the die's trace drops, 2 discarded page-count reports, 3 unclaimed accesses, 4 one of a walker or of an HBM stack
interface, else none; log entry 82. -/
opaque sharedAt : (row word : Nat) → Nat
/-- FREE VALUE (R482): what a counter of the walkers or of an HBM stack interface holds, whose events the manual does not list; log entry
82. -/
opaque sharedCount : (row word time : Nat) → BitVec 64
/-- FREE VALUE (R472): bytes of a knowledge image in the wings log, a format that is not architectural; log entry 15. -/
opaque knowledgeImage : (time index : Nat) → Byte
/-- FREE VALUE (R101): a byte of what an atomic gives that was held under write-block and never performed, its new translation having
faulted; log entry 101. -/
opaque lostAtomic : (counter index : Nat) → Byte
/-- FREE VALUE (R467, R468): bytes of the parts of a green room whose formats are not architectural; log entry 15. -/
opaque greenImage : (part time index : Nat) → Byte
/-- FREE VALUE (R503): VALUE[62:27] of a log record of a mailbox operation or of a `.l` access at a location, and what masks the number of
the location in VALUE[26:0]; the manual gives neither, and tells the locations apart (R505); log entry 17. -/
opaque logLocation : (location : Nat) → BitVec 36
opaque logMask : (high : Nat) → BitVec 27
/-- FREE VALUE (R528): what the package signs with its device key, as bytes; log entry 11. -/
opaque deviceSignature : List Byte → List Byte
/-- FREE VALUE (R528): the answer to a PLDM type 2 request, whose sensors and effecters the manual does not list; log entry 134. -/
opaque pldmAnswer : (counter : Nat) → (request : List Byte) → List Byte
/-- FREE VALUE (R256, R355): what a BARA receives whose arrival a DISCARD entry drops, so that it belongs to no episode; log entry 18. -/
opaque droppedEpisode : Nat → BitVec 64
/-- FREE VALUE (R396): byte i of field B of a VPERM for an element above 31, which the manual names and a register does not hold; log
entry 20. -/
opaque permByte : (control i : Nat) → BitVec 8

end Sys2Proof.Config
end

