-- ==== Sys2Proof/Machine/Formats.lean ====
section
/-! DEFINITION. Element formats, exact values, Round, and conversions (R105 to R137, R384). A finite value is sign, m and e for
m * 2^e; m = 0 is a signed zero. Results that are not dyadic carry a sticky last bit below every rounding position. -/

namespace Sys2Proof.Machine

/-- A value of an element. -/
inductive Num where
  | nan
  | inf (neg : Bool)
  | fin (neg : Bool) (m : Nat) (e : Int)
  deriving DecidableEq, Repr

/-- Rounding modes (R106). -/
inductive Rnd where
  | rne | rtz | rdn | rup
  deriving DecidableEq, Repr

/-- RND of %fmt (R106). -/
def rndOf (c : BitVec 2) : Rnd := if c = 0 then .rne else if c = 1 then .rtz else if c = 2 then .rdn else .rup

/-- Fields of a floating format (R110): exponent and mantissa widths, bias, whether all-ones exponents are special. -/
structure FloatFmt where
  eb : Nat
  mb : Nat
  bias : Int
  /-- 0: IEEE-style infinity and NaN; 1: E4M3; 2: E2M1. -/
  special : Nat
  deriving DecidableEq, Repr

/-- FP32 (R110). -/
def fp32 : FloatFmt := { eb := 8, mb := 23, bias := 127, special := 0 }
/-- BF16. -/
def bf16 : FloatFmt := { eb := 8, mb := 7, bias := 127, special := 0 }
/-- FP16. -/
def fp16 : FloatFmt := { eb := 5, mb := 10, bias := 15, special := 0 }
/-- FP8 E4M3. -/
def e4m3 : FloatFmt := { eb := 4, mb := 3, bias := 7, special := 1 }
/-- FP8 E5M2. -/
def e5m2 : FloatFmt := { eb := 5, mb := 2, bias := 15, special := 0 }
/-- FP4 E2M1. -/
def e2m1 : FloatFmt := { eb := 2, mb := 1, bias := 1, special := 2 }

/-- Width of a floating format. -/
def FloatFmt.width (f : FloatFmt) : Nat := 1 + f.eb + f.mb

/-- The value of an encoding (R110, R111). -/
def decodeFloat (f : FloatFmt) (x : Nat) : Num :=
  let neg := x / 2 ^ (f.eb + f.mb) % 2 == 1
  let ef := x / 2 ^ f.mb % 2 ^ f.eb
  let mf := x % 2 ^ f.mb
  if f.special = 0 ∧ ef = 2 ^ f.eb - 1 then (if mf = 0 then .inf neg else .nan)
  else if f.special = 1 ∧ ef = 2 ^ f.eb - 1 ∧ mf = 2 ^ f.mb - 1 then .nan
  else if ef = 0 then .fin neg mf (1 - f.bias - f.mb)
  else .fin neg (2 ^ f.mb + mf) (ef - f.bias - f.mb)

/-- The largest finite encoding without its sign (R110). -/
def maxFinite (f : FloatFmt) : Nat :=
  if f.special = 0 then (2 ^ f.eb - 1) * 2 ^ f.mb - 1
  else if f.special = 1 then 2 ^ (f.eb + f.mb) - 2 else 2 ^ (f.eb + f.mb) - 1

/-- The canonical NaN (R110, R113); E2M1 has none and gives +0 (R113). -/
def canonNan (f : FloatFmt) : Nat :=
  if f.special = 0 then (2 ^ f.eb - 1) * 2 ^ f.mb + 2 ^ (f.mb - 1)
  else if f.special = 1 then 2 ^ (f.eb + f.mb) - 1 else 0

/-- Quotient by 2^d rounded in a mode: nearest with ties to even, toward zero, or by sign. -/
def roundShift (r : Rnd) (neg : Bool) (m d : Nat) : Nat :=
  let q := m / 2 ^ d
  let rest := m % 2 ^ d
  if rest = 0 then q
  else match r with
    | .rtz => q
    | .rdn => if neg then q + 1 else q
    | .rup => if neg then q else q + 1
    | .rne => if 2 * rest < 2 ^ d then q else if 2 * rest > 2 ^ d then q + 1 else q + q % 2

/-- Sign bit of an encoding. -/
def signBit (f : FloatFmt) (neg : Bool) : Nat := if neg then 2 ^ (f.eb + f.mb) else 0

/-- An infinite result (R132, R133). -/
def encodeInf (f : FloatFmt) (sat neg : Bool) : Nat :=
  if sat || f.special == 2 then signBit f neg + maxFinite f
  else if f.special = 1 then canonNan f
  else signBit f neg + (2 ^ f.eb - 1) * 2 ^ f.mb

/-- Round to a floating format (R132). -/
def roundFloat (f : FloatFmt) (r : Rnd) (sat : Bool) (x : Num) : Nat :=
  match x with
  | .nan => canonNan f
  | .inf neg => encodeInf f sat neg
  | .fin neg m e =>
    if m = 0 then signBit f neg
    else
      let top : Int := Nat.log2 m + e
      let emin : Int := 1 - f.bias
      let u : Int := max top emin - f.mb
      let q := if u ≤ e then m * 2 ^ (e - u).toNat else roundShift r neg m (u - e).toNat
      if q = 0 then signBit f neg
      else
        let k : Int := Nat.log2 q + u
        let code : Nat :=
          if k < emin then q
          else (k + f.bias).toNat * 2 ^ f.mb + (q * 2 ^ f.mb / 2 ^ Nat.log2 q - 2 ^ f.mb)
        if code ≤ maxFinite f then signBit f neg + code
        else
          let toInf := match r with
            | .rne => true
            | .rtz => false
            | .rdn => neg
            | .rup => !neg
          if toInf then encodeInf f sat neg else signBit f neg + maxFinite f

/-- The integer a finite value rounds to (R135). -/
def roundInt (r : Rnd) (neg : Bool) (m : Nat) (e : Int) : Int :=
  let q : Nat := if 0 ≤ e then m * 2 ^ e.toNat else roundShift r neg m (-e).toNat
  if neg then -(q : Int) else q

/-- Integer results wrap or clamp to w bits (R118). -/
def fitInt (w : Nat) (sat : Bool) (v : Int) : Nat :=
  let lo : Int := -(2 ^ (w - 1))
  let hi : Int := 2 ^ (w - 1) - 1
  let v' := if sat then max lo (min hi v) else v
  (v' % 2 ^ w).toNat

/-- A value as an integer of w bits: exact integers wrap or clamp (R118), and with `conv` a floating source always clamps, NaN
giving 0 and an infinity its bound (R136). -/
def roundToInt (w : Nat) (r : Rnd) (sat conv : Bool) (x : Num) : Nat :=
  match x with
  | .nan => 0
  | .inf neg => fitInt w true (if neg then -(2 ^ w) else 2 ^ w)
  | .fin neg m e => fitInt w (sat || conv) (roundInt r neg m e)

/-! ## Arithmetic on values -/

/-- The integer value of a finite number scaled by 2^-e, for e at most its exponent. -/
def scaled (neg : Bool) (m : Nat) (e e' : Int) : Int :=
  let v : Int := m * 2 ^ (e - e').toNat
  if neg then -v else v

/-- A finite value of a signed integer multiple of 2^e; an exact zero takes the given sign. -/
def numOfInt (v : Int) (e : Int) (zeroNeg : Bool) : Num :=
  if v = 0 then .fin zeroNeg 0 e else .fin (v < 0) v.natAbs e

/-- Sum (R134). -/
def Num.add (r : Rnd) (a b : Num) : Num :=
  match a, b with
  | .nan, _ => .nan
  | _, .nan => .nan
  | .inf n, .inf n' => if n = n' then .inf n else .nan
  | .inf n, _ => .inf n
  | _, .inf n => .inf n
  | .fin n m e, .fin n' m' e' =>
    let e₀ := min e e'
    let zeroNeg := if m = 0 ∧ m' = 0 ∧ n = n' then n else r == .rdn
    numOfInt (scaled n m e e₀ + scaled n' m' e' e₀) e₀ zeroNeg

/-- Negation; NaN stays (R383). -/
def Num.neg (a : Num) : Num :=
  match a with
  | .nan => .nan
  | .inf n => .inf !n
  | .fin n m e => .fin (!n) m e

/-- Magnitude (R383). -/
def Num.abs (a : Num) : Num :=
  match a with
  | .nan => .nan
  | .inf _ => .inf false
  | .fin _ m e => .fin false m e

/-- Product. -/
def Num.mul (a b : Num) : Num :=
  match a, b with
  | .nan, _ => .nan
  | _, .nan => .nan
  | .inf n, .inf n' => .inf (n != n')
  | .inf n, .fin n' m _ => if m = 0 then .nan else .inf (n != n')
  | .fin n m _, .inf n' => if m = 0 then .nan else .inf (n != n')
  | .fin n m e, .fin n' m' e' => .fin (n != n') (m * m') (e + e')

/-- Quotient, with a sticky last bit (R384). -/
def Num.div (a b : Num) : Num :=
  match a, b with
  | .nan, _ => .nan
  | _, .nan => .nan
  | .inf _, .inf _ => .nan
  | .inf n, .fin n' _ _ => .inf (n != n')
  | .fin n _ e, .inf n' => .fin (n != n') 0 e
  | .fin n m e, .fin n' m' e' =>
    if m' = 0 then (if m = 0 then .nan else .inf (n != n'))
    else
      let q := m * 2 ^ 80 / m'
      .fin (n != n') (2 * q + (if m * 2 ^ 80 % m' = 0 then 0 else 1)) (e - e' - 81)

/-- The comparison of finite values: a < b. -/
def finLt (n : Bool) (m : Nat) (e : Int) (n' : Bool) (m' : Nat) (e' : Int) : Bool :=
  let e₀ := min e e'
  scaled n m e e₀ < scaled n' m' e' e₀

/-- The relation a < b; false where either is NaN (R385). -/
def Num.lt (a b : Num) : Bool :=
  match a, b with
  | .nan, _ => false
  | _, .nan => false
  | .inf n, .inf n' => n && !n'
  | .inf n, .fin .. => n
  | .fin .., .inf n => !n
  | .fin n m e, .fin n' m' e' => finLt n m e n' m' e'

/-- Sign of a value that is not NaN. -/
def Num.isNeg : Num → Bool
  | .nan => false
  | .inf n => n
  | .fin n _ _ => n

/-- minimum of IEEE 754-2019: NaN wins, -0 is less than +0 (R383). -/
def Num.min (a b : Num) : Num :=
  if a = .nan ∨ b = .nan then .nan
  else if a.lt b then a else if b.lt a then b else if a.isNeg then a else b

/-- maximum of IEEE 754-2019 (R383). -/
def Num.max (a b : Num) : Num :=
  if a = .nan ∨ b = .nan then .nan
  else if a.lt b then b else if b.lt a then a else if a.isNeg then b else a

/-- Integer square root by bits, from bit k downwards. -/
def isqrtFrom (n : Nat) (k r : Nat) : Nat :=
  match k with
  | 0 => r
  | k + 1 =>
    let t := r + 2 ^ k
    isqrtFrom n k (if t * t ≤ n then t else r)

/-- Square root, with a sticky last bit (R384). -/
def Num.sqrt (a : Num) : Num :=
  match a with
  | .nan => .nan
  | .inf n => if n then .nan else .inf false
  | .fin n m e =>
    if m = 0 then .fin n 0 e
    else if n then .nan
    else
      let odd : Nat := (e % 2).toNat
      let x := m * 2 ^ odd * 2 ^ 80
      let q := isqrtFrom x 60 0
      .fin false (2 * q + (if q * q = x then 0 else 1)) ((e - odd) / 2 - 41)

/-- Bits of the fixed point in which logarithms and exponentials are formed. -/
def fixBits : Nat := 400

/-- ln 2 in fixed point: the sum of 1 / (k * 2^k). -/
def ln2Fix : Nat := (List.range 410).foldl (fun acc k => acc + 2 ^ fixBits / ((k + 1) * 2 ^ (k + 1))) 0

/-- Sum of x^k / k! in fixed point, the k-th term given. -/
def expTerms (x : Nat) (fuel k term acc : Nat) : Nat :=
  match fuel with
  | 0 => acc
  | fuel + 1 => expTerms x fuel (k + 1) (term * x / 2 ^ fixBits / k) (acc + term)

/-- 2^a, with a sticky last bit; far out of range it gives a value beyond every format (R384). -/
def Num.exp2 (a : Num) : Num :=
  match a with
  | .nan => .nan
  | .inf n => if n then .fin false 0 0 else .inf false
  | .fin n m e =>
    if m = 0 then .fin false 1 0
    else if 10 < Nat.log2 m + e then (if n then .fin false 1 (-2000) else .fin false 1 2000)
    else
      let v : Int := if 0 ≤ e then scaled n m e 0 * 2 ^ fixBits else scaled n m 0 0 * 2 ^ (fixBits - (-e).toNat)
      let i := v / 2 ^ fixBits
      let f := (v % 2 ^ fixBits).toNat
      if f = 0 then .fin false 1 i
      else .fin false (2 * expTerms (f * ln2Fix / 2 ^ fixBits) 110 1 (2 ^ fixBits) 0 + 1) (i - fixBits - 1)

/-- Sum of y^(2k+1) / (2k+1) in fixed point. -/
def atanhTerms (y2 : Nat) (fuel k term acc : Nat) : Nat :=
  match fuel with
  | 0 => acc
  | fuel + 1 => atanhTerms y2 fuel (k + 2) (term * y2 / 2 ^ fixBits) (acc + term / k)

/-- The base-2 logarithm, with a sticky last bit (R384). -/
def Num.log2 (a : Num) : Num :=
  match a with
  | .nan => .nan
  | .inf n => if n then .nan else .inf false
  | .fin n m e =>
    if m = 0 then .inf true
    else if n then .nan
    else
      let k := Nat.log2 m
      let i : Int := k + e
      if m = 2 ^ k then numOfInt i 0 false
      else
        let x := m * 2 ^ fixBits / 2 ^ k
        let y := (x - 2 ^ fixBits) * 2 ^ fixBits / (x + 2 ^ fixBits)
        let ln := 2 * atanhTerms (y * y / 2 ^ fixBits) 140 1 y 0
        let v : Int := i * 2 ^ fixBits + (ln * 2 ^ fixBits / ln2Fix : Nat)
        .fin (v < 0) (2 * v.natAbs + 1) (-(fixBits : Int) - 1)

/-! ## Elements of a register (R105, R126) -/

/-- The floating format of a code; none for the others (R105). -/
def floatOf (fmt : Nat) : Option FloatFmt :=
  match fmt with
  | 0 => some fp32 | 1 => some bf16 | 2 => some fp16 | 3 => some e4m3 | 4 => some e5m2 | 5 => some e2m1
  | _ => none

/-- Width of an element (R105). -/
def fmtWidth (fmt : Nat) : Nat :=
  match fmt with
  | 0 => 32 | 1 => 16 | 2 => 16 | 3 => 8 | 4 => 8 | 5 => 4 | 6 => 8 | 7 => 16 | 8 => 32 | _ => 4

/-- Elements of a register (R105). -/
def fmtCount (fmt : Nat) : Nat := 256 / fmtWidth fmt

/-- Bits of element i of a format. -/
def elemBits (fmt : Nat) (v : Vec) (i : Nat) : Nat := (v.extractLsb' (fmtWidth fmt * i) (fmtWidth fmt)).toNat

/-- Signed value of a w-bit pattern. -/
def signedOf (w x : Nat) : Int := if x < 2 ^ (w - 1) then x else (x : Int) - 2 ^ w

/-- Value of element bits: floating (R111) or two's complement (R117). -/
def numOfBits (fmt : Nat) (x : Nat) : Num :=
  match floatOf fmt with
  | some f => decodeFloat f x
  | none => numOfInt (signedOf (fmtWidth fmt) x) 0 false

/-- Elem (R12). -/
def elem (fmt : Nat) (v : Vec) (i : Nat) : Num := numOfBits fmt (elemBits fmt v i)

/-- Encoding of a value in a format (R118, R132). -/
def encodeNum (fmt : Nat) (r : Rnd) (sat : Bool) (x : Num) : Nat :=
  match floatOf fmt with
  | some f => roundFloat f r sat x
  | none => roundToInt (fmtWidth fmt) r sat false x

/-- A register whose element i, of width w, is f i for the first n elements; the rest is zero (R126). -/
def packWith (w n : Nat) (f : Nat → Nat) : Vec :=
  BitVec.ofNat 256 ((List.range n).foldr (fun i acc => f i % 2 ^ w * 2 ^ (w * i) + acc) 0)

/-- Replaces the w bits of element i (SetElem of R12). -/
def setBits (w : Nat) (v : Vec) (i x : Nat) : Vec :=
  (v &&& ~~~(BitVec.ofNat 256 ((2 ^ w - 1) * 2 ^ (w * i)))) ||| BitVec.ofNat 256 (x % 2 ^ w * 2 ^ (w * i))

/-- Conversion of a value from one format to another (R136). -/
def convertNum (src dst : Nat) (r : Rnd) (sat : Bool) (x : Num) : Nat :=
  match floatOf dst with
  | some f => roundFloat f r sat x
  | none => roundToInt (fmtWidth dst) r sat (floatOf src).isSome x

/-! ## Shared scales (R116, R122 to R124) -/

/-- The value 2^(e - 127) of an E8M0 scale; 0xFF is NaN (R116). -/
def scaleNum (e : Nat) : Num := if e = 255 then .nan else .fin false 1 ((e : Int) - 127)

/-- The codebook of QN4 (R122). -/
def qn4Book (q : Nat) : Int :=
  [-256, -184, -140, -106, -78, -53, -31, -12, 0, 15, 38, 64, 93, 128, 175, 256].getD q 0

/-- The block scale of R123 as a value. -/
def qn4Scale (s c : Nat) : Num :=
  decodeFloat fp32 (roundFloat fp32 .rne false ((decodeFloat fp32 s).mul (.fin false c (-8))))

/-- Decoding of a QN4 code to FP32 (R123). -/
def qn4Decode (s c q : Nat) : Nat :=
  if c = 0 then 0
  else roundFloat fp32 .rne false ((numOfInt (qn4Book q) (-8) false).mul (qn4Scale s c))

/-- The distance of two finite values, as an exact value. -/
def numDist (a b : Num) : Num := (a.add .rne b.neg).abs

/-- Among the codes from q down to 0, one nearest to x, a tie going to the smaller magnitude of the codebook (R124). -/
def qn4Nearest (s c : Nat) (x : Num) (q best : Nat) : Nat :=
  match q with
  | 0 => best
  | q + 1 =>
    let dq := numDist x (decodeFloat fp32 (qn4Decode s c q))
    let db := numDist x (decodeFloat fp32 (qn4Decode s c best))
    qn4Nearest s c x q
      (if dq.lt db || (!db.lt dq && (qn4Book q).natAbs < (qn4Book best).natAbs) then q else best)

/-- The QN4 code of a value (R124). Of a finite value, where the block scale is NaN or infinite, no code is nearest and the result is a free
value; of an infinite one, where it is NaN and has no sign, which of the two codes. -/
def qn4Encode (s c : Nat) (x : Num) : Nat :=
  if c = 0 then 8
  else match x, qn4Scale s c with
    | .nan, _ => 8
    | .inf n, .inf n' => if n = n' then 15 else 0
    | .inf n, .fin n' _ _ => if n = n' then 15 else 0
    | .fin .., .fin .. => qn4Nearest s c x 15 15
    | .inf n, .nan => if (Config.openCode s c (if n then 1 else 0)).getLsbD 0 then 15 else 0
    | .fin _ m _, _ => (Config.openCode s c m).toNat

/-- The value of an FP4 code under a scale byte (R116). -/
def fp4Num (e code : Nat) : Num := if e = 255 then .nan else (decodeFloat e2m1 code).mul (scaleNum e)

/-- floor(log2 x) of a positive finite value. -/
def floorLog2 (m : Nat) (e : Int) : Int := Nat.log2 m + e

/-- FP32 pattern of the largest magnitude of two values, an infinite one bound by SAT (R133, R399, R434). -/
def amaxBits (sat : Bool) (acc : Nat) (x : Num) : Nat :=
  roundFloat fp32 .rne sat ((decodeFloat fp32 acc).max (decodeFloat fp32 (roundFloat fp32 .rne false x.abs)))

end Sys2Proof.Machine
end

