-- ==== Sys2Proof/Machine/State.lean ====
section
/-! DEFINITION. The state of the package as plain data, the state after reset, and why a step can stop. Tables are finite maps
with strictly rising keys; an absent entry reads as the reset value of its type. INVENTORY.md lists every field with its rule. -/

namespace Sys2Proof.Machine

/-- Fault codes (R455). -/
inductive FaultCode where
  | illegalOp | extAbsent | operandForm | priv | align | pageSplit | xlateMiss | xlatePerm | mmRace | qcue | qunbound
  | futFault | doubleResolve | claimExceeded | noClaim | overlay | bkpt | trap | heartbeat | neighbourFenced | async
  | scope | tileState | replayDiverged | preempt | sramEcc | migrateDenied
  deriving DecidableEq, Repr

/-- The machine stops with a fault: never. Every fault of the manual is taken as a next state (R456, R460), so this type has no
constructor that a step raises but the one below. -/
inductive Fault where
  /-- Raised by no step; kept so that the type is inhabited. Safe. -/
  | none
  deriving DecidableEq, Repr

/-- Why a step has no meaning. -/
inductive Refusal where
  /-- Raised by an arm of the dispatch whose instruction has no meaning yet. Safe. -/
  | notModelled (mnemonic : String)
  /-- Raised by a step whose agenda asks for an instruction as though it were an event. Safe. -/
  | notAnEvent
  deriving DecidableEq, Repr

/-! ## Knowledge of the race detector (R197 to R203) -/

/-- The identity of a barrier: its scratch address and generation (R198). -/
structure BarId where
  cl : Nat
  company : Nat
  lbank : Nat
  off : Nat
  gen : Nat
  deriving DecidableEq, Repr

/-- Frontier of up to 8, barrier record of up to 4, and SAT (R200). -/
structure Knowledge where
  front : List (Nat × Nat)
  brec : List (BarId × Nat)
  sat : Bool
  deriving DecidableEq, Repr

/-- Empty knowledge. -/
def Knowledge.empty : Knowledge := { front := [], brec := [], sat := false }

/-- A token and the knowledge that travels with it (R200, R201). -/
structure Carried where
  tag : Nat
  launch : Nat
  cnt : Nat
  know : Knowledge
  deriving DecidableEq, Repr

/-- What an edge's carrier has merged so far, for tasks of one launch (R201). -/
structure Carrier where
  launch : Option Nat
  know : Knowledge
  deriving DecidableEq, Repr

/-- An empty carrier. -/
def Carrier.empty : Carrier := { launch := none, know := .empty }

/-- The stamp of a line; a line without one has V = 0 (R197). -/
structure Stamp where
  lnch : Nat
  wtag : Nat
  wcnt : Nat
  wbh : BitVec 8
  wbe : BitVec 8
  wsync : Bool
  wmask : BitVec 64
  rtag : Nat
  rcnt : Nat
  rbh : BitVec 8
  rbe : BitVec 8
  rmany : Bool
  rmask : BitVec 64
  deriving DecidableEq, Repr

/-- Who records in a stamp: launch, tag, count and mark (R204). -/
structure Stamper where
  lnch : Nat
  tag : Nat
  cnt : Nat
  bh : BitVec 8
  be : BitVec 8
  deriving DecidableEq, Repr

/-- What a release record is keyed by (R203). -/
inductive RelKey where
  | g (line : Nat)
  | s (company lbank line : Nat)
  | l (core line : Nat)
  deriving DecidableEq, Repr

/-- Bounding box of DIE, ROW and COL ranges, low and high (R203). -/
structure Box where
  dieLo : Nat
  dieHi : Nat
  rowLo : Nat
  rowHi : Nat
  colLo : Nat
  colHi : Nat
  deriving DecidableEq, Repr

/-- A release record (R203). -/
structure RelRecord where
  key : RelKey
  pnum : Nat
  carrier : Carrier
  /-- What FRES, FFAIL and exported updates have released on each future cell of the line, by its number there; it passes whatever the
  boxes (R186, R187). -/
  cells : Tbl Carrier
  scopeBox : Box
  homeBox : Box
  deriving DecidableEq, Repr

/-! ## Contexts -/

/-- What a trap carries to %cause, %epc and %tval (R458). -/
structure TrapRec where
  code : FaultCode
  inner : Nat
  tval : Word
  epc : Pc
  role : Bool
  olnch : Nat
  oindex : Nat
  /-- A BKPT that the breakpoint table raised (R495, R496). -/
  table : Bool
  /-- When the fault was raised; of an ASYNC trap also the engine queue and the operation that raised it (R462). -/
  time : Nat
  qsel : Nat
  opid : Nat
  deriving DecidableEq, Repr

/-- A fault record (R462). -/
structure FaultRec where
  gtid : Word
  tval : Word
  pc : Pc
  code : Nat
  async : Bool
  fatal : Bool
  fwd : Bool
  undeliv : Bool
  role : Bool
  coord : Coord
  olnch : Nat
  oindex : Nat
  qsel : Nat
  time : Nat
  opid : Nat
  deriving DecidableEq, Repr

/-- A queue register (R142): its binding, tag latch, window buffer, WPEND and FENCED (R141, R160, R163). -/
structure QReg where
  bound : Option (Nat × Bool)
  latch : Nat
  window : Tbl Vec
  wpend : Nat
  /-- The fenced core, while FENCED is set. -/
  fenced : Option Coord
  deriving DecidableEq, Repr

/-- An unbound queue register. -/
def QReg.unbound : QReg := { bound := none, latch := 0, window := [], wpend := 0, fenced := none }

/-- A leaf that an access in flight has been given (R45, R46, R90): level, entry, and whether the walk was for a write. -/
structure Leaf where
  vpn : Nat
  write : Bool
  level : Nat
  entry : Word
  deriving DecidableEq, Repr

/-- What an instruction in flight is waiting for (R185, R216). -/
inductive Flight where
  /-- A walk serves its translation (R43). -/
  | walk (va : Nat) (write : Bool)
  /-- Its access is on its way to its home (R71). -/
  | home (write : Bool)
  /-- Its home fills the line (R85). -/
  | fill (pa : Nat) (leaf : Leaf) (va : Nat)
  /-- Its atomic is held under write-block (R101). -/
  | held (leaf : Leaf) (va : Nat)
  /-- Its atomic, held under a leaf, translates again for a shootdown (R101). -/
  | retry (leaf : Leaf) (va : Nat)
  /-- A SLEEP until a time in ns; what came before that time gives the code it ends with: 1 an EVENT, 2 a suspension (R331). -/
  | sleep (start until_ : Nat) (ends : Option (Fin 3))
  /-- A TWAIT until a deadline in ns (R333). -/
  | twait (start deadline : Nat)
  /-- A remote atomic waits for its answer from another package (R337, R517). -/
  | peer (request : Nat) (answer : Option (Option PeerRefusal × Word))
  deriving DecidableEq, Repr

/-- What a waiting instruction waits on (R231); a full engine queue is no architectural wait (R342). -/
inductive WaitOn where
  | queue | credit | future | mailbox | barrier | box | engine
  deriving DecidableEq, Repr

/-- An architectural wait (R231). -/
def WaitOn.arch (w : WaitOn) : Bool := w != .engine

/-- What a slot's occupant is doing (R216, R231, R367, R456). -/
inductive Status where
  /-- No instruction in flight and no wait. -/
  | idle
  /-- An instruction in flight. -/
  | flight (f : Flight)
  /-- A wait. -/
  | waiting (w : WaitOn)
  /-- A trap waits for service or is in service. -/
  | trapped (t : TrapRec) (serving : Bool)
  /-- A continuation waits for its start (R367). -/
  | parked
  /-- In migration transit from a core (R224). -/
  | transit (src : Coord)
  deriving DecidableEq, Repr

/-- Streak of R77: a cluster index and a count. -/
structure Streak where
  cl : Nat
  count : Nat
  deriving DecidableEq, Repr

/-- A task, or the control context of a core. -/
structure Ctx where
  task : Bool
  g : Vector Vec 16
  ft : Vector (BitVec 2) 16
  /-- What an observation of the resolution word in a register merges (R192, R201). -/
  fut : Tbl Carried
  p : Vector Word 7
  pc : Pc
  fmt : BitVec 7
  /-- COUNT of %rc; SAT is in `know` (R199, R200). -/
  rcCount : BitVec 16
  gtid : Word
  home : Coord
  img : BitVec 16
  company : BitVec 4
  stage : Bool
  core : Coord
  slot : Fin 16
  pinned : Bool
  streak : Option Streak
  know : Knowledge
  mark : Option (BarId × Nat)
  qregs : Vector QReg 16
  status : Status
  suspended : Bool
  /-- PC and slot are saved in the green room (R465 step 3). -/
  saved : Bool
  asyncs : List FaultRec
  /-- A trap that a resume raises again once the records of the fault list have been delivered (R474). -/
  pending : Option TrapRec
  /-- The word of the instruction that issued last (R269); one that waits or is in flight acts again from it. -/
  word : InstrWord
  /-- Words fetched ahead, next first (R268). -/
  fetched : List (Pc × InstrWord)
  /-- The execute boundary as the slot's fetches see it (R268). -/
  xb : BitVec 14
  /-- The LUT4 table and the shape record with which a waiting instruction issued (R121, R376). -/
  lut : Option (BitVec 128)
  shape : Option (BitVec 512)
  /-- The next unused number when the waiting instruction issued: what was enqueued earlier has a lower one (R255). -/
  since : Option Nat
  skipBp : Bool
  yielded : Bool
  /-- First cycle in which the slot may issue again (R216). -/
  readyAt : Nat
  /-- Heartbeat timer in cycles (R233). -/
  hb : Nat
  leaves : List Leaf
  /-- Accesses of the instruction in flight for which the streak has been updated (R77). -/
  streaked : Nat
  /-- Lines for which the instruction in flight has been counted as a miss at its home (R482). -/
  missed : List Nat
  /-- The instruction in flight has reached its home. -/
  arrived : Bool
  /-- A store or arrival that waited at an ingress has landed, with this result (R473, R474). -/
  landed : Option Word
  /-- What a walk made for PROBE alone found: code, reason and level of a fault (R353). -/
  probed : Option (FaultCode × Nat × Nat)
  /-- The first instruction after arrival checks image and extension (R225). -/
  arriving : Bool
  deriving DecidableEq, Repr

/-! ## Cores -/

/-- A mailbox counter (R165, R168). -/
structure Mail where
  count : BitVec 32
  company : BitVec 4
  owned : Bool
  ovf : Bool
  /-- A kill has cleared the counter, and nothing has set it since (R256, R257). -/
  cleared : Bool
  waiters : List Nat
  carrier : Carrier
  deriving DecidableEq, Repr

/-- The reset value of a mailbox counter. -/
def Mail.zero : Mail := { count := 0, company := 0, owned := false, ovf := false, cleared := false, waiters := [], carrier := .empty }

/-- The row buffer of a tile unit (R401): sign-magnitude elements by row * 256 + k, exponents by row * 8 + block. -/
structure RowBuf where
  valid : Bool
  fmt : Nat
  rows : Nat
  mags : Tbl Int
  exps : Tbl Int
  nans : List Nat
  deriving DecidableEq, Repr

/-- A tile unit's B operand (R401): cells by k * 64 + column, exponents and NaN flags by block * 64 + column. -/
structure TileB where
  valid : Bool
  fmt : Nat
  mags : Tbl Int
  exps : Tbl Int
  nans : List Nat
  deriving DecidableEq, Repr

/-- A granted B operand: INT8 zeros, valid (R401). -/
def TileB.granted : TileB := { valid := true, fmt := 6, mags := [], exps := [], nans := [] }

/-- A tile unit (R401, R402); accumulators by row * 256 + column, absent +0. -/
structure Tile where
  bound : Option Nat
  row : RowBuf
  b : Tbl TileB
  acc0 : Tbl (BitVec 32)
  acc1 : Tbl (BitVec 32)
  deriving DecidableEq, Repr

/-- A row buffer that is not valid. -/
def RowBuf.invalid : RowBuf := { valid := false, fmt := 0, rows := 0, mags := [], exps := [], nans := [] }

/-- One entry of the breakpoint table a core holds (R493, R494). -/
structure BpEntry where
  gtid : Word
  gmask : Word
  pc : Pc
  en : Bool
  cond : BitVec 2
  pred : Fin 8
  reg : Fin 16
  value : Word
  deriving DecidableEq, Repr

/-- A record of the trace buffer, 4 words (R490 to R492), with its partition, and TRLVL and TGRAN of the policy under which it was made
(R511). -/
structure TraceRec where
  words : List Word
  pnum : Nat
  trlvl : Nat
  tgran : Nat
  deriving DecidableEq, Repr

/-- A core. -/
structure Core where
  xb : BitVec 14
  img : BitVec 16
  ovl : BitVec 14
  chalt : Bool
  lut : BitVec 128
  cause : Word
  epc : Word
  tval : Word
  /-- Trapped tasks in the order of their faults (R456). -/
  traps : List Nat
  serving : Option Nat
  /-- The control context runs (R215, R216, R327). -/
  active : Bool
  last : Fin 16
  /-- First cycle in which the core may issue again (R217). -/
  issueAt : Nat
  /-- Shape records by address, most recently used first (R376). -/
  shapes : List (Nat × BitVec 512)
  mail : Vector Mail 16
  tile : Tile
  fenced : Bool
  fslot : BitVec 4
  multi : Bool
  cfgtid : Word
  bps : List BpEntry
  trace : List TraceRec
  /-- Creations per launch (R213). -/
  created : Tbl Nat
  /-- Next operation id per engine queue (R340). -/
  opIds : Tbl Nat
  /-- The cycle, plus 1, in which a slot was ready last, and how many cycles had a ready slot (R230, R482). -/
  readyIn : Nat
  readyCycles : Nat
  deriving DecidableEq, Repr

/-- A core after reset. -/
def Core.reset : Core :=
  { xb := 0, img := 0, ovl := 0, chalt := false, lut := 0, cause := 0, epc := 0, tval := 0, traps := [], serving := none, active := false,
    last := 0, issueAt := 0, shapes := [], mail := Vector.replicate 16 Mail.zero,
    tile := { bound := none, row := .invalid, b := [], acc0 := [], acc1 := [] },
    fenced := false, fslot := 0, multi := false, cfgtid := 0, bps := [], trace := [], created := [], opIds := [],
    readyIn := 0, readyCycles := 0 }

/-! ## Clusters -/

/-- Modes of a bank (R63). -/
inductive BankMode where
  | cache | scratch | fifo | retiring
  deriving DecidableEq, Repr

/-- A cluster-store bank (R63, R69). `next` is the mode of a switch in progress (R65). -/
structure Bank where
  mode : BankMode
  next : Option BankMode
  held : Bool
  company : Nat
  lbank : Nat
  deriving DecidableEq, Repr

/-- A bank after reset: CACHE, free. -/
def Bank.reset : Bank := { mode := .cache, next := none, held := false, company := 0, lbank := 0 }

/-- A triple of slots, banks and tile macros (R243). -/
structure Triple where
  slots : Nat
  banks : Nat
  tiles : Nat
  deriving DecidableEq, Repr

/-- A logical bank that the command processor has taken from a suspended company; its bytes stand in the green room (R258). -/
structure SavedBank where
  lbank : Nat
  mode : BankMode
  deriving DecidableEq, Repr

/-- A core's local data region, saved as an image of the green room (R466): the core, the core it is restored to, and the image's place. -/
structure SavedLocal where
  core : Coord
  dest : Coord
  place : Nat
  deriving DecidableEq, Repr

/-- A company of a cluster (R240, R243, R464). -/
structure Company where
  pnum : Nat
  launch : Nat
  stage : Bool
  claim : Triple
  slots : List (Coord × Nat)
  tiles : List (Coord × Nat)
  susp : Bool
  busy : Bool
  reason : BitVec 2
  cgrb : BitVec 40
  /-- Suspension under way, not yet at its suspension point (R465). -/
  stopping : Bool
  /-- Holdings reassigned by the command processor while suspended (R258). -/
  savedBanks : List SavedBank
  savedTiles : List (Coord × Nat × TileB)
  savedSlots : List (Coord × Nat)
  savedLocals : List SavedLocal
  /-- Tile state of a task that binds a unit: core, row buffer, accumulators (R404). -/
  savedUnits : List (Coord × Tile)
  /-- Resume waits for its grant or is under way (R259, R474). -/
  resuming : Bool
  deriving DecidableEq, Repr

/-- What the box office is asked for (R247, R254, R259). -/
inductive BoxWant where
  | acq (word : Word)
  | slot (core : Coord)
  /-- A slot on the first core of a cluster, cyclically from a local position, that has an extension (R79, R227). -/
  | anySlot (first : Nat) (ext : Ext)
  | resume
  deriving DecidableEq, Repr

/-- Where a request stands (R251, R253). -/
inductive BoxPhase where
  | fresh
  | refused (unsafeNow : Bool)
  | granted (slot : Nat) (tiles : BitVec 4) (lbanks : BitVec 32)
  /-- A slot of a core, for a request that names none. -/
  | placed (core : Coord) (slot : Nat)
  | done (result : Word)
  deriving DecidableEq, Repr

/-- A request at a box office, made by a context, or by the command processor for a resume. -/
structure BoxReq where
  key : Nat
  company : Nat
  want : BoxWant
  waits : Bool
  phase : BoxPhase
  redecide : Bool
  deriving DecidableEq, Repr

/-- A diversion-table entry (R470). -/
inductive Divert where
  /-- LOG is the address of the wings log's header, 0 where there is none (R465). -/
  | divert (company : Nat) (mbox hold : Bool) (log : Nat) (lbanks : BitVec 32)
  | discard (company lbank : Nat)
  deriving DecidableEq, Repr

/-- Whose store a scratch write is, as a dump lists it: task, company, engine queue (31 for a task store) and operation (R500). -/
structure StoreSrc where
  gtid : Word
  cl : Nat
  company : Nat
  qsel : Nat
  opid : Nat
  deriving DecidableEq, Repr

/-- What reaches a company's scratch, barriers or counters from elsewhere (R471); `who` is the operation or the context that waits
for it. `token` of an arrival is whether its carrier takes the token (R201). -/
inductive Arrival where
  | write (company lbank off : Nat) (data : List Byte) (who : Option Nat) (src : Option StoreSrc)
  | count (company : Nat) (core : Coord) (tag : Nat) (know : Option Carried) (who : Option Nat)
  | arrive (company lbank off : Nat) (scope : BitVec 32) (home : Coord) (know : Carried) (token : Bool) (who : Option Nat)
  | lwrite (company : Nat) (core : Coord) (off : Nat) (data : List Byte) (who : Option Nat) (src : Option StoreSrc)
  deriving DecidableEq, Repr

/-- The carrier of a barrier's episode (R201). -/
structure BarCarrier where
  id : BarId
  episode : Nat
  carrier : Carrier
  scopeBox : Box
  homeBox : Box
  deriving DecidableEq, Repr

/-- An entry of a translation cache (R42). -/
structure TlbEntry where
  pnum : Nat
  leaf : Leaf
  deriving DecidableEq, Repr

/-- A cluster. -/
structure Cluster where
  banks : Tbl Bank
  companies : Tbl Company
  /-- CCTL.ERR of each company number (R464). -/
  cerr : List Nat
  reqs : List BoxReq
  diverts : Tbl Divert
  records : List RelRecord
  recDropped : Bool
  barriers : List BarCarrier
  tlb : List TlbEntry
  /-- Lines waiting in the write-back buffer, oldest first: line number and data (R83). -/
  writebacks : List (Nat × BitVec 512)
  /-- Arrivals held at the ingress, oldest first, by company (R473, R474). -/
  ingress : List Arrival
  /-- The wings log of each suspended company, oldest first (R472). -/
  wings : Tbl (List Arrival)
  /-- Fault lists of suspended companies (R467). -/
  flists : Tbl (List FaultRec)
  deriving DecidableEq, Repr

/-- A cluster after reset. -/
def Cluster.reset : Cluster :=
  { banks := [], companies := [], cerr := [], reqs := [], diverts := [], records := [], recDropped := false, barriers := [],
    tlb := [], writebacks := [], ingress := [], wings := [], flists := [] }

/-! ## Memory and homes -/

/-- A line present at its home (R71, R197, R478). -/
structure Line where
  home : Nat
  bank : Nat
  data : BitVec 512
  dirty : Bool
  poison : Bool
  stamp : Option Stamp
  deriving DecidableEq, Repr

/-- Who asks for a walk (R43): an instruction of a context, PROBE, an engine operation, an operator, an exported update, PREF, and a
held store or atomic that translates again, each but the first two with the translation cache that takes the leaf: a cluster's by its
index, an operator tile's by 192 + its number. -/
inductive Requester where
  | ctx (k : Nat)
  | probe (k : Nat)
  | op (n cache : Nat)
  | opr (k cache : Nat)
  | cell (pkt cache : Nat)
  | pref (va cache : Nat)
  | store (n cache : Nat)
  | atomic (k cache : Nat)
  deriving DecidableEq, Repr

/-- A requester is an operator. -/
def Requester.isOpr (r : Requester) (k : Nat) : Bool :=
  match r with
  | .opr j _ => j == k
  | _ => false

/-- A requester is an exported update. -/
def Requester.isCell (r : Requester) (p : Nat) : Bool :=
  match r with
  | .cell q _ => q == p
  | _ => false

/-- A fault that a walk has returned to a requester that takes it when it acts next (R44). -/
structure WalkFault where
  who : Requester
  vpn : Nat
  write : Bool
  code : FaultCode
  reason : Nat
  level : Nat
  deriving DecidableEq, Repr

/-- A walk outstanding, or waiting for a walker (R38, R43). `cas` holds an entry read whose A or D bits are to be set. -/
structure Walk where
  die : Nat
  cl : Nat
  pnum : Nat
  va : Nat
  write : Bool
  started : Bool
  base : Nat
  level : Nat
  cas : Option Word
  requesters : List Requester
  deriving DecidableEq, Repr

/-- Whose store is held: a context's, an engine operation's, an operator's for an item, or the command processor's. -/
inductive HeldBy where
  | ctx | op (n : Nat) | opr (k launch item : Nat) | cp
  deriving DecidableEq, Repr

/-- A store held under write-block (R101, R102). `key` is its context, of a task's store that has completed; any other has its own number
there, which no context has. -/
structure HeldStore where
  by_ : HeldBy
  key : Nat
  gtid : Word
  pnum : Nat
  cl : Nat
  core : Coord
  /-- Its task's company: the cluster of the task's home, and the number (R240). -/
  homeCl : Nat
  company : Nat
  /-- The shootdown, by its command-processor core, for which it translates again. -/
  walking : Option Nat
  /-- The leaf that its retry has given it, while it is on its way to the home of that leaf. -/
  ready : Option Leaf
  /-- The digest of its task when it was issued (R504). -/
  digest : BitVec 64
  home : Nat
  va : Nat
  leaf : Leaf
  data : List Byte
  na : Bool
  /-- Who is recorded in the stamp of its line; nobody, where its accesses are not checked (R196). -/
  stamper : Option Stamper
  sync : Bool
  /-- Later accesses of the task perform after it: a FENCE followed, or it carries `.ar` (R182, R183). -/
  fence : Bool
  /-- What the store releases, its scope and the releaser's home, when it performs. -/
  release : Option (Carried × BitVec 32 × Coord)
  deriving DecidableEq, Repr

/-- A page-count report (R93). -/
structure PageReport where
  pnum : Nat
  vpn : Nat
  tier : Nat
  deriving DecidableEq, Repr

/-- A shootdown in flight (R45 to R48). -/
structure Shootdown where
  cp : Nat
  pnum : Nat
  lo : Nat
  hi : Nat
  /-- Caches that have not reached their drop point: clusters by index, then operator tiles by 192 + number. -/
  todo : List Nat
  /-- Contexts whose held atomic translates again for it, and has not yet performed or been held again (R101). -/
  retries : List Nat
  /-- Accesses in flight that used a dropped entry: context and page. -/
  waitsCtx : List (Nat × Nat)
  /-- Accesses held under write-block under a new leaf, by number or context, which do not count (R101). -/
  heldAgain : List Nat
  deriving DecidableEq, Repr

/-- Shootdown registers of a command-processor core (R48). -/
structure SdRegs where
  lo : Word
  hi : Word
  pnum : BitVec 6
  busy : Bool
  allva : Bool
  done : Bool
  err : Bool
  /-- Context whose request the firmware's default handler serves with them (R539). -/
  client : Option Nat
  deriving DecidableEq, Repr

/-! ## Queues -/

/-- An entry of a queue (R138, R139). -/
structure Entry where
  payload : Vec
  kind : Fin 8
  fmark : Bool
  tag : BitVec 24
  deriving DecidableEq, Repr

/-- One end of a queue (R142, R360). -/
inductive QEnd where
  | unbound
  | task (k : Nat) (reg : Fin 16)
  | port (opr : Nat) (port : Nat)
  /-- Still bound, its task having exited (R221). -/
  | exited (company : Nat)
  | freed
  deriving DecidableEq, Repr

/-- Where a queue's primary storage lies (R143). -/
inductive QPlace where
  | unplaced
  | core (c : Coord)
  | ring (cl company lbank off : Nat)
  | bridge (cl company lbank off : Nat)
  deriving DecidableEq, Repr

/-- A queue (R138 to R164). -/
structure Queue where
  pnum : Nat
  launch : Nat
  qnum : Nat
  wide : Bool
  depth : Nat
  ext : Nat
  tagged : Bool
  bridged : Bool
  place : QPlace
  prod : QEnd
  cons : QEnd
  /-- Delivered entries, oldest first; the first `inRing` lie in the primary storage. -/
  entries : List Entry
  inRing : Nat
  transit : List Entry
  credits : Nat
  returning : Nat
  /-- The fault marker's latch: the fenced core, and how many entries precede the marker (R163). -/
  marker : Option (Coord × Nat)
  carrier : Carrier
  /-- The knowledge with which each entry that has not been taken was pushed, oldest first (R425). -/
  knows : List Carrier
  /-- Entries pushed and taken since the queue was made (R192, R351). -/
  pushed : Nat
  taken : Nat
  /-- The consumer end has been freed while the producer still pushes (R360). -/
  discards : Bool
  /-- The ring was copied to the green room (R164). -/
  reserve : Bool
  deriving DecidableEq, Repr

/-! ## Engines -/

/-- The runs of a copy: addresses and length of the first, their number in rows and planes, and the strides between them (R374, R375).
A plain copy has one run. -/
structure CopyShape where
  src : Nat
  dst : Nat
  len : Nat
  rows : Nat
  planes : Nat
  srcRow : Int
  srcPlane : Int
  dstRow : Int
  dstPlane : Int
  deriving DecidableEq, Repr

/-- What an engine operation does. -/
inductive OpBody where
  /-- CPY, CFILL (with a pattern) and CPYS (R374, R375). -/
  | copy (sspc dspc : Fin 4) (sna dna : Bool) (pattern : Option Word) (remote : BitVec 32) (shape : CopyShape)
  /-- A CPYS whose record is refused (R375). -/
  | badShape (va : Nat)
  /-- CPYQ: source, bytes, queue and tag (R373). -/
  | toQueue (sspc : Fin 4) (sna : Bool) (src len : Nat) (reg : Fin 16) (queue : Nat) (tag : Option (BitVec 24))
  /-- MSEND (R357). -/
  | message (spc : Fin 4) (sel : BitVec 32) (src len : Nat) (core : Coord) (tag : Fin 16) (pkg : Option (BitVec 12)) (doff : Nat)
  /-- FJOIN: operations and queue positions that must be complete first (R351). -/
  | join (ops : List Nat) (streams : List (Nat × Nat)) (mask : Word)
  | tldb (spc : Fin 4) (na : Bool) (base : Nat) (desc : Vec) (sel : BitVec 32)
  | tlda (spc : Fin 4) (na : Bool) (base : Nat) (desc : Vec) (sel : BitVec 32)
  | tldaq (reg : Fin 16) (queue : Nat) (desc : Vec)
  | tmma (word : Word)
  | tzero (word : Word)
  | tget (word : Word)
  | tstor (spc : Fin 4) (na : Bool) (base : Nat) (desc : Vec) (sel : BitVec 32)
  deriving DecidableEq, Repr

/-- How an operation ended (R341). -/
inductive OpResult where
  | resolved (value : BitVec 32)
  | faulted (code : FaultCode) (tval : Word)
  | cancelled
  deriving DecidableEq, Repr

/-- A cell that an operation updates when it resolves (R368). -/
structure CellExport where
  va : Nat
  scope : BitVec 32
  deriving DecidableEq, Repr

/-- An engine operation (R192, R340). -/
structure EngOp where
  core : Coord
  qsel : Nat
  id : BitVec 32
  key : Nat
  gtid : Word
  pnum : Nat
  cl : Nat
  company : Nat
  fmt : BitVec 7
  carried : Carried
  /-- Tag, count and mark with which its accesses record stamps (R204). -/
  cnt : Nat
  mark : Option (BarId × Nat)
  home : Coord
  body : OpBody
  done : Nat
  /-- Landings sent and not yet landed. -/
  flying : Nat
  /-- A landing was dropped (R256, R357). -/
  dropped : Bool
  /-- Another package refused a packet (R517). -/
  refused : Bool
  /-- Payloads that a TLDAQ has removed from its queue (R409). -/
  taken : List Vec
  result : Option OpResult
  exportTo : Option CellExport
  deriving DecidableEq, Repr

/-- What is under way between places, each landing by its own event. -/
inductive Packet where
  | event (core : Coord)
  | spawn (child : Ctx) (core : Coord)
  | start (core : Coord) (index : Nat) (know : Option Carried)
  | message (core : Coord) (tag : Fin 16) (company : Nat) (doff : Nat) (data : List Byte) (know : Carried) (op : Option Nat)
  | scratch (cl : Nat) (arrival : Arrival)
  /-- An exported update, with the leaf that it was sent under and whether it is held there under write-block (R101, R368). -/
  | cell (op : EngOp) (result : OpResult) (dest : CellExport) (leaf : Option Leaf) (held : Bool)
  deriving DecidableEq, Repr

/-! ## Operators (R418 to R438) -/

/-- Operator kinds (R418). -/
inductive OprKind where
  | seq | ref | put | dist | collect | fork | join | zip | reduce | filter | convert | bridge
  deriving DecidableEq, Repr

/-- STATE of an operator (R421). -/
inductive OprState where
  | stopped | running | stalled | faulted
  deriving DecidableEq, Repr

/-- A read outstanding at a REF, or a cue that waits its turn, in input order (R429). -/
structure RefSlot where
  va : Nat
  /-- ESIZE and NA when the index was taken (R377, R429). -/
  esize : Nat
  na : Bool
  entry : Entry
  know : Carrier
  done : Bool
  deriving DecidableEq, Repr

/-- A record DIST sends to its COLLECT (R435): data of one replica, or a cue of a set of replicas. -/
inductive ColRec where
  | data (tag : BitVec 24) (replica : Nat)
  | cue (tag : BitVec 24) (mask : BitVec 16) (kind : Fin 8)
  deriving DecidableEq, Repr

/-- A virtual operator. -/
structure Opr where
  pnum : Nat
  launch : Nat
  cl : Nat
  tile : Fin 4
  vslot : Fin 4
  fold : Fin 4
  kind : OprKind
  company : Nat
  /-- Stage that DIST feeds, or the owner's stage. -/
  stage : Nat
  state : OprState
  /-- A STOP waits for the item boundary. -/
  stopping : Bool
  /-- A START has still to retry the translation that stalled a REF (R423). -/
  retrying : Bool
  /-- Cycle of the last action, plus 1 (R424). -/
  actedAt : Nat
  pregs : Tbl Word
  items : Nat
  ostall : Nat
  istall : Nat
  code : Nat
  va : Nat
  ins : Tbl Nat
  outs : Tbl Nat
  /-- REDUCE, COLLECT: the knowledge of the entries that the next output is made of so far (R425). -/
  know : Carrier
  /-- SEQ: loop indices, entries still to push for the present item, and the end. -/
  idx : List Nat
  seqOut : List Entry
  seqDone : Bool
  /-- REF: slots in input order. PUT: values written so far; REDUCE: entries of the present group. -/
  slots : List RefSlot
  nth : Nat
  nfault : Nat
  /-- DIST. -/
  staging : Tbl (List (Entry × Carrier))
  live : BitVec 16
  tagNext : BitVec 24
  growFrames : Nat
  /-- Frame of the last decision on growth, plus 1 (R436). -/
  frameAt : Nat
  idleFrames : Tbl Nat
  steals : Nat
  grows : Nat
  shrinks : Nat
  refused : Nat
  /-- COLLECT: records not yet served, entries pushed for NEXT, replicas served for the present cue, and its payload. -/
  recs : List ColRec
  next : BitVec 24
  emitted : Nat
  served : BitVec 16
  cuePayload : Option Vec
  short : Nat
  stray : Nat
  dropc : Nat
  /-- JOIN: the input after the one chosen last. -/
  lastIn : Nat
  /-- REDUCE, CONVERT, FILTER. -/
  acc : Word
  amax : BitVec 32
  drops : Word
  /-- BRIDGE, receiving end: entries on the wire to it. -/
  wire : List (Entry × Carrier)
  /-- The operator with which the playbill pairs it. -/
  partner : Option Nat
  deriving DecidableEq, Repr

/-! ## Launches, partitions and host queues (R439 to R454) -/

/-- A stage of a launch as placed (R446, R448). -/
structure Stage where
  img : Nat
  entry : Nat
  tileCore : Bool
  minr : Nat
  maxr : Nat
  cl : Nat
  company : Nat
  nregs : Nat
  init : List Vec
  deriving DecidableEq, Repr

/-- The per-replica queues of one queue entry (R420): the stage and register of the replicas' end, and the queues by replica. -/
structure RepQueue where
  stage : Nat
  reg : Fin 16
  prod : Bool
  queues : List Nat
  deriving DecidableEq, Repr

/-- A launch that has started and not retired (R448 to R451). -/
structure Launch where
  pnum : Nat
  number : Nat
  vf : Nat
  qid : Nat
  cell : Nat
  utag : BitVec 32
  stages : List Stage
  companies : List (Nat × Nat)
  /-- The queue of each queue entry by its QNUM; of per-replica queues, replica 0's. -/
  queues : Tbl Nat
  reps : List RepQueue
  killCode : Option Nat
  /-- Its cell's CANCELLED write has been made, or is held (R452). -/
  cancelled : Bool
  /-- Its companies are being pre-empted, to be killed when all are suspended (R452, R454). -/
  dying : Bool
  /-- Its trap handler is the firmware's default (R457, R539). -/
  defHandler : Bool
  /-- Stage tasks that step 8 of R448 has still to start: stage, replica, core and slot (R464). -/
  todo : List (Nat × Nat × Coord × Nat)
  /-- Replay mode taken at the start: 0 off, 1 record, 2 replay; with it the placement digest, ORPB, and whether REPLAY let the logs lie anywhere (R502, R513).
  -/
  mode : Nat
  digest : Nat
  orpb : Word
  anywhere : Bool
  deriving DecidableEq, Repr

/-- A code image that the loader has placed (R297): its first unit and its entries. -/
structure Image where
  base : Nat
  nunits : Nat
  entries : List Nat
  /-- The bytes that stand from unit 0 on every core that holds the image: the trap handler and the image. -/
  code : List Byte
  deriving DecidableEq, Repr

/-- A disclosure policy in force (R507). -/
structure Policy where
  serial : Word
  cvis : Word
  tgran : Nat
  trlvl : Nat
  fdlvl : Nat
  agran : Nat
  lgrid : Nat
  replay : Nat
  ident : Bool
  expiry : Nat
  key : List Byte
  /-- Its expiry has passed, and the most restrictive policy has taken its place. -/
  past : Bool
  deriving DecidableEq, Repr

/-- The most restrictive policy (R510). -/
def Policy.strict : Policy :=
  { serial := 0, cvis := 0, tgran := 40, trlvl := 0, fdlvl := 0, agran := 63, lgrid := 0, replay := 0, ident := false, expiry := 0,
    key := [], past := false }

/-- A partition: the descriptor read at activation (R50 to R53), its registers, and what the observers keep for it. -/
structure Part where
  active : Bool
  desc : Nat
  root : Nat
  pitch : BitVec 192
  vfmask : BitVec 256
  regions : List Word
  himg : Nat
  hbint : BitVec 32
  /-- PCBASE, PCWIN, PCTHR, PCRING (R94). -/
  pc : List Word
  fring : Word
  /-- TOT0, TOT1, GRID0, GRID1, TRC0, TRC1, GRIVL, OBPT, ORPL, ORPB (R480). -/
  streams : List Word
  policy : Option Policy
  boundKey : Option (List Byte)
  nextLaunch : Nat
  /-- Cores that still hold the old breakpoint table after GO (R497). -/
  bpTodo : List Nat
  /-- Time of the last sweep written to each totals table, and grid frames being summed: start and length in ns (R485, R489). -/
  totLast : Tbl Nat
  gridAcc : Tbl (Nat × Nat)
  gridSeq : Tbl Nat
  /-- LGRID and TGRAN of the most restrictive policy that has governed each grid frame so far, where it changed (R511). -/
  gridCarry : Tbl (Nat × Nat)
  deriving DecidableEq, Repr

/-- A partition that was never activated. -/
def Part.reset : Part :=
  { active := false, desc := 0, root := 0, pitch := 0, vfmask := 0, regions := [], himg := 0, hbint := 0x3E8,
    pc := [0, 0, 0x100, 0], fring := 0, streams := [0, 0, 0, 0, 0, 0, 0, 0, 0, 0], policy := none, boundKey := none,
    nextLaunch := 1, bpTodo := [], totLast := [], gridAcc := [], gridSeq := [], gridCarry := [] }

/-- STATE of a software queue (R440). -/
inductive SwState where
  | idle
  /-- In a hardware queue slot since a cycle. -/
  | mapped (slot : Nat) (since : Nat)
  | waiting
  | down
  /-- Torn down, and EN has been found 0 since (R452). -/
  | disabled
  deriving DecidableEq, Repr

/-- What the command processor keeps of a software queue beside its descriptor (R440 to R442). -/
structure SwQueue where
  /-- Address of the descriptor, as the latest doorbell found it (R440). -/
  at_ : Nat
  state : SwState
  head : BitVec 32
  tail : BitVec 32
  deriving DecidableEq, Repr

/-- A virtual function (R439, R451). -/
structure Vf where
  qtbase : Word
  qtlen : Nat
  tdqid : Nat
  tdbusy : Bool
  tddone : Bool
  dberr : BitVec 32
  conflicts : Nat
  queues : Tbl SwQueue
  /-- Launches whose kill a teardown or a Function Level Reset waits for (R452). -/
  tdwait : List Nat
  /-- A Function Level Reset is in progress (R515). -/
  flr : Bool
  deriving DecidableEq, Repr

/-- A virtual function after reset. -/
def Vf.reset : Vf :=
  { qtbase := 0, qtlen := 0, tdqid := 0, tdbusy := false, tddone := false, dberr := 0, conflicts := 0, queues := [], tdwait := [], flr := false }

/-! ## The package -/

/-- A firmware image the security core holds (R521, R522). -/
structure FwImage where
  svn : BitVec 16
  entry : Nat
  digest : BitVec 512
  code : List Byte
  deriving DecidableEq, Repr

/-- The watchdog ladder (R524): cause, rung, the partition of a fence, and the cycle at which the rung was entered. -/
structure Ladder where
  fence : Bool
  rung : Nat
  since : Nat
  deriving DecidableEq, Repr

/-- Where the part stands between power-up and running firmware (R525). -/
inductive Boot where
  | off | running | stopped
  deriving DecidableEq, Repr

/-- Interrupts to the command processor and the host. -/
inductive Irq where
  | shootdown (cp : Nat) | teardown (vf : Nat) | wingsFull (cl company : Nat) | companyCreated (cl company : Nat)
  | watchdog | thermal | fence (core : Coord) (gtid : Word) | controlHalt (core : Coord) (code : Nat)
  deriving DecidableEq, Repr

/-- What the package has sent to the outside: peer packets and answers to peers (R517), the trace of management replies
(R528), and host AtomicOps are host-window writes and stand in memory. -/
inductive Sent where
  | message (pkg company : Nat) (core : Coord) (tag : Nat) (doff : Nat) (data : List Byte) (request : Nat)
  | write (pkg company : Nat) (sel : BitVec 32) (addr : Nat) (data : List Byte) (request : Nat)
  | atomic (pkg company : Nat) (sel : BitVec 32) (addr : Nat) (opc : BitVec 12) (size : Nat) (value expect : Word) (request : Nat)
  | answer (request : Nat) (refusal : Option PeerRefusal) (value : Word)
  /-- An SPDM report: the measurements, and what the device key makes of them (R528). -/
  | measurements (values : List (BitVec 512)) (signature : List Byte)
  /-- The answer to a PLDM type 2 request (R528). -/
  | pldm (answer : List Byte)
  deriving DecidableEq, Repr

/-- A packet of another package whose landings are not all over: its number there, what is left, and whether a piece was dropped. -/
structure PeerDue where
  request : Nat
  left : Nat
  dropped : Bool
  deriving DecidableEq, Repr

/-- What the command processor writes to a completion cell (R451, R452). -/
inductive CellOp where
  | fres (value : Nat)
  | ffail (code : Nat)
  | cancel
  deriving DecidableEq, Repr

/-- A write of the command processor to a cell whose page stands under write-block (R101, R452). -/
structure CellWrite where
  num : Nat
  vf : Nat
  pnum : Nat
  va : Nat
  op : CellOp
  /-- The leaf under which it is held, and whether a drop point has been reached since, so that it translates again. -/
  leaf : Leaf
  again : Bool
  deriving DecidableEq, Repr

/-- An AtomicOp of the host (R514). -/
inductive HostAtomic where
  | fetchAdd | swap | cas
  deriving DecidableEq, Repr

/-- What the command processor or the host does to the package from outside, beside the writes of device registers. -/
inductive Outside where
  /-- A read of a device register (R27, R514, R519). -/
  | readRegister (target : RegTarget)
  /-- An access of the command processor by physical address (R26 to R29). -/
  | readPhysical (pa size : Nat)
  | writePhysical (pa size : Nat) (value : Word)
  /-- An AtomicOp of the host on BAR 0 of a virtual function (R514). -/
  | hostAtomic (vf offset size : Nat) (op : HostAtomic) (value compare : Word)
  /-- A core of the command processor has gone on, by instructions of RV64GC, to a privilege mode and a PC: 0 user, 1 supervisor, 3
  machine (R519). -/
  | setMode (cp : Fin 4) (mode : Fin 4) (pc : Word)
  /-- A request for monitoring and control, PLDM type 2, at a management endpoint (R528). -/
  | pldmControl (request : List Byte)
  deriving DecidableEq, Repr

/-- What an access from outside got: a value, or the exception it raised there (R27, R519). -/
inductive Reply where
  | none
  | value (v : Word)
  | align
  | illegal
  deriving DecidableEq, Repr

/-- An entry of the agenda: what happens next, where the manual leaves the order open (log entry 2). -/
inductive Pick where
  /-- The slot of a context issues; `detour` sends its access to its home in flight. -/
  | issue (k : Nat) (detour : Bool)
  /-- An event. -/
  | event (i : Instr)
  /-- A slot fetches one word ahead (R268). -/
  | prefetch (k : Nat)
  /-- A home evicts a line (R68). -/
  | evictLine (line : Nat)
  /-- A translation cache, by its number, evicts an entry (R42). -/
  | evictTlb (cache index : Nat)
  /-- An access from outside. -/
  | outside (a : Outside)
  /-- Cycles pass. -/
  | advance (n : Nat)
  deriving DecidableEq, Repr

/-- The state of the package. -/
structure State where
  /-- Core cycles since reset; %time is this in ns (R9, R208). -/
  cycle : Nat
  ctxs : Tbl Ctx
  cores : Tbl Core
  clusters : Tbl Cluster
  mem : List Host.Cell
  /-- Bad words of local memory: address of each (R478). -/
  bad : List Nat
  lines : Tbl Line
  walks : Tbl Walk
  walkFaults : List WalkFault
  /-- Translation caches of operator tiles, by cluster * 4 + tile (R42). -/
  tileTlbs : Tbl (List TlbEntry)
  held : Tbl HeldStore
  reports : List PageReport
  sdregs : Tbl SdRegs
  shootdowns : Tbl Shootdown
  queues : Tbl Queue
  ops : Tbl EngOp
  pkts : Tbl Packet
  oprs : Tbl Opr
  launches : Tbl Launch
  images : Tbl Image
  parts : Tbl Part
  vfs : Tbl Vf
  hwslots : Tbl (Nat × Nat)
  lastServed : Nat
  /-- Quantum in µs (R442). -/
  quantum : Nat
  /-- Order in which software queues became waiting. -/
  waitingQs : List (Nat × Nat)
  /-- Reserved slots per frame of each queue number (R170). -/
  reserved : Tbl Nat
  /-- Machine custom registers of the command processor, by core * 4096 + number (R519). -/
  csrs : Tbl Word
  /-- Registers of class 0xD that no other field holds, by offset at socket 16. -/
  mmio : Tbl Word
  unclaimed : Nat
  discardedReports : Nat
  traceDrops : Tbl Nat
  /-- Event counters, totals and last sweep values, by unit * 256 + 16 * class + event (R482, R483). -/
  counts : Tbl (BitVec 32)
  /-- Cycle, plus 1, in which each event counter was incremented last (R482). -/
  countAt : Tbl Nat
  totals : Tbl Word
  swept : Tbl (BitVec 32)
  /-- How many intervals of 50 ms each die's sweeper has swept (R483). -/
  sweepAt : Tbl Nat
  /-- Replay: next record of each source, records written per die, sequence numbers of locations (R503, R505). -/
  replayPos : Tbl Nat
  replayWritten : Tbl Nat
  replaySeq : Tbl Nat
  boot : Boot
  running : FwImage
  understudy : Option FwImage
  fwStatus : BitVec 3
  fwDone : Bool
  fwBusy : Bool
  /-- The image that a LOAD has copied and verifies, and whether a SWITCH follows where it succeeds (R522, R528). -/
  fwLoading : Option (List Byte × Bool)
  restarting : Bool
  /-- The partition that rung 4 puts out of force and in force again, while its companies are being pre-empted (R524). -/
  cycling : Option Nat
  ladder : Option Ladder
  rung : BitVec 3
  ladderCause : Bool
  ladderPnum : BitVec 6
  wdLast : Nat
  pkg : BitVec 12
  wdT1 : BitVec 10
  fwAdr : Word
  flash : ConfigRecord
  recFloor : Nat
  svnFloor : Nat
  /-- Trusted clock: seconds at a cycle; none until a time record is accepted (R527). -/
  clock : Option (Nat × Nat)
  linkSteps : Tbl (Fin 4)
  linkCaps : BitVec 64
  /-- Ports in a retraining window, and the cycle of each port's and the package's last step (R172). -/
  retraining : List Nat
  lastStep : Tbl Nat
  irqs : List Irq
  outbox : List Sent
  peers : Tbl PeerDue
  /-- A launch being started holds the fetch unit (R523). -/
  heldDoorbells : List (Nat × Word)
  /-- Writes to completion cells that wait for write-block to end (R101, R452). -/
  cellWrites : List CellWrite
  /-- Privilege modes of the command-processor cores; 3, machine mode, where none is listed (R519); their PCs. -/
  cpModes : Tbl Nat
  cpPcs : Tbl Word
  /-- What the last access from outside got. -/
  reply : Reply
  /-- The model's own: executing context, contexts whose next access goes to its home in flight, agenda, next unused number. -/
  cur : Nat
  detours : List Nat
  agenda : List Pick
  fresh : Nat
  deriving DecidableEq, Repr

/-- The machine right after reset: nothing runs, every bank is CACHE, nothing is listed in memory, registers at the values their
rules give. Values that no rule gives are named in log entries 4 and 5. -/
def State.reset : State :=
  { cycle := 0, ctxs := [], cores := [], clusters := [], mem := [], bad := [], lines := [], walks := [], walkFaults := [],
    tileTlbs := [], held := [], reports := [],
    sdregs := [], shootdowns := [], queues := [], ops := [], pkts := [], oprs := [], launches := [], images := [], parts := [],
    vfs := [], hwslots := [], lastServed := 0, quantum := 1000, waitingQs := [], reserved := [], csrs := [], mmio := [],
    unclaimed := 0, discardedReports := 0, traceDrops := [], counts := [], countAt := [], totals := [], swept := [], sweepAt := [], replayPos := [],
    replayWritten := [], replaySeq := [], boot := .off, running := { svn := 0, entry := 0, digest := 0, code := [] }, understudy := none,
    fwStatus := 0, fwDone := false, fwBusy := false, fwLoading := none, restarting := false, cycling := none, ladder := none, rung := 0, ladderCause := false,
    ladderPnum := 0, wdLast := 0, pkg := 0xFFF, wdT1 := 100, fwAdr := 0,
    flash := { version := 0, minSvn := 0, keyHashes := [], body := [], signature := [] },
    recFloor := 0, svnFloor := 0, clock := none, linkSteps := [], linkCaps := 0xFFFFFFFFFFFFFFFF, retraining := [], lastStep := [],
    irqs := [], outbox := [], peers := [], heldDoorbells := [], cellWrites := [], cpModes := [], cpPcs := [], reply := .none, cur := 0, detours := [], agenda := [], fresh := 65536 }

end Sys2Proof.Machine
end

