-- ==== Sys2Proof/Machine/Table.lean ====
section
/-! DEFINITION. Finite tables with strictly rising keys, and the state's tables read with their reset values. -/

namespace Sys2Proof

/-- The value of a key, if it is listed. -/
def Tbl.look {α : Type} (t : Tbl α) (k : Nat) : Option α :=
  match t with
  | [] => none
  | (j, v) :: r => if j = k then some v else Tbl.look r k

/-- Lists a key with a value, in place of what it had. -/
def Tbl.put {α : Type} (t : Tbl α) (k : Nat) (v : α) : Tbl α :=
  match t with
  | [] => [(k, v)]
  | (j, w) :: r => if k < j then (k, v) :: (j, w) :: r else if k = j then (k, v) :: r else (j, w) :: Tbl.put r k v

/-- Removes a key. -/
def Tbl.del {α : Type} (t : Tbl α) (k : Nat) : Tbl α :=
  match t with
  | [] => []
  | (j, w) :: r => if j = k then r else (j, w) :: Tbl.del r k

/-- The value of a key, or a default. -/
def Tbl.getD {α : Type} (t : Tbl α) (k : Nat) (d : α) : α := (t.look k).getD d

/-- The keys strictly rise. -/
def Tbl.wf {α : Type} (t : Tbl α) : Bool :=
  match t with
  | [] => true
  | [_] => true
  | (j, _) :: (k, v) :: r => decide (j < k) && Tbl.wf ((k, v) :: r)

/-- Applies a function to a listed value. -/
def Tbl.upd {α : Type} (t : Tbl α) (k : Nat) (f : α → α) : Tbl α :=
  match t.look k with
  | none => t
  | some v => t.put k (f v)

/-- The keys. -/
def Tbl.keys {α : Type} (t : Tbl α) : List Nat := t.map Prod.fst

/-- The values. -/
def Tbl.vals {α : Type} (t : Tbl α) : List α := t.map Prod.snd

/-- The first pair that satisfies a test. -/
def Tbl.findKey {α : Type} (t : Tbl α) (f : Nat → α → Bool) : Option Nat :=
  (t.find? fun e => f e.1 e.2).map Prod.fst

namespace Machine

/-- The control context of a core before anything has run in it; its registers have no reset value in the manual and hold zero
(log entry 5). -/
def Ctx.control (core : Coord) : Ctx :=
  { task := false, g := Vector.replicate 16 0, ft := Vector.replicate 16 0, fut := [], p := Vector.replicate 7 0, pc := 0,
    fmt := 0, rcCount := 0, gtid := 0, home := 0, img := 0, company := 0, stage := false, core := core, slot := 0,
    pinned := true, streak := none, know := .empty, mark := none, qregs := Vector.replicate 16 QReg.unbound, status := .idle,
    suspended := false, saved := false, asyncs := [], word := 0, fetched := [], skipBp := false, yielded := false, readyAt := 0, hb := 0,
    leaves := [], streaked := 0, missed := [], xb := 0, lut := none, shape := none, since := none, arrived := false, landed := none, probed := none,
    arriving := false, pending := none }

/-- A context by key: keys below 65,536 are control contexts, by coordinate. -/
def State.ctx (s : State) (k : Nat) : Ctx := s.ctxs.getD k (Ctx.control (BitVec.ofNat 16 k))

/-- A core by coordinate. -/
def State.coreAt (s : State) (c : Coord) : Core := s.cores.getD c.toNat Core.reset

/-- A cluster by global index. -/
def State.clusterAt (s : State) (n : Nat) : Cluster := s.clusters.getD n Cluster.reset

/-- A bank of a cluster. -/
def Cluster.bankAt (c : Cluster) (b : Nat) : Bank := c.banks.getD b Bank.reset

/-- A partition by number. -/
def State.part (s : State) (p : Nat) : Part := s.parts.getD p Part.reset

/-- A virtual function by index. -/
def State.vf (s : State) (v : Nat) : Vf := s.vfs.getD v Vf.reset

/-- Replaces a context. -/
def State.setCtx (s : State) (k : Nat) (x : Ctx) : State := { s with ctxs := s.ctxs.put k x }

/-- Replaces a core. -/
def State.setCore (s : State) (c : Coord) (x : Core) : State := { s with cores := s.cores.put c.toNat x }

/-- Replaces a cluster. -/
def State.setCluster (s : State) (n : Nat) (x : Cluster) : State := { s with clusters := s.clusters.put n x }

/-- Replaces a partition. -/
def State.setPart (s : State) (p : Nat) (x : Part) : State := { s with parts := s.parts.put p x }

/-- Replaces a virtual function. -/
def State.setVf (s : State) (v : Nat) (x : Vf) : State := { s with vfs := s.vfs.put v x }

/-- Applies a function to a context. -/
def State.updCtx (s : State) (k : Nat) (f : Ctx → Ctx) : State := s.setCtx k (f (s.ctx k))

/-- Applies a function to a core. -/
def State.updCore (s : State) (c : Coord) (f : Core → Core) : State := s.setCore c (f (s.coreAt c))

/-- Applies a function to a cluster. -/
def State.updCluster (s : State) (n : Nat) (f : Cluster → Cluster) : State := s.setCluster n (f (s.clusterAt n))

/-- Applies a function to a partition. -/
def State.updPart (s : State) (p : Nat) (f : Part → Part) : State := s.setPart p (f (s.part p))

/-- Applies a function to a virtual function. -/
def State.updVf (s : State) (v : Nat) (f : Vf → Vf) : State := s.setVf v (f (s.vf v))

/-- Applies a function to a bank. -/
def Cluster.updBank (c : Cluster) (b : Nat) (f : Bank → Bank) : Cluster := { c with banks := c.banks.put b (f (c.bankAt b)) }

/-- Applies a function to a company that exists. -/
def State.updCompany (s : State) (cl n : Nat) (f : Company → Company) : State :=
  s.updCluster cl fun c => { c with companies := c.companies.upd n f }

/-- A company of a cluster. -/
def State.company? (s : State) (cl n : Nat) : Option Company := (s.clusterAt cl).companies.look n

/-- Package time in ns: a cycle is 10/27 ns (R9, R208). -/
def State.time (s : State) : Nat := s.cycle * 10 / 27

/-- Adds a packet under a fresh number. -/
def State.send (s : State) (p : Packet) : State := { s with pkts := s.pkts.put s.fresh p, fresh := s.fresh + 1 }

end Machine
end Sys2Proof
end

