-- ==== Sys2Proof/Machine/Memory.lean ====
section
/-! DEFINITION. Bytes at physical addresses (R26, R28), in one canonical form: addresses strictly rise, and no byte listed equals
what an unlisted address reads as. -/

namespace Sys2Proof.Machine

/-- What an address that nothing has written reads as (log entry 4). -/
def unwritten : Byte := 0

/-- Reads one byte. -/
def Mem.byte (m : List Host.Cell) (a : Nat) : Byte :=
  match m with
  | [] => unwritten
  | (b, v) :: r => if b = a then v else if a < b then unwritten else Mem.byte r a

/-- Writes one byte, keeping the canonical form. -/
def Mem.setByte (m : List Host.Cell) (a : Nat) (v : Byte) : List Host.Cell :=
  match m with
  | [] => if v = unwritten then [] else [(a, v)]
  | (b, w) :: r =>
    if a < b then (if v = unwritten then (b, w) :: r else (a, v) :: (b, w) :: r)
    else if a = b then (if v = unwritten then r else (a, v) :: r)
    else (b, w) :: Mem.setByte r a v

/-- The canonical form: addresses rise above the bound and no byte is the unwritten one. -/
def Mem.wfFrom (lo : Nat) (m : List Host.Cell) : Bool :=
  match m with
  | [] => true
  | (b, w) :: r => decide (lo ≤ b) && decide (w ≠ unwritten) && Mem.wfFrom (b + 1) r

/-- The canonical form. -/
def Memory.wf (m : List Host.Cell) : Bool := Mem.wfFrom 0 m

/-- Reads n bytes, lowest address first. -/
def Mem.bytes (m : List Host.Cell) (a : Nat) (n : Nat) : List Byte :=
  match n with
  | 0 => []
  | n + 1 => Mem.byte m a :: Mem.bytes m (a + 1) n

/-- Writes bytes, lowest address first. -/
def Mem.setBytes (m : List Host.Cell) (a : Nat) (d : List Byte) : List Host.Cell :=
  match d with
  | [] => m
  | v :: r => Mem.setBytes (Mem.setByte m a v) (a + 1) r

/-- The little-endian value of bytes (R7). -/
def leValue (d : List Byte) : Nat :=
  match d with
  | [] => 0
  | v :: r => v.toNat + 256 * leValue r

/-- The n little-endian bytes of a value (R7). -/
def leBytes (n v : Nat) : List Byte :=
  match n with
  | 0 => []
  | n + 1 => BitVec.ofNat 8 v :: leBytes n (v / 256)

/-- Removes the bytes of a range from the list and gives them (offsets from its start). -/
def Mem.cut (m : List Host.Cell) (a n : Nat) : List (Nat × Byte) × List Host.Cell :=
  ((m.filter fun e => a ≤ e.1 && e.1 < a + n).map fun e => (e.1 - a, e.2), m.filter fun e => !(a ≤ e.1 && e.1 < a + n))

end Sys2Proof.Machine
end

