-- ==== Sys2Proof/Machine/Places.lean ====
section
/-! DEFINITION. Coordinates, clusters, rectangles, physical addresses and homes (R13 to R28, R71, R72). -/

namespace Sys2Proof.Machine

/-- DIE of a coordinate (R15). -/
def cDie (c : Coord) : Nat := (c.extractLsb' 12 4).toNat
/-- ROW of a coordinate. -/
def cRow (c : Coord) : Nat := (c.extractLsb' 6 6).toNat
/-- COL of a coordinate. -/
def cCol (c : Coord) : Nat := (c.extractLsb' 0 6).toNat

/-- The coordinate of a die, row and column (R15). -/
def mkCoord (die row col : Nat) : Coord := BitVec.ofNat 4 die ++ BitVec.ofNat 6 row ++ BitVec.ofNat 6 col

/-- Every field lies within its range (R15). -/
def coordValid (c : Coord) : Bool := cDie c < 8 && cRow c < 12 && cCol c < 16

/-- Cluster index within the die (R16). -/
def dieCluster (c : Coord) : Nat := cRow c / 2 * 4 + cCol c / 4

/-- Global cluster index (R17). -/
def clusterOf (c : Coord) : Nat := cDie c * 24 + dieCluster c

/-- A tile core (R16). -/
def isTile (c : Coord) : Bool := cCol c % 4 == 1 || cCol c % 4 == 2

/-- Coordinate of a cluster, by global index (R17). -/
def clusterCoord (n : Nat) : Coord := mkCoord (n / 24) (n % 24 / 4 * 2) (n % 24 % 4 * 4)

/-- The eight cores of a cluster in local index order (R79). -/
def clusterCores (n : Nat) : List Coord :=
  (List.range 8).map fun j => mkCoord (n / 24) (n % 24 / 4 * 2 + j / 4) (n % 24 % 4 * 4 + j % 4)

/-- Local index of a core in its cluster: local row * 4 + local column (R79). -/
def localIndex (c : Coord) : Nat := cRow c % 2 * 4 + cCol c % 4

/-- Every core of the package. -/
def allCores : List Coord := (List.range 192).flatMap clusterCores

/-- Unit number of a core in observation streams (R484). -/
def coreUnit (c : Coord) : Nat := cDie c * 192 + cRow c * 16 + cCol c

/-- Absolute difference. -/
def absDiff (a b : Nat) : Nat := if a ≤ b then b - a else a - b

/-- Mesh hops between two cluster positions taken on one die (R18, R320). -/
def hops (a b : Coord) : Nat :=
  absDiff (dieCluster a / 4) (dieCluster b / 4) + absDiff (dieCluster a % 4) (dieCluster b % 4)

/-- The box of a rectangle register, its corners in either order (R21). -/
def rectBox (r : BitVec 32) : Box :=
  let a : Coord := r.extractLsb' 0 16
  let b : Coord := r.extractLsb' 16 16
  { dieLo := min (cDie a) (cDie b), dieHi := max (cDie a) (cDie b), rowLo := min (cRow a) (cRow b),
    rowHi := max (cRow a) (cRow b), colLo := min (cCol a) (cCol b), colHi := max (cCol a) (cCol b) }

/-- The box of the whole package, which 0xFFFF_FFFF denotes (R22). -/
def wholeBox : Box := { dieLo := 0, dieHi := 7, rowLo := 0, rowHi := 11, colLo := 0, colHi := 15 }

/-- The box a rectangle register denotes (R21, R22). -/
def scopeBox (r : BitVec 32) : Box := if r = 0xFFFFFFFF then wholeBox else rectBox r

/-- A coordinate lies in a box. -/
def Box.holds (b : Box) (c : Coord) : Bool :=
  b.dieLo ≤ cDie c && cDie c ≤ b.dieHi && b.rowLo ≤ cRow c && cRow c ≤ b.rowHi && b.colLo ≤ cCol c && cCol c ≤ b.colHi

/-- The box of one coordinate. -/
def pointBox (c : Coord) : Box :=
  { dieLo := cDie c, dieHi := cDie c, rowLo := cRow c, rowHi := cRow c, colLo := cCol c, colHi := cCol c }

/-- The box of no coordinate. -/
def Box.none : Box := { dieLo := 64, dieHi := 0, rowLo := 64, rowHi := 0, colLo := 64, colHi := 0 }

/-- The bounding box of two boxes (R203). -/
def Box.join (a b : Box) : Box :=
  { dieLo := min a.dieLo b.dieLo, dieHi := max a.dieHi b.dieHi, rowLo := min a.rowLo b.rowLo, rowHi := max a.rowHi b.rowHi,
    colLo := min a.colLo b.colLo, colHi := max a.colHi b.colHi }

/-- A box that a rectangle denotes holds no valid coordinate: it is the empty set (R22). -/
def Box.void (b : Box) : Bool := 7 < b.dieLo || 11 < b.rowLo || 15 < b.colLo

/-- Two boxes have a coordinate in common (R203). -/
def Box.meets (a b : Box) : Bool :=
  a.dieLo ≤ b.dieHi && b.dieLo ≤ a.dieHi && a.rowLo ≤ b.rowHi && b.rowLo ≤ a.rowHi && a.colLo ≤ b.colHi && b.colLo ≤ a.colHi

/-- A valid coordinate lies in a rectangle (R21, R22). -/
def inRect (r : BitVec 32) (c : Coord) : Bool := coordValid c && (scopeBox r).holds c

/-! ## Physical addresses -/

/-- Class of a physical address (R26). -/
def paClass (pa : Nat) : Nat := pa / 2 ^ 48 % 16

/-- A byte address is populated (R26, R28). -/
def paExists (pa : Nat) : Bool :=
  match paClass pa with
  | 0x0 => pa % 2 ^ 48 < 2 ^ 39
  | 0x1 => pa % 2 ^ 48 < 2 ^ 39
  | 0x8 => pa % 2 ^ 48 < 2 ^ 38
  | 0x9 => pa % 2 ^ 48 < 2 ^ 38
  | 0xA => pa % 2 ^ 48 < 2 ^ 38
  | 0xB => pa % 2 ^ 48 < 2 ^ 38
  | 0xC => true
  | 0xE =>
    let c : Coord := BitVec.ofNat 16 (pa / 2 ^ 28)
    if pa / 2 ^ 44 % 16 = 0 then coordValid c && pa % 2 ^ 28 < 0x18000
    else if pa / 2 ^ 44 % 16 = 1 then coordValid c && c == clusterCoord (clusterOf c) && pa % 2 ^ 28 < 0x200000
    else false
  | _ => false

/-- Every byte of a range is populated: a range that R31's sizes allow is populated when its ends are, within one window. -/
def paRangeExists (pa size : Nat) : Bool :=
  paExists pa && paExists (pa + size - 1) && (paClass pa != 0xE || pa / 2 ^ 28 == (pa + size - 1) / 2 ^ 28)

/-- The cell a byte address reaches: the striped view reaches the cells of the direct view (R26). -/
def cellAddr (pa : Nat) : Nat :=
  if paClass pa = 0x1 then pa / 2 ^ 12 % 8 * 2 ^ 36 + pa % 2 ^ 39 / 2 ^ 15 * 2 ^ 12 + pa % 2 ^ 12 else pa

/-- Physical address of an offset in a core's local memory (R28). -/
def localPa (c : Coord) (off : Nat) : Nat := 0xE * 2 ^ 48 + c.toNat * 2 ^ 28 + off

/-- Physical address of a byte of a cluster-store bank (R28). -/
def bankPa (cl bank off : Nat) : Nat := 0xE * 2 ^ 48 + 2 ^ 44 + (clusterCoord cl).toNat * 2 ^ 28 + bank * 2 ^ 16 + off

/-- Reads bytes of the tiers and windows. -/
def State.tierBytes (s : State) (pa n : Nat) : List Byte := (List.range n).map fun i => Mem.byte s.mem (cellAddr (pa + i))

/-- Writes bytes of the tiers and windows. -/
def State.setTier (s : State) (pa : Nat) (d : List Byte) : State :=
  { s with mem := (d.zipIdx).foldl (fun m e => Mem.setByte m (cellAddr (pa + e.2)) e.1) s.mem }

/-! ## Leaves and homes -/

/-- W of a leaf (R33). -/
def leafW (e : Word) : Bool := e.getLsbD 1
/-- WB of a leaf. -/
def leafWb (e : Word) : Bool := e.getLsbD 2
/-- CNT of a leaf. -/
def leafCnt (e : Word) : Bool := e.getLsbD 3
/-- TIER of an entry. -/
def leafTier (e : Word) : Nat := (e.extractLsb' 4 2).toNat
/-- POLICY of a leaf. -/
def leafPolicy (e : Word) : Nat := (e.extractLsb' 6 2).toNat
/-- PLACE of a leaf. -/
def leafPlace (e : Word) : Nat := (e.extractLsb' 8 4).toNat
/-- A of a leaf. -/
def leafA (e : Word) : Bool := e.getLsbD 12
/-- D of a leaf. -/
def leafD (e : Word) : Bool := e.getLsbD 13
/-- Physical address of a page or block. -/
def leafPa (e : Word) : Nat := (e.extractLsb' 16 36).toNat * 2 ^ 16

/-- Bits of the offset within a leaf of a level (R31, R34). -/
def levelBits (level : Nat) : Nat := 16 + 10 * level

/-- Physical address of an access under a leaf (R34). -/
def leafAddr (e : Word) (level va : Nat) : Nat := leafPa e / 2 ^ levelBits level * 2 ^ levelBits level + va % 2 ^ levelBits level

/-- Home die of a line under a leaf (R36). -/
def homeDie (e : Word) (pa va : Nat) : Nat :=
  if leafTier e = 0 then (if paClass pa = 0 then pa / 2 ^ 36 % 8 else pa / 2 ^ 12 % 8)
  else if leafPlace e = 8 then va / 2 ^ 12 % 8 else leafPlace e

/-- Home cluster of a line, by global index (R72). -/
def homeOf (e : Word) (pa va : Nat) : Nat :=
  let x := pa % 2 ^ 39
  homeDie e pa va * 24 + (x >>> 6 ^^^ x >>> 17 ^^^ x >>> 28) % 24

/-- An address of class 0xE under POLICY 3 has no home (R73). -/
def noHome (e : Word) : Bool := leafPa e / 2 ^ 48 == 0xE

/-- The leaf under which the package's own physical accesses reach an address: cached at home, the tier its class gives; lines of
the capacity and host tiers have no place of their own and take home die 0 (log entry 12). -/
def physLeaf (pa : Nat) : Word :=
  if paClass pa = 0 then BitVec.ofNat 64 (pa / 2 ^ 36 % 8 * 256 + 3)
  else if paClass pa = 1 then BitVec.ofNat 64 (8 * 256 + 3)
  else if paClass pa = 0xC then 0x23 else 0x13

/-- Home cluster of a physical access of the package. -/
def physHome (pa : Nat) : Nat := homeOf (physLeaf pa) pa 0

end Sys2Proof.Machine
end

