-- ==== Sys2Proof/Machine/Race.lean ====
section
/-! DEFINITION. The race detector: tags, knowledge, carriers, release records and stamps (R196 to R207). -/

namespace Sys2Proof.Machine

/-- Partition number of a GTID (R212). -/
def gtidPnum (g : Word) : Nat := (g.extractLsb' 58 6).toNat
/-- Launch number of a GTID. -/
def gtidLaunch (g : Word) : Nat := (g.extractLsb' 40 18).toNat
/-- Task index of a GTID. -/
def gtidIndex (g : Word) : BitVec 24 := g.extractLsb' 16 24

/-- The tag of a task (R198). -/
def gtidTag (g : Word) : Nat :=
  let p : BitVec 6 := g.extractLsb' 58 6
  let ph : BitVec 4 := p.extractLsb' 0 4 ^^^ (0#2 ++ p.extractLsb' 4 2)
  (ph ++ (g.extractLsb' 16 20 : BitVec 20)).toNat

/-- Launch key: partition and launch number in one number. -/
def launchKey (pnum number : Nat) : Nat := pnum * 2 ^ 18 + number

/-- A barrier's identity as one number, for the hash of R198. -/
def BarId.code (b : BarId) : Nat := (((b.cl * 16 + b.company) * 32 + b.lbank) * 65536 + b.off) * 256 + b.gen

/-- The hash of a barrier's identity, never 0 (R198, log entry 9). -/
def BarId.hash (b : BarId) : BitVec 8 := if Config.barrierHash b.code = 0 then 1 else Config.barrierHash b.code

/-- COUNT, or 0xFFFF if saturated (R200, R204). -/
def Ctx.cnt (c : Ctx) : Nat := if c.know.sat then 0xFFFF else c.rcCount.toNat

/-- What a release of the task carries: its token with COUNT + 1, and its knowledge (R201). -/
def Ctx.carried (c : Ctx) : Carried :=
  { tag := gtidTag c.gtid, launch := gtidLaunch c.gtid, cnt := if c.know.sat then 0xFFFF else min (c.rcCount.toNat + 1) 0xFFFF,
    know := c.know }

/-- A release increments COUNT of %rc (R199). -/
def Ctx.bump (c : Ctx) : Ctx :=
  if 0xFFFE ≤ c.rcCount.toNat then { c with rcCount := 0xFFFF, know := { c.know with sat := true } }
  else { c with rcCount := c.rcCount + 1 }

/-- Merges one frontier entry into a task with a tag, or a carrier without one (R202). -/
def mergeFront (self : Option Nat) (same : Bool) (t : Knowledge) (e : Nat × Nat) : Knowledge :=
  if e.2 = 0xFFFF then { t with sat := true }
  else if !same || self == some e.1 then t
  else if t.front.any (fun f => f.1 == e.1) then
    { t with front := t.front.map fun f => if f.1 = e.1 then (f.1, max f.2 e.2) else f }
  else if t.front.length < 8 then { t with front := t.front ++ [e] }
  else { t with sat := true }

/-- Merges one barrier entry (R202). -/
def mergeBar (t : Knowledge) (b : BarId × Nat) : Knowledge :=
  if t.brec.any (fun c => c.1 == b.1) then
    { t with brec := t.brec.map fun c => if c.1 = b.1 then (c.1, max c.2 b.2) else c }
  else if t.brec.length < 4 then { t with brec := t.brec ++ [b] }
  else { t with sat := true }

/-- Merge (R202), the arriving entries being of the acquirer's launch or not. -/
def mergeKnow (self : Option Nat) (same : Bool) (t : Knowledge) (front : List (Nat × Nat)) (k : Knowledge) : Knowledge :=
  let t := if k.sat then { t with sat := true } else t
  let t := front.foldl (mergeFront self same) t
  k.brec.foldl mergeBar t

/-- A task merges what an edge carries (R202). -/
def Ctx.merge (c : Ctx) (k : Carried) : Ctx :=
  { c with know := mergeKnow (some (gtidTag c.gtid)) (k.launch == gtidLaunch c.gtid) c.know ((k.tag, k.cnt) :: k.know.front) k.know }

/-- A task merges what a carrier has merged (R201, R202). -/
def Ctx.mergeCarrier (c : Ctx) (k : Carrier) : Ctx :=
  match k.launch with
  | none => c
  | some l => { c with know := mergeKnow (some (gtidTag c.gtid)) (l == gtidLaunch c.gtid) c.know k.know.front k.know }

/-- Launch(t) of a carrier becomes a given launch: what it held for another is dropped (R202). -/
def Carrier.ofLaunch (c : Carrier) (l : Nat) : Carrier :=
  if c.launch = some l then c else { launch := some l, know := { Knowledge.empty with sat := c.know.sat } }

/-- A carrier merges what an edge carries; an empty carrier takes the launch of the first (R201, R202). -/
def Carrier.merge (c : Carrier) (k : Carried) : Carrier :=
  let l := c.launch.getD k.launch
  { launch := some l, know := mergeKnow none (k.launch == l) c.know ((k.tag, k.cnt) :: k.know.front) k.know }

/-- A carrier merges another (R425). -/
def Carrier.join (c k : Carrier) : Carrier :=
  match k.launch with
  | none => c
  | some m => { launch := some (c.launch.getD m), know := mergeKnow none (m == c.launch.getD m) c.know k.know.front k.know }

/-! ## Release records (R203) -/

/-- A record takes a release; one over the empty set synchronises with no task, but for what a cell operation gives its cell (R22, R187). -/
def RelRecord.take (r : RelRecord) (k : Carried) (scope : BitVec 32) (home : Coord) (cell : Option Nat) : RelRecord :=
  let r := if (Machine.scopeBox scope).void then r
    else { r with carrier := r.carrier.merge k, scopeBox := r.scopeBox.join (Machine.scopeBox scope), homeBox := r.homeBox.join (Machine.pointBox home) }
  match cell with
  | none => r
  | some i => { r with cells := r.cells.put i ((r.cells.getD i .empty).merge k) }

/-- A release merges into the line's record of its launch, or makes one, the oldest leaving a full table. `cell` names the future cell of
the line on which it resolves or counts (R366). -/
def Cluster.release (c : Cluster) (key : RelKey) (pnum : Nat) (k : Carried) (scope : BitVec 32) (home : Coord) (cell : Option Nat) : Cluster :=
  let mine (r : RelRecord) : Bool := r.key == key && r.pnum == pnum && r.carrier.launch == some k.launch
  if (scopeBox scope).void && cell.isNone then c
  else if c.records.any mine then
    { c with records := c.records.map fun r => if mine r then r.take k scope home cell else r }
  else
    let new : RelRecord :=
      { key, pnum, carrier := { launch := some k.launch, know := .empty }, cells := [], scopeBox := .none, homeBox := .none }
    if c.records.length < Config.releaseRecords then { c with records := c.records ++ [new.take k scope home cell] }
    else { c with records := c.records.tail ++ [new.take k scope home cell], recDropped := true }

/-- The release record of a line for a task. -/
def Cluster.recordFor (c : Cluster) (key : RelKey) (t : Ctx) : Option RelRecord :=
  c.records.find? fun r => r.key == key && r.pnum == gtidPnum t.gtid && r.carrier.launch == some (gtidLaunch t.gtid)

/-- The cells of a line whose state words n bytes from an offset in it reach (R365). -/
def stateWords (off n : Nat) : List Nat := (List.range 4).filter fun i => off < 16 * i + 8 && 16 * i < off + n

/-- A task merges what a record holds of cells, whatever its boxes (R186, R187). -/
def Ctx.acquireCells (t : Ctx) (r : RelRecord) (cells : List Nat) : Ctx :=
  cells.foldl (fun (t : Ctx) i => t.mergeCarrier (r.cells.getD i .empty)) t

/-- An acquire merges the line's record if the boxes match, and saturates where a record of its line may have been dropped; of the cells
whose state words it reads it merges what was released on them whatever the boxes (R186, R187, R203). -/
def Ctx.acquire (t : Ctx) (c : Cluster) (key : RelKey) (scope : BitVec 32) (cells : List Nat) : Ctx :=
  match c.recordFor key t with
  | some r =>
    let t := t.acquireCells r cells
    if r.scopeBox.holds t.home && r.homeBox.meets (scopeBox scope) then t.mergeCarrier r.carrier else t
  | none => if c.recDropped then { t with know := { t.know with sat := true } } else t

/-- Knowledge with what a release record of a cell's line holds added to it, for a continuation's start; saturated where the record may have
been dropped (R201, R203). -/
def Cluster.withRecord (c : Cluster) (key : RelKey) (pnum : Nat) (k : Carried) : Carried :=
  match c.records.find? fun r => r.key == key && r.pnum == pnum && r.carrier.launch == some k.launch with
  | none => if c.recDropped then { k with know := { k.know with sat := true } } else k
  | some r =>
    let add (n : Knowledge) (e : Carrier) : Knowledge := mergeKnow none true n e.know.front e.know
    { k with know := (r.carrier :: r.cells.vals).foldl add k.know }

/-! ## Stamps (R204) -/

/-- The mark as stamp fields (R200). -/
def markFields (m : Option (BarId × Nat)) : BitVec 8 × BitVec 8 :=
  match m with
  | none => (0, 0)
  | some (b, e) => (b.hash, BitVec.ofNat 8 e)

/-- A task as it records. -/
def Ctx.stamper (c : Ctx) : Stamper :=
  let m := markFields c.mark
  { lnch := gtidLaunch c.gtid, tag := gtidTag c.gtid, cnt := c.cnt, bh := m.1, be := m.2 }

/-- Covered of R204. -/
def covered (k : Knowledge) (self tag cnt : Nat) (bh be : BitVec 8) : Bool :=
  if cnt = 0xFFFF ∨ tag = self then true
  else if k.front.any (fun f => f.1 == tag && cnt < f.2) then true
  else if bh = 0 then false
  else match k.brec.filter fun b => b.1.hash == bh with
    | [] => false
    | [m] =>
      let d := (m.2 + 256 - be.toNat) % 256
      (1 ≤ d && d ≤ 254) || 255 ≤ m.2
    | _ => true

/-- One access as the detector sees it (R204). -/
structure StampAccess where
  mask : BitVec 64
  write : Bool
  sync : Bool
  deriving DecidableEq, Repr

/-- The other party of a race: whether it was the recorded writer, its launch and tag (R206). -/
structure RaceParty where
  writer : Bool
  lnch : Nat
  tag : Nat
  deriving DecidableEq, Repr

/-- The check of R204: the race it finds, if any. -/
def raceCheck (st : Option Stamp) (lnch self : Nat) (k : Knowledge) (a : StampAccess) : Option RaceParty :=
  match st with
  | none => none
  | some s =>
    if s.lnch ≠ lnch || k.sat then none
    else if a.mask &&& s.wmask ≠ 0 && !(a.sync && s.wsync) && !covered k self s.wtag s.wcnt s.wbh s.wbe then
      some { writer := true, lnch := s.lnch, tag := s.wtag }
    else if a.write && !s.rmany && a.mask &&& s.rmask ≠ 0 && !covered k self s.rtag s.rcnt s.rbh s.rbe then
      some { writer := false, lnch := s.lnch, tag := s.rtag }
    else none

/-- An empty stamp of a launch (R204). -/
def Stamp.fresh (lnch : Nat) : Stamp :=
  { lnch, wtag := 0, wcnt := 0, wbh := 0, wbe := 0, wsync := false, wmask := 0, rtag := 0, rcnt := 0, rbh := 0, rbe := 0,
    rmany := false, rmask := 0 }

/-- Recording of an access (R204). -/
def raceRecord (st : Option Stamp) (t : Stamper) (a : StampAccess) : Stamp :=
  let s := match st with
    | some s => if s.lnch = t.lnch then s else Stamp.fresh t.lnch
    | none => Stamp.fresh t.lnch
  if a.write then
    let s := if s.wmask ≠ 0 && s.wtag == t.tag && s.wcnt == t.cnt && s.wsync == a.sync then { s with wmask := s.wmask ||| a.mask }
      else { s with wtag := t.tag, wcnt := t.cnt, wbh := t.bh, wbe := t.be, wmask := a.mask, wsync := a.sync }
    let s := { s with rmask := s.rmask &&& ~~~a.mask }
    if s.rmask = 0 then { s with rmany := false } else s
  else if !a.sync then
    if s.rmask = 0 || (!s.rmany && s.rtag == t.tag && s.rcnt != t.cnt) then
      { s with rtag := t.tag, rcnt := t.cnt, rbh := t.bh, rbe := t.be, rmask := a.mask }
    else if !s.rmany && s.rtag == t.tag then { s with rmask := s.rmask ||| a.mask }
    else { s with rmany := true, rmask := s.rmask ||| a.mask }
  else s

end Sys2Proof.Machine
end

