-- ==== Sys2Proof/Machine/Homes.lean ====
section
/-! DEFINITION. Event counters, CACHE lines at their homes, the tiers behind them, and the package's own physical accesses
(R65 to R73, R81 to R87, R93, R482, R541). -/

namespace Sys2Proof.Machine

/-- An event counter adds n, modulo 2^32, at most once in a cycle (R482). -/
def State.count (s : State) (unit cls ev : Nat) (n : Nat := 1) : State :=
  let k := unit * 256 + cls * 16 + ev
  if s.countAt.getD k 0 = s.cycle + 1 ∨ n = 0 then s
  else { s with counts := s.counts.put k (s.counts.getD k 0 + BitVec.ofNat 32 n), countAt := s.countAt.put k (s.cycle + 1) }

/-- A core's event. -/
def State.countCore (s : State) (c : Coord) (cls ev : Nat) (n : Nat := 1) : State := s.count (coreUnit c) cls ev n

/-- A cluster's event (R484). -/
def State.countCluster (s : State) (cl : Nat) (cls ev : Nat) (n : Nat := 1) : State := s.count (1536 + cl) cls ev n

/-! ## Lines -/

/-- Byte i of a line. -/
def lineByte (d : BitVec 512) (i : Nat) : Byte := d.extractLsb' (8 * i) 8

/-- The bits of a line that bytes off to off + n - 1 hold. -/
def lineBits (off n : Nat) : BitVec 512 := BitVec.ofNat 512 ((2 ^ (8 * n) - 1) * 2 ^ (8 * off))

/-- A line with bytes written at an offset. -/
def lineWrite (d : BitVec 512) (off : Nat) (b : List Byte) : BitVec 512 :=
  (d &&& ~~~(lineBits off b.length)) ||| BitVec.ofNat 512 (leValue b * 2 ^ (8 * off))

/-- The mask of bytes off to off + n - 1 of a line (R197). -/
def byteMask (off n : Nat) : BitVec 64 := BitVec.ofNat 64 ((2 ^ n - 1) * 2 ^ off)

/-- The line that holds an address, if it is present at its home. -/
def State.lineAt (s : State) (pa : Nat) : Option Line := s.lines.look (pa / 64)

/-- Takes a line out of the write-back buffer of a cluster into its tier, if it waits there (R83). -/
def State.acceptWriteback (s : State) (cl line : Nat) : State :=
  match (s.clusterAt cl).writebacks.find? fun e => e.1 == line with
  | none => s
  | some (_, d) =>
    (s.setTier (line * 64) ((List.range 64).map (lineByte d))).updCluster cl fun c =>
      { c with writebacks := c.writebacks.filter fun e => e.1 != line }

/-- Bytes of a tier as its home sees them, a line that waits in the write-back buffer included. -/
def State.behind (s : State) (home pa n : Nat) : List Byte :=
  match (s.clusterAt home).writebacks.find? fun e => e.1 == pa / 64 with
  | none => s.tierBytes pa n
  | some (_, d) => (List.range n).map fun i => lineByte d (pa % 64 + i)

/-- Bytes of one line's worth of memory as its home serves them: from the line if present, else from the tier (R85). -/
def State.homeBytes (s : State) (home pa n : Nat) : List Byte :=
  match s.lineAt pa with
  | some l => (List.range n).map fun i => lineByte l.data (pa % 64 + i)
  | none => s.behind home pa n

/-- A bank into which the home may allocate (R65, R68). -/
def Cluster.allocatable (c : Cluster) (b : Nat) : Bool :=
  b < Config.banksPerCluster && (c.bankAt b).mode == .cache && (c.bankAt b).next == none

/-- A write within one line performed at its home: to the line if present, which it leaves dirty, else to the tier (R85). One of a
whole line clears the mark of a poisoned line (R478). -/
def State.homeWrite (s : State) (home pa : Nat) (d : List Byte) : State :=
  match s.lineAt pa with
  | some l =>
    let l' := { l with data := lineWrite l.data (pa % 64) d, dirty := true, poison := l.poison && d.length != 64 }
    if l.poison && !l'.poison && !(s.clusterAt l.home).allocatable l.bank then { s with lines := s.lines.del (pa / 64) }.setTier pa d
    else { s with lines := s.lines.put (pa / 64) l' }
  | none => (s.acceptWriteback home (pa / 64)).setTier pa d

/-- The cluster has a bank in CACHE mode (R67). -/
def Cluster.caches (c : Cluster) : Bool := (List.range Config.banksPerCluster).any c.allocatable

/-- Lines that a bank holds; the mark of a poisoned line stands at the home, and takes no room (R478). -/
def State.linesIn (s : State) (cl bank : Nat) : List Nat :=
  Tbl.keys (s.lines.filter fun e => e.2.home == cl && e.2.bank == bank && !e.2.poison)

/-- A line joins the write-back buffer of its home, from which the oldest leaves for its tier where it is full (R83). -/
def State.bufferLine (s : State) (home line : Nat) (d : BitVec 512) : State :=
  let b := (s.clusterAt home).writebacks
  let s := if b.length < Config.writebackLines then s
    else match b.head? with
      | none => s
      | some e => s.acceptWriteback home e.1
  s.updCluster home fun c => { c with writebacks := c.writebacks ++ [(line, d)] }

/-- The home drops a line, a dirty one into the write-back buffer (R68, R83); the mark of a poisoned line stays (R478). -/
def State.evict (s : State) (line : Nat) : State :=
  match s.lines.look line with
  | none => s
  | some l =>
    if l.poison then s
    else
      let s := { s with lines := s.lines.del line }
      if l.dirty then (s.countCluster l.home 3 3).bufferLine l.home line l.data else s

/-- The first bank with room for a line, or the first that can allocate together with a victim (R68). -/
def State.pickBank (s : State) (home : Nat) : Option (Nat × Option Nat) :=
  let c := s.clusterAt home
  let bs := (List.range Config.banksPerCluster).filter c.allocatable
  match bs.find? fun b => (s.linesIn home b).length < Config.linesPerBank with
  | some b => some (b, none)
  | none => bs.head?.map fun b => (b, (s.linesIn home b).head?)

/-- Allocates a line at its home with an empty stamp, a counted fill reporting its page (R85, R93, R196). -/
def State.fillLine (s : State) (home pa bank : Nat) (entry : Word) (pnum va : Nat) : State :=
  let d := BitVec.ofNat 512 (leValue (s.behind home (pa / 64 * 64) 64))
  let s := s.updCluster home fun c => { c with writebacks := c.writebacks.filter fun e => e.1 != pa / 64 }
  let l : Line := { home, bank, data := d, dirty := false, poison := false, stamp := none }
  let s := { s with lines := s.lines.put (pa / 64) l }
  if leafCnt entry && (leafTier entry == 1 || leafTier entry == 2) then
    let r : PageReport := { pnum, vpn := va / 2 ^ 16, tier := leafTier entry }
    ({ s with reports := s.reports ++ [r] }).countCluster home 3 2
  else s

/-- How a home treats an access to a line it does not hold (R67, R85, R86). -/
def State.allocates (s : State) (entry : Word) (home : Nat) (na : Bool) : Bool :=
  (leafPolicy entry == 0 || leafPolicy entry == 2) && !na && (s.clusterAt home).caches

/-- Makes a line present for an engine's access where its policy allocates; a task's fill is an event of its own. -/
def State.ensureLine (s : State) (entry : Word) (home pa : Nat) (na : Bool) (pnum va : Nat) : State :=
  match s.lineAt pa with
  | some _ => s.countCluster home 3 0
  | none =>
    let s := s.countCluster home 3 1
    if s.allocates entry home na then
      match s.pickBank home with
      | none => s
      | some (b, victim) =>
        let s := match victim with
          | none => s
          | some v => s.evict v
        s.fillLine home pa b entry pnum va
    else s

/-- Records an access in the stamp of a line that is present (R196, R204). -/
def State.stamp (s : State) (pa : Nat) (t : Stamper) (a : StampAccess) : State :=
  match s.lineAt pa with
  | none => s
  | some l =>
    let l' := { l with stamp := some (raceRecord l.stamp t a) }
    { s with lines := s.lines.put (pa / 64) l' }

/-- The line is marked poisoned at its home (R478). -/
def State.poisoned (s : State) (pa : Nat) : Bool :=
  match s.lineAt pa with
  | none => false
  | some l => l.poison

/-! ## Regions and the package's own structures (R51, R52, R541) -/

/-- One region entry grants a range (R51, R52). -/
def regionHolds (p : Part) (r : Word) (pa size : Nat) : Bool :=
  let cls := (r.extractLsb' 4 4).toNat
  let base := (r.extractLsb' 8 22).toNat
  let limit := (r.extractLsb' 32 22).toNat
  r.getLsbD 0 && [0x0, 0x1, 0x8, 0x9, 0xA, 0xB, 0xC, 0xE].contains cls && base ≤ limit &&
    cls == paClass pa && cls == paClass (pa + size - 1) &&
    base ≤ pa % 2 ^ 48 / 2 ^ 26 && (pa + size - 1) % 2 ^ 48 / 2 ^ 26 ≤ limit &&
    (cls != 0xC || p.vfmask.getLsbD (r.extractLsb' 54 8).toNat) &&
    (cls != 0xE || p.pitch.getLsbD (clusterOf (BitVec.ofNat 16 (pa / 2 ^ 28))))

/-- Region of R38: one valid region of the partition holds the range. -/
def Part.region (p : Part) (pa size : Nat) : Bool := p.regions.any fun r => regionHolds p r pa size

/-- An access of the package to a structure of its own is performed (R541). -/
def physOk (pa n : Nat) : Bool := (paClass pa == 0 || paClass pa == 1) && paRangeExists pa n

/-- Bytes that the package reads for itself at a physical address, piece by piece at the homes of their lines. -/
def State.physBytes (s : State) (pa n : Nat) : List Byte :=
  (List.range n).map fun i => ((s.homeBytes (physHome (pa + i)) (pa + i) 1)).headD 0xFF

/-- A read by the package of a structure of its own: all ones, and counted, where it is not performed (R541). -/
def State.ownRead (s : State) (ok : Bool) (pa n : Nat) : Nat × State :=
  if ok then (leValue (s.physBytes pa n), s) else (2 ^ (8 * n) - 1, { s with unclaimed := s.unclaimed + 1 })

/-- A read of a structure that lies in HBM. -/
def State.physRead (s : State) (ok : Bool) (pa n : Nat) : Nat × State := s.ownRead (ok && physOk pa n) pa n

/-- Bytes at an address, cut at line boundaries. -/
def lineChunks (fuel pa : Nat) (d : List Byte) : List (Nat × List Byte) :=
  match fuel with
  | 0 => []
  | n + 1 => if d.isEmpty then [] else
    let k := 64 - pa % 64
    (pa, d.take k) :: lineChunks n (pa + k) (d.drop k)

/-- Writes bytes at a physical address, a line's worth at a time at the home of the line: a whole line clears its mark (R478). -/
def State.physBytesWrite (s : State) (pa : Nat) (d : List Byte) : State :=
  (lineChunks (d.length / 64 + 2) pa d).foldl (fun (s : State) e => s.homeWrite (physHome e.1) e.1 e.2) s

/-- A write by the package of a structure of its own, or its count where it is not performed (R541). -/
def State.ownWrite (s : State) (ok : Bool) (pa n v : Nat) : State :=
  if ok then s.physBytesWrite pa (leBytes n v) else { s with unclaimed := s.unclaimed + 1 }

/-- A write of a structure that lies in HBM. -/
def State.physWrite (s : State) (ok : Bool) (pa n v : Nat) : State := s.ownWrite (ok && physOk pa n) pa n v

/-! ## Rings (R97, R98) -/

/-- The append rule of R98 on a ring of 2^logsz entries: gives false where the ring was full and the drop was counted. The reserved half
of a header word that is written is written as zero (R8). -/
def State.ringAppend (s : State) (ok : Bool) (base logsz entry : Nat) (words : Nat → List Nat) : Bool × State :=
  let (head, s) := s.physRead ok base 4
  let (tail, s) := s.physRead ok (base + 8) 4
  if 2 ^ logsz ≤ (tail + 2 ^ 32 - head) % 2 ^ 32 then
    let (d, s) := s.physRead ok (base + 0x10) 4
    (false, s.physWrite ok (base + 0x10) 8 (min (d + 1) 0xFFFFFFFF))
  else
    let at_ := base + 0x40 + tail % 2 ^ logsz * entry
    let s := (words tail).zipIdx.foldl (fun s w => s.physWrite ok (at_ + 8 * w.2) 8 w.1) s
    (true, s.physWrite ok (base + 8) 8 ((tail + 1) % 2 ^ 32))

end Sys2Proof.Machine
end

