-- ==== Sys2Proof/Machine/Queues.lean ====
section
/-! DEFINITION. Queues: credits, acceptance, delivery, the consumer's view, ends and storage (R138 to R164, R359, R360). -/

namespace Sys2Proof.Machine

/-- Size of a slot image (R147). -/
def Queue.imageSize (q : Queue) : Nat := (if q.wide then 32 else 8) + 16

/-- Credits of an empty queue; one placed on a core has no extension (R146, R149). -/
def Queue.capacity (q : Queue) : Nat :=
  match q.place with
  | .core _ => q.depth
  | _ => q.depth + q.ext * 65536 / q.imageSize

/-- The fault marker as an entry (R163). -/
def markerEntry (c : Coord) : Entry := { payload := c.setWidth 256, kind := 7, fmark := true, tag := 0 }

/-- Where the marker stands among the delivered entries, once every entry before it has been delivered. -/
def Queue.markerAt (q : Queue) : Option (Nat × Coord) :=
  match q.marker with
  | none => none
  | some (c, n) => if n - q.taken ≤ q.entries.length then some (n - q.taken, c) else none

/-- The sequence the consumer sees: the delivered entries, and a latched marker at its place (R150, R163). -/
def Queue.view (q : Queue) : List Entry :=
  match q.markerAt with
  | none => q.entries
  | some (k, c) => q.entries.take k ++ markerEntry c :: q.entries.drop k

/-- The head entry, unless it is still moving from the extension (R150). -/
def Queue.head (q : Queue) : Option Entry :=
  match q.markerAt with
  | some (0, c) => some (markerEntry c)
  | _ => if q.inRing = 0 then none else q.entries.head?

/-- The payload as the queue's width moves it (R151). -/
def Queue.fit (q : Queue) (v : Vec) : Vec := if q.wide then v else (v.setWidth 64).setWidth 256

/-- What an edge carries, as a carrier. -/
def Carrier.ofCarried (k : Option Carried) : Carrier :=
  match k with
  | none => .empty
  | some k => Carrier.empty.merge k

/-- An accepted push: spends a credit, and the entry is under way; a queue whose consumer end is freed discards it and its credit
limits nothing (R149, R360). -/
def Queue.push (q : Queue) (e : Entry) (k : Option Carried) : Queue :=
  if q.discards then q
  else
    { q with transit := q.transit ++ [{ e with payload := q.fit e.payload, tag := if q.tagged then e.tag else 0 }],
             credits := q.credits - 1, pushed := q.pushed + 1, knows := q.knows ++ [.ofCarried k],
             carrier := match k with | none => q.carrier | some k => q.carrier.merge k }

/-- A push of an operator, whose entry carries the knowledge of those it was made from (R425). -/
def Queue.pushMerged (q : Queue) (e : Entry) (c : Carrier) : Queue :=
  if q.discards then q else { q.push e none with knows := q.knows ++ [c], carrier := q.carrier.join c }

/-- The knowledge with which the head was pushed; a fault marker has none. -/
def Queue.headKnow (q : Queue) : Carrier :=
  match q.markerAt with
  | some (0, _) => .empty
  | _ => q.knows.headD .empty

/-- A push needs a credit, except where the consumer end is freed (R149, R360). -/
def Queue.canPush (q : Queue) (n : Nat) : Bool := q.discards || n ≤ q.credits

/-- Delivery of the oldest entry under way: into the ring if the extension is empty and the ring has room (R148, R150). -/
def Queue.deliver (q : Queue) : Queue :=
  match q.transit with
  | [] => q
  | e :: r =>
    { q with transit := r, entries := q.entries ++ [e],
             inRing := if q.inRing = q.entries.length ∧ q.inRing < q.depth then q.inRing + 1 else q.inRing }

/-- The oldest entry of the extension moves into the ring (R148). -/
def Queue.refill (q : Queue) : Queue :=
  if q.inRing < q.entries.length ∧ q.inRing < q.depth then { q with inRing := q.inRing + 1 } else q

/-- Removes the head of the consumer's view: a marker empties its latch, an entry returns one credit (R149, R163). -/
def Queue.drop1 (q : Queue) : Queue :=
  match q.markerAt with
  | some (0, _) => { q with marker := none }
  | _ =>
    match q.entries with
    | [] => q
    | _ :: r => { q with entries := r, inRing := q.inRing - 1, returning := q.returning + 1, taken := q.taken + 1, knows := q.knows.drop 1 }

/-- Removes n entries from the head. -/
def Queue.dropN (q : Queue) (n : Nat) : Queue :=
  match n with
  | 0 => q
  | n + 1 => q.drop1.dropN n

/-- Returned credits reach the producer (R149). -/
def Queue.creditBack (q : Queue) : Queue := { q with credits := q.credits + q.returning, returning := 0 }

/-- A bound end. -/
def QEnd.isBound : QEnd → Bool
  | .task .. => true
  | .port .. => true
  | .exited _ => true
  | .unbound => false
  | .freed => false

/-- The queue with a number. -/
def State.queue? (s : State) (n : Nat) : Option Queue := s.queues.look n

/-- Applies a function to a queue. -/
def State.updQueue (s : State) (n : Nat) (f : Queue → Queue) : State := { s with queues := s.queues.upd n f }

/-! ## Storage (R143 to R146) -/

/-- Depths a core placement allows (R143). -/
def Queue.coreRange (q : Queue) : Bool := if q.wide then 2 ≤ q.depth && q.depth ≤ 64 else 2 ≤ q.depth && q.depth ≤ 256

/-- Depths a ring allows (R143). -/
def Queue.ringRange (q : Queue) : Bool := if q.wide then 2 ≤ q.depth && q.depth ≤ 1024 else 2 ≤ q.depth && q.depth ≤ 4096

/-- Queue-slot units of a core that queues placed on it use (R143). -/
def State.unitsUsed (s : State) (c : Coord) : Nat :=
  s.queues.foldl (fun acc e => if e.2.place = .core c then acc + e.2.depth * (if e.2.wide then 4 else 1) else acc) 0

/-- Bytes of a queue's ring (R147). -/
def Queue.ringBytes (q : Queue) : Nat := q.depth * q.imageSize

/-- Where a ring lies: cluster, company, logical bank and offset (R143, R144). -/
def QPlace.ring? (p : QPlace) : Option (Nat × Nat × Nat × Nat) :=
  match p with
  | .ring cl company lbank off => some (cl, company, lbank, off)
  | .bridge cl company lbank off => some (cl, company, lbank, off)
  | .core _ => none
  | .unplaced => none

/-- Ranges of a bank that rings take: offset and size. -/
def State.ringsIn (s : State) (cl company lbank : Nat) : List (Nat × Nat) :=
  s.queues.filterMap fun e =>
    match e.2.place.ring? with
    | some (a, b, c, off) => if a = cl ∧ b = company ∧ c = lbank then some (off, e.2.ringBytes) else none
    | none => none

/-- The first offset, a multiple of the image size, where a ring fits in a bank of 64 KiB: after some ring, or at 0. -/
def firstFit (used : List (Nat × Nat)) (img size : Nat) : Option Nat :=
  let starts := 0 :: used.map fun u => (u.1 + u.2 + img - 1) / img * img
  let free (o : Nat) : Bool := o + size ≤ 65536 && used.all fun u => o + size ≤ u.1 || u.1 + u.2 ≤ o
  ((starts.filter free).foldl (fun (acc : Option Nat) o => match acc with
    | none => some o
    | some b => some (min b o)) none)

/-- Logical numbers of the banks that a company of a cluster holds in a mode, in ascending order. -/
def Cluster.lbanks (c : Cluster) (company : Nat) (mode : BankMode) : List Nat :=
  (List.range 32).filter fun l =>
    c.banks.any fun b => b.2.held && b.2.company == company && b.2.lbank == l && b.2.mode == mode && b.2.next == none

/-- First fit in a FIFO bank that the company holds (R144). -/
def State.ringPlace (s : State) (cl company : Nat) (q : Queue) : Option (Nat × Nat) :=
  ((s.clusterAt cl).lbanks company .fifo).findSome? fun l =>
    (firstFit (s.ringsIn cl company l) q.imageSize q.ringBytes).map fun o => (l, o)

/-! ## Freeing ends (R145, R360) -/

/-- Frees the producer end of a queue: accepted entries stay deliverable. -/
def Queue.freeProd (q : Queue) : Queue := { q with prod := .freed }

/-- Frees the consumer end of a queue: every entry is discarded, and later ones too. -/
def Queue.freeCons (q : Queue) : Queue :=
  { q with cons := .freed, entries := [], inRing := 0, transit := [], marker := none, discards := true,
           credits := q.capacity, returning := 0, taken := q.pushed, carrier := .empty, knows := [] }

/-- Storage returns when both ends have been freed (R145). -/
def Queue.reclaim (q : Queue) : Queue :=
  if q.prod = .freed ∧ q.cons = .freed then
    { q with place := .unplaced, prod := .unbound, cons := .unbound, discards := false, credits := 0 }
  else q

/-- Frees an end of a queue. -/
def State.freeEnd (s : State) (n : Nat) (prod : Bool) : State :=
  s.updQueue n fun q => (if prod then q.freeProd else q.freeCons).reclaim

end Sys2Proof.Machine
end

