-- ==== Sys2Proof/Machine/Faults.lean ====
section
/-! DEFINITION. The policy in force, fault and trace records, taking a handled, fatal or asynchronous fault, and killing a company
group (R44, R206, R257, R455 to R463, R490 to R492, R510, R512). -/

namespace Sys2Proof.Machine

/-- Code of a fault (R455). -/
def FaultCode.num : FaultCode → Nat
  | .illegalOp => 0x01 | .extAbsent => 0x02 | .operandForm => 0x03 | .priv => 0x04 | .align => 0x05 | .pageSplit => 0x06
  | .xlateMiss => 0x07 | .xlatePerm => 0x08 | .mmRace => 0x09 | .qcue => 0x0A | .qunbound => 0x0B | .futFault => 0x0C
  | .doubleResolve => 0x0D | .claimExceeded => 0x0E | .noClaim => 0x0F | .overlay => 0x10 | .bkpt => 0x11 | .trap => 0x12
  | .heartbeat => 0x13 | .neighbourFenced => 0x14 | .async => 0x15 | .scope => 0x16 | .tileState => 0x17
  | .replayDiverged => 0x18 | .preempt => 0x19 | .sramEcc => 0x1A | .migrateDenied => 0x1B

/-- Faults of class fatal (R455). -/
def FaultCode.fatal : FaultCode → Bool
  | .illegalOp => true | .extAbsent => true | .operandForm => true | .priv => true | .claimExceeded => true | .sramEcc => true
  | _ => false

/-- Faults whose tval is an address (R512). -/
def addressTval (code : Nat) : Bool := [0x05, 0x06, 0x07, 0x08, 0x09, 0x19, 0x1A].contains code

/-! ## Policy (R507, R510) -/

/-- Seconds on the trusted clock (R527): 2.7 * 10^9 cycles each. -/
def State.clockSeconds (s : State) : Option Nat := s.clock.map fun c => c.1 + (s.cycle - c.2) / 2700000000

/-- The installed policy has expired, as an instant of the trusted clock (R510). -/
def State.policyExpired (s : State) (p : Policy) : Bool :=
  p.past || (match s.clockSeconds with
    | none => true
    | some t => decide (p.expiry ≤ t))

/-- The policy that governs a partition now (R510). -/
def State.policyOf (s : State) (pnum : Nat) : Policy :=
  match (s.part pnum).policy with
  | none => .strict
  | some p => if s.policyExpired p then .strict else p

/-- A value rounded down to a multiple of 2^n. -/
def roundDown (x n : Nat) : Nat := x / 2 ^ n * 2 ^ n

/-! ## Fault records (R462, R463, R512) -/

/-- Word 2 of a record (R462). -/
def FaultRec.word2 (r : FaultRec) (pc role coord : Option Nat) (wheld : Bool) : Nat :=
  pc.getD (2 ^ 32 - 1) + r.code * 2 ^ 32 + (if r.async then 2 ^ 40 else 0) + (if r.fatal then 2 ^ 41 else 0) +
    (if r.fwd then 2 ^ 42 else 0) + (if r.undeliv then 2 ^ 43 else 0) + (if wheld then 2 ^ 44 else 0) +
    role.getD 1 * 2 ^ 45 + coord.getD (2 ^ 16 - 1) * 2 ^ 48

/-- A record with the fields that are shown, the others all ones and WHELD set (R462, R463). -/
def FaultRec.words (r : FaultRec) (gtid tval pc role coord olnch oindex qsel time opid : Option Nat) : List Nat :=
  let wheld := [gtid, tval, pc, role, coord, olnch, oindex, qsel, time, opid].any Option.isNone
  [gtid.getD (2 ^ 64 - 1), tval.getD (2 ^ 64 - 1), r.word2 pc role coord wheld,
   olnch.getD (2 ^ 18 - 1) + oindex.getD (2 ^ 20 - 1) * 2 ^ 18 + qsel.getD 31 * 2 ^ 38, time.getD (2 ^ 64 - 1),
   opid.getD (2 ^ 32 - 1), 0, 0]

/-- A record in full, as the handler and the green room receive it. -/
def FaultRec.full (r : FaultRec) : List Nat :=
  r.words (some r.gtid.toNat) (some r.tval.toNat) (some r.pc.toNat) (some (if r.role then 1 else 0)) (some r.coord.toNat)
    (some r.olnch) (some r.oindex) (some r.qsel) (some r.time) (some r.opid)

/-- A record coarsened under a policy (R512). -/
def FaultRec.coarse (r : FaultRec) (p : Policy) : List Nat :=
  let shown (b : Bool) (v : Nat) : Option Nat := if b then some v else none
  let l1 := 1 ≤ p.fdlvl
  let ident := p.ident && l1
  let tval : Option Nat :=
    if p.fdlvl = 3 then some r.tval.toNat
    else if p.fdlvl = 2 ∧ addressTval r.code ∧ p.agran ≠ 63 then
      some (r.tval.toNat / 2 ^ 56 * 2 ^ 56 + roundDown (r.tval.toNat % 2 ^ 56) p.agran)
    else none
  r.words (shown l1 r.gtid.toNat) tval (shown (2 ≤ p.fdlvl) r.pc.toNat) (shown ident (if r.role then 1 else 0))
    (shown l1 r.coord.toNat) (shown ident r.olnch) (shown ident r.oindex) (shown l1 r.qsel)
    (shown l1 (roundDown r.time p.tgran)) (shown l1 r.opid)

/-- Appends a record to the partition's fault ring (R463). -/
def State.faultRing (s : State) (pnum : Nat) (r : FaultRec) : State :=
  let f := (s.part pnum).fring
  let logsz := (f.extractLsb' 52 4).toNat
  if 4 ≤ logsz then
    (s.ringAppend true ((f.extractLsb' 6 46).toNat * 64) logsz 64 (fun _ => r.coarse (s.policyOf pnum))).2
  else s

/-! ## Trace (R490 to R492) -/

/-- Lowest trace level at which a coarsened ring receives a type (R491). -/
def traceLevel (ty : Nat) : Nat := if ty ≤ 2 then 1 else if ty ≤ 8 then 2 else 3

/-- A stream register is enabled with a valid ring size (R480). -/
def streamOn (r : Word) : Bool := r.getLsbD 0 && 4 ≤ (r.extractLsb' 1 4).toNat

/-- Base address of a stream register. -/
def streamBase (r : Word) : Nat := (r.extractLsb' 6 46).toNat * 64

/-- The extent of a stream lies within the partition's regions (FULL of R480, R479). -/
def State.streamFull (s : State) (pnum : Nat) (r : Word) (bytes : Nat) : Bool := (s.part pnum).region (streamBase r) bytes

/-- Stream register i of a partition (R480). -/
def State.streamReg (s : State) (pnum i : Nat) : Word := (s.part pnum).streams.getD i 0

/-- Bytes of a ring of a stream register with entries of a size. -/
def ringExtent (r : Word) (entry : Nat) : Nat := 64 + 2 ^ (r.extractLsb' 1 4).toNat * entry

/-- Some enabled trace ring of the partition receives a type (R491, R492). -/
def State.traceWanted (s : State) (pnum ty : Nat) : Bool :=
  [4, 5].any fun i =>
    let r := s.streamReg pnum i
    streamOn r && (s.streamFull pnum r (ringExtent r 32) || traceLevel ty ≤ (s.policyOf pnum).trlvl)

/-- Makes a trace record in the buffer of a core if it is wanted and there is room (R492). -/
def State.trace (s : State) (core : Coord) (pnum ty : Nat) (gtid : Word) (pc : Nat) (value : Word) : State :=
  if s.traceWanted pnum ty then
    if (s.coreAt core).trace.length < 16 then
      let w2 := BitVec.ofNat 64 (core.toNat + ty * 2 ^ 16 + pc * 2 ^ 32)
      let p := s.policyOf pnum
      let r : TraceRec := { words := [gtid, BitVec.ofNat 64 s.time, w2, value], pnum, trlvl := p.trlvl, tgran := p.tgran }
      s.updCore core fun c => { c with trace := c.trace ++ [r] }
    else { s with traceDrops := s.traceDrops.put (cDie core) (s.traceDrops.getD (cDie core) 0 + 1) }
  else s

/-! ## Arrivals (R471) -/

/-- What became of an arrival. -/
inductive Fate where
  | performed | diverted | dropped | held
  deriving DecidableEq, Repr

/-- The company an arrival is bound for. -/
def Arrival.company : Arrival → Nat
  | .write c .. => c
  | .count c .. => c
  | .arrive c .. => c
  | .lwrite c .. => c

/-- Who waits for an arrival. -/
def Arrival.who : Arrival → Option Nat
  | .write _ _ _ _ w _ => w
  | .count _ _ _ _ w => w
  | .arrive _ _ _ _ _ _ _ w => w
  | .lwrite _ _ _ _ w _ => w

/-- Tells the operation, the other package or the context that waits for an arrival that it has landed. -/
def State.landedFor (s : State) (who : Option Nat) (f : Fate) (v : Word) : State :=
  match who with
  | none => s
  | some k =>
    match s.ops.look k with
    | some o => { s with ops := s.ops.put k { o with flying := o.flying - 1, dropped := o.dropped || f == .dropped } }
    | none =>
      match s.peers.look k with
      | some p =>
        let dropped := p.dropped || f == .dropped
        if p.left ≤ 1 then
          { s with peers := s.peers.del k,
                   outbox := s.outbox ++ [Sent.answer p.request (if dropped then some .noTarget else none) 0] }
        else { s with peers := s.peers.put k { p with left := p.left - 1, dropped } }
      | none => if (s.ctxs.look k).isSome then s.updCtx k fun x => { x with landed := some v } else s

/-! ## Killing (R257) -/

/-- Requests refused so far are decided again (R253). -/
def State.redecide (s : State) (cl : Nat) : State :=
  s.updCluster cl fun c => { c with reqs := c.reqs.map fun r =>
    match r.phase with
    | .refused _ => { r with redecide := true }
    | _ => r }

/-- A free place for a DISCARD entry; at most 48 (R470). -/
def Cluster.discardPlace (c : Cluster) : Option Nat := ((List.range 48).map (· + 16)).find? fun i => (c.diverts.look i).isNone

/-- Empties a bank and returns it to CACHE mode (R66). -/
def State.bankToCache (s : State) (cl b : Nat) : State :=
  let s := { s with mem := (Mem.cut s.mem (bankPa cl b 0) 65536).2 }
  s.updCluster cl fun c => c.updBank b fun _ => Bank.reset

/-- A company gives up a bank: a DISCARD entry and CACHE mode, or RETIRING where no entry is free (R256). -/
def State.giveUpBank (s : State) (cl b : Nat) : State :=
  let c := s.clusterAt cl
  let k := c.bankAt b
  match c.discardPlace with
  | some i =>
    (s.updCluster cl fun c => { c with diverts := c.diverts.put i (.discard k.company k.lbank) }).bankToCache cl b
  | none => s.updCluster cl fun c => c.updBank b fun k => { k with mode := .retiring, next := none, held := false }

/-- Frees every queue end of a context (R257, R360). -/
def State.freeEndsOf (s : State) (k : Nat) : State :=
  (s.ctx k).qregs.toList.foldl (fun s q => match q.bound with
    | none => s
    | some (n, prod) => s.freeEnd n prod) s

/-- A tile command that waits in a green room, its task's unit having been taken for others (R404). -/
def State.opAway (s : State) (o : EngOp) : Bool :=
  o.qsel == 4 && ((s.clusterAt (clusterOf o.core)).companies.any fun (e : Nat × Company) =>
    e.2.savedUnits.any fun u => u.1 == o.core && u.2.bound == some o.key)

/-- Operations of an engine queue that have not resolved, in order. -/
def State.engQueue (s : State) (core : Coord) (qsel : Nat) : List (Nat × EngOp) :=
  s.ops.filter fun e => e.2.core == core && e.2.qsel == qsel && !s.opAway e.2

/-- An operation is a TGET. -/
def OpBody.isTget : OpBody → Bool
  | .tget _ => true
  | _ => false

/-- Takes a context out of everything that waits on its behalf (R232, R414). -/
def State.withdraw (s : State) (k : Nat) : State :=
  let x := s.ctx k
  let s := s.updCore x.core fun c =>
    { c with mail := c.mail.map fun m => { m with waiters := m.waiters.filter (· != k) } }
  { s with
    clusters := s.clusters.map fun e => (e.1, { e.2 with reqs := e.2.reqs.filter fun r => r.key != k || r.want == .resume }),
    walks := s.walks.map fun e => (e.1, { e.2 with requesters := e.2.requesters.filter fun r => r != .ctx k && r != .probe k }),
    ops := s.ops.filter fun e => e.2.key != k || !e.2.body.isTget,
    detours := s.detours.filter (· != k) }

/-- Removes a task: its queue ends, its trap, its tile unit and its trace record (R257, R402, R404). A store of its that is held under
write-block has completed, and stays held (R101, R185). -/
def State.removeTask (s : State) (k : Nat) (code : Nat) : State :=
  let x := s.ctx k
  let s := (s.freeEndsOf k).withdraw k
  let s := s.trace x.core (gtidPnum x.gtid) 4 x.gtid 0 (BitVec.ofNat 64 code)
  let tileBound := (s.coreAt x.core).tile.bound == some k
  let s := s.updCore x.core fun c =>
    { c with traps := c.traps.filter (· != k), serving := if c.serving = some k then none else c.serving,
             cause := if c.serving = some k then 0 else c.cause, epc := if c.serving = some k then 0 else c.epc,
             tval := if c.serving = some k then 0 else c.tval,
             tile := if tileBound then { c.tile with bound := none } else c.tile }
  let s := if (s.coreAt x.core).serving.isNone then s.updCtx x.core.toNat fun y => { y with fmt := 0 } else s
  let s : State := { s with ops := s.ops.map fun (e : Nat × EngOp) =>
    (e.1, if e.2.key = k ∧ e.2.qsel = 4 ∧ e.2.result.isNone ∧ e.2.done = 0 then { e.2 with result := some .cancelled } else e.2) }
  { s with ctxs := s.ctxs.del k }

/-- A task belongs to a company group (R240). -/
def Ctx.inGroup (x : Ctx) (pnum launch n : Nat) : Bool :=
  x.task && gtidPnum x.gtid == pnum && gtidLaunch x.gtid == launch && x.company.toNat == n

/-- A company belongs to a group. -/
def Company.inGroup (c : Company) (pnum launch : Nat) : Bool := c.pnum == pnum && c.launch == launch

/-- Resets an operator: its internal state goes; its parameters, the fault last raised, and what is on the wire to it stay
(R423, R438). -/
def Opr.reset (o : Opr) : Opr :=
  { o with state := .stopped, stopping := false, retrying := false, items := 0, ostall := 0, istall := 0, know := .empty, idx := [],
           seqOut := [], seqDone := false, slots := [], nth := 0, nfault := 0, staging := [], tagNext := 0,
           growFrames := 0, frameAt := 0, idleFrames := [], steals := 0, grows := 0, shrinks := 0, refused := 0, recs := [], next := 0,
           emitted := 0, served := 0, cuePayload := none, short := 0, stray := 0, dropc := 0, lastIn := 0, acc := 0, amax := 0,
           drops := 0 }

/-- Faults that walks have returned to an operator, and that it has not taken, go: what it translates from now on walks again. -/
def State.forgetFaults (s : State) (k : Nat) : State := { s with walkFaults := s.walkFaults.filter fun f => !f.who.isOpr k }

/-- Resets the operators of a company in a cluster and frees their queue ends (R423). -/
def State.killOprs (s : State) (cl n launch pnum : Nat) : State :=
  s.oprs.foldl (fun s e =>
    if e.2.cl = cl ∧ e.2.company = n ∧ e.2.launch = launch ∧ e.2.pnum = pnum then
      let s := e.2.ins.foldl (fun s q => s.freeEnd q.2 false) s
      let s := e.2.outs.foldl (fun s q => s.freeEnd q.2 true) s
      { s with oprs := s.oprs.put e.1 { e.2.reset with ins := [], outs := [], live := 0, wire := [] } }.forgetFaults e.1
    else s) s

/-- Arrivals for a company that is no more leave the ingress: they are dropped, and those who wait for them learn it (R256). -/
def State.dropIngress (s : State) (cl n : Nat) : State :=
  let l := (s.clusterAt cl).ingress.filter fun a => a.company == n
  let s := s.updCluster cl fun c => { c with ingress := c.ingress.filter fun a => a.company != n }
  l.foldl (fun (s : State) a => s.landedFor a.who .dropped 0) s

/-- Returns everything a company of a cluster holds and removes the company (R257). -/
def State.dropCompany (s : State) (cl n : Nat) : State :=
  match s.company? cl n with
  | none => s
  | some co =>
    let s := s.killOprs cl n co.launch co.pnum
    let s := co.tiles.foldl (fun s t => s.updCore t.1 fun c => { c with tile := { c.tile with b := c.tile.b.del t.2 } }) s
    let mine := (List.range Config.banksPerCluster).filter fun b =>
      let k := (s.clusterAt cl).bankAt b
      k.held && k.company == n
    let s := mine.foldl (fun s b => s.giveUpBank cl b) s
    let s := (clusterCores cl).foldl (fun s c => s.updCore c fun x =>
      { x with mail := x.mail.map fun m => if m.owned ∧ m.company.toNat = n then { m with count := 0, owned := false, cleared := true, carrier := .empty } else m }) s
    let s := s.updCluster cl fun c =>
      { c with companies := c.companies.del n, diverts := c.diverts.del n, wings := c.wings.del n, flists := c.flists.del n,
               reqs := c.reqs.filter fun r => r.company != n,
               barriers := c.barriers.filter fun b => b.id.company != n }
    (s.dropIngress cl n).redecide cl

/-- Kills a company group in every cluster with a code for the launch's cell (R257, R451). -/
def State.killGroup (s : State) (pnum launch n code : Nat) : State :=
  let mark (l : Launch) : Launch :=
    if l.pnum = pnum ∧ l.number = launch ∧ l.killCode.isNone then { l with killCode := some code } else l
  let s : State := { s with launches := s.launches.map fun e => (e.1, mark e.2) }
  let s : State := s.ctxs.foldl (fun (s : State) (e : Nat × Ctx) =>
    if e.2.inGroup pnum launch n then s.removeTask e.1 code else s) s
  let s : State := s.queues.foldl (fun (s : State) (e : Nat × Queue) =>
    if e.2.pnum = pnum ∧ e.2.launch = launch then
      let s := if e.2.prod = .exited n then s.freeEnd e.1 true else s
      if e.2.cons = .exited n then s.freeEnd e.1 false else s
    else s) s
  s.clusters.foldl (fun (s : State) (e : Nat × Cluster) =>
    match e.2.companies.look n with
    | some co => if co.inGroup pnum launch then s.dropCompany e.1 n else s
    | none => s) s

/-! ## Taking faults -/

/-- A trap record of a fault at a program counter. -/
def trapAt (code : FaultCode) (tval : Word) (epc : Pc) : TrapRec :=
  { code, inner := 0, tval, epc, role := false, olnch := 0, oindex := 0, table := false, time := 0, qsel := 0, opid := 0 }

/-- A fault record of a task (R462). -/
def State.recordOf (s : State) (x : Ctx) (code : Nat) (tval : Word) (pc : Pc) : FaultRec :=
  { gtid := x.gtid, tval, pc, code, async := false, fatal := false, fwd := false, undeliv := false, role := false, coord := x.core,
    olnch := 0, oindex := 0, qsel := 0, time := s.time, opid := 0 }

/-- What a context leaves behind when an instruction ends without effect. -/
def Ctx.settle (x : Ctx) : Ctx :=
  { x with leaves := [], streaked := 0, missed := [], lut := none, shape := none, since := none, arrived := false, landed := none, probed := none }

/-- The control context halts, and the code is reported to the command processor (R266, R307). -/
def State.haltControl (s : State) (core : Coord) (code : Nat) : State :=
  let s := s.updCore core fun c => { c with chalt := true, active := false }
  let s := s.updCtx core.toNat fun x => { x.settle with status := .idle }
  { s with irqs := s.irqs ++ [.controlHalt core code] }

/-- A handled or overlay fault makes the task trapped, to be served in the order of faults (R456). -/
def State.takeTrap (s : State) (k : Nat) (t : TrapRec) : State :=
  let x := s.ctx k
  let s := s.updCtx k fun x => { x.settle with status := .trapped { t with time := if t.code = .async then t.time else s.time } false }
  let s := s.updCore x.core fun c => { c with traps := c.traps ++ [k] }
  let s := s.countCluster (clusterOf x.core) 14 0
  if t.code = .overlay then s.countCore x.core 4 3 else s

/-- A fatal fault appends a record and kills the task's company group (R460). -/
def State.takeFatal (s : State) (k : Nat) (t : TrapRec) : State :=
  let x := s.ctx k
  let r := { s.recordOf x t.code.num t.tval t.epc with fatal := true, role := t.role, olnch := t.olnch, oindex := t.oindex }
  let s := s.faultRing (gtidPnum x.gtid) r
  s.killGroup (gtidPnum x.gtid) (gtidLaunch x.gtid) x.company.toNat t.code.num

/-- Takes a precise fault of a context: the control context halts, a task is trapped or its group is killed (R307, R456, R460). -/
def State.takeFault (s : State) (k : Nat) (t : TrapRec) : State :=
  let x := s.ctx k
  if !x.task then s.haltControl x.core t.code.num
  else if t.code.fatal then s.takeFatal k t
  else s.takeTrap k t

/-- A context with the GTID of an issuing task, its key known. -/
def State.issuer? (s : State) (k : Nat) (gtid : Word) : Option Ctx :=
  match s.ctxs.look k with
  | some x => if x.gtid = gtid then some x else none
  | none => none

/-! ## The green room (R464, R467, R468, R541) -/

/-- A green room's address lies within the partition's HBM regions (R467, R476). -/
def State.greenOk (s : State) (pnum pa n : Nat) : Bool := (s.part pnum).region pa n

/-- Base of a company's green room; 0 if it has none (R464). -/
def Company.base (c : Company) : Nat := c.cgrb.toNat * 4096

/-- Writes 8 bytes of a company's green room. -/
def State.greenWrite (s : State) (pnum pa v : Nat) : State := s.physWrite (s.greenOk pnum pa 8) pa 8 v

/-- Reads 8 bytes of a company's green room. -/
def State.greenRead (s : State) (pnum pa : Nat) : Nat × State := s.physRead (s.greenOk pnum pa 8) pa 8

/-- The first of the places from i on, n of them, whose record bears a GTID. -/
def State.findRecord (s : State) (pnum area : Nat) (gtid : Word) (i n : Nat) : Option Nat × State :=
  match n with
  | 0 => (none, s)
  | n + 1 =>
    let (g, s) := s.greenRead pnum (area + i * 0x3000 + 0x248)
    if g = gtid.toNat then (some (area + i * 0x3000), s) else s.findRecord pnum area gtid (i + 1) n

/-- Address of the place of a task in its company's record area, by GTID (R467, R468). -/
def State.recordPa (s : State) (co : Company) (gtid : Word) : Option Nat × State :=
  if !co.susp then (none, s)
  else
    let (troff, s) := s.greenRead co.pnum (co.base + 0x10)
    let (counts, s) := s.greenRead co.pnum (co.base + 8)
    s.findRecord co.pnum (co.base + troff % 2 ^ 32) gtid 0 (counts % 2 ^ 7)

/-- The fields of word 0x08 of a green room's header; its reserved bits are written as zero (R8, R467). -/
def greenCountsMask : Nat := 0x7F + 0x3F * 2 ^ 8 + 0x1F * 2 ^ 16 + 0xFF * 2 ^ 24 + 0x3F * 2 ^ 32

/-- A record of the fault list of a suspended company (R461, R467). -/
def State.listRecord (s : State) (co : Company) (i : Nat) (r : FaultRec) : State :=
  if !co.susp then s
  else
    let (floff, s) := s.greenRead co.pnum (co.base + 0x30)
    let list := co.base + floff % 2 ^ 32 + 64 * i
    let s := r.full.zipIdx.foldl (fun (s : State) e => s.greenWrite co.pnum (list + 8 * e.2) e.1) s
    let (v, s) := s.greenRead co.pnum (co.base + 8)
    s.greenWrite co.pnum (co.base + 8) (((v - v / 2 ^ 32 % 2 ^ 6 * 2 ^ 32) &&& greenCountsMask) + (i + 1) * 2 ^ 32)

/-- A record joins the fault list of a suspended company; false where the list is full. -/
def State.joinList (s : State) (cl n : Nat) (r : FaultRec) : Bool × State :=
  let l := (s.clusterAt cl).flists.getD n []
  match s.company? cl n with
  | none => (false, s)
  | some co =>
    if 32 ≤ l.length then (false, s)
    else (true, (s.updCluster cl fun c => { c with flists := c.flists.put n (l ++ [r]) }).listRecord co l.length r)

/-- Raises an asynchronous fault on behalf of a company for an operation of a task (R461). -/
def State.asyncFault (s : State) (pnum cl company : Nat) (k : Nat) (r : FaultRec) : State :=
  let r := { r with async := true, pc := 0, time := s.time }
  let s := s.countCluster cl 14 1
  if r.code = 0x1A then
    (s.faultRing pnum { r with fatal := true }).killGroup pnum (gtidLaunch r.gtid) company r.code
  else
    match s.issuer? k r.gtid with
    | none => s.faultRing pnum r
    | some x =>
      if x.saved then
        match s.joinList (clusterOf x.home) x.company.toNat r with
        | (true, s) => s.faultRing pnum r
        | (false, s) => s.faultRing pnum { r with undeliv := true }
      else if x.asyncs.length < 4 then
        (s.updCtx k fun x => { x with asyncs := x.asyncs ++ [r] }).faultRing pnum r
      else s.faultRing pnum { r with undeliv := true }

/-- Raises a fault of an operator (R427): the fault ring only, and fatal only for SRAM_ECC. -/
def State.oprFault (s : State) (pnum launch cl company : Nat) (code : FaultCode) (tval : Word) : State :=
  let r : FaultRec :=
    { gtid := 0, tval, pc := 0, code := code.num, async := true, fatal := code == .sramEcc, fwd := false, undeliv := false,
      role := false, coord := clusterCoord cl, olnch := 0, oindex := 0, qsel := 0, time := s.time, opid := 0 }
  let s := ((s.faultRing pnum r).countCluster cl 14 1).countCluster cl 12 2
  if code = .sramEcc then s.killGroup pnum launch company code.num else s

/-- Applies a function to an operator. -/
def State.updOpr (s : State) (k : Nat) (f : Opr → Opr) : State := { s with oprs := s.oprs.upd k f }

/-- An operator enters state faulted or stalled and raises its fault, of an access to a virtual address or of none, 0 (R421, R426, R427). -/
def State.raiseOpr (s : State) (k : Nat) (code : FaultCode) (tval : Word) (va : Nat) (stall : Bool) : State :=
  match s.oprs.look k with
  | none => s
  | some o =>
    let s := s.updOpr k fun o =>
      { o with state := if stall then .stalled else .faulted, code := code.num, va := va % 2 ^ 56,
               nfault := if stall then o.nfault + 1 else o.nfault }
    s.oprFault o.pnum o.launch o.cl o.company code tval

end Sys2Proof.Machine
end

