-- ==== Sys2Proof/Machine/Landing.lean ====
section
/-! DEFINITION. Scratch banks, barriers and mailbox counters, what lands in them, the diversion table and the wings log
(R61, R62, R165 to R168, R256, R354, R355, R470 to R475). -/

namespace Sys2Proof.Machine

/-! ## Scratch banks -/

/-- The physical bank that holds a company's logical bank in a mode (R61, R62). -/
def Cluster.physBank (c : Cluster) (company lbank : Nat) (mode : BankMode) : Option Nat :=
  (List.range Config.banksPerCluster).find? fun b =>
    let k := c.bankAt b
    k.held && k.company == company && k.lbank == lbank && k.mode == mode && k.next.isNone

/-- Landings for a logical bank are dropped: a DISCARD entry, or a bank that retires (R256). -/
def Cluster.discarded (c : Cluster) (company lbank : Nat) : Bool :=
  (c.diverts.any fun e => e.2 == .discard company lbank) ||
    (c.banks.any fun e => e.2.mode == .retiring && e.2.company == company && e.2.lbank == lbank)

/-- The DIVERT entry of a company: MBOX, HOLD, the address of its log, or 0, and LBMASK (R470). -/
def Cluster.divertOf (c : Cluster) (company : Nat) : Option (Bool × Bool × Nat × BitVec 32) :=
  match c.diverts.look company with
  | some (.divert _ mbox hold log lbanks) => some (mbox, hold, log, lbanks)
  | _ => none

/-! ## Barriers (R354, R355) -/

/-- A barrier's words. -/
structure BarWords where
  expect : Nat
  arrived : Nat
  episode : Nat
  gen : Nat
  deriving DecidableEq, Repr

/-- Reads a barrier at a physical address. -/
def State.barRead (s : State) (pa : Nat) : BarWords :=
  { expect := leValue (s.tierBytes pa 4), arrived := leValue (s.tierBytes (pa + 4) 4),
    episode := leValue (s.tierBytes (pa + 8) 4), gen := leValue (s.tierBytes (pa + 12) 1) }

/-- A carrier merges an arrival, its token included or not (R201). -/
def Carrier.mergeToken (c : Carrier) (token : Bool) (k : Carried) : Carrier :=
  if token then c.merge k
  else
    let l := c.launch.getD k.launch
    { launch := some l, know := mergeKnow none (k.launch == l) c.know k.know.front k.know }

/-- An arrival fills the carrier of its barrier episode (R201), one over the empty set with nothing (R22). -/
def Cluster.barCarrier (c : Cluster) (id : BarId) (e : Nat) (token : Bool) (k : Carried) (scope : BitVec 32) (home : Coord) :
    Cluster :=
  let mine (b : BarCarrier) : Bool := b.id == id && b.episode == e
  if (scopeBox scope).void then c
  else if c.barriers.any mine then
    { c with barriers := c.barriers.map fun b =>
        if mine b then { b with carrier := b.carrier.mergeToken token k, scopeBox := b.scopeBox.join (scopeBox scope),
                                homeBox := b.homeBox.join (pointBox home) } else b }
  else
    let new : BarCarrier :=
      { id, episode := e, carrier := Carrier.empty.mergeToken token k, scopeBox := scopeBox scope, homeBox := pointBox home }
    { c with barriers := c.barriers ++ [new] }

/-- An arrival performs in one step at its barrier and gives the episode it belongs to (R355). -/
def State.barArrive (s : State) (cl company lbank off b : Nat) (scope : BitVec 32) (home : Coord) (k : Carried) (token : Bool) :
    Nat × State :=
  let pa := bankPa cl b off
  let w := s.barRead pa
  let s :=
    if w.expect ≤ w.arrived + 1 then
      (s.setTier (pa + 4) (leBytes 4 0)).setTier (pa + 8) (leBytes 4 (w.episode + 1))
    else s.setTier (pa + 4) (leBytes 4 (w.arrived + 1))
  (w.episode, s.updCluster cl fun c => c.barCarrier { cl, company, lbank, off, gen := w.gen } w.episode token k scope home)

/-! ## Mailbox counters (R165, R166) -/

/-- A packet is counted, with the knowledge it carries. DESIGN CHOICE (log entry 124): the launch of a counter's carrier (R202) is that of the
company that owns the counter; of a counter with OWNED = 0, that of the first packet since the carrier was empty. -/
def State.countPacket (s : State) (core : Coord) (tag : Nat) (k : Option Carried) : State :=
  match tag, Nat.decLt tag 16 with
  | t, isTrue h =>
    let i : Fin 16 := ⟨t, h⟩
    let m := (s.coreAt core).mail[i]
    let owner := if m.owned then s.company? (clusterOf core) m.company.toNat else none
    let car := match k with
      | none => m.carrier
      | some k => (match owner with
        | some co => m.carrier.ofLaunch co.launch
        | none => m.carrier).merge k
    let full := m.count == 0xFFFFFFFF
    let m := { m with count := if full then m.count else m.count + 1, ovf := m.ovf || full, carrier := car }
    let s := s.updCore core fun c => { c with mail := c.mail.set i m }
    if full then s.countCore core 7 2 else s
  | _, isFalse _ => s

/-! ## Landing -/

/-- A word of local memory is good again once written (R478). -/
def State.clearBad (s : State) (pa n : Nat) : State :=
  { s with bad := s.bad.filter fun b => !(pa / 8 ≤ b / 8 && b / 8 ≤ (pa + n - 1) / 8) }

/-- Performs an arrival at the place it names; for a barrier arrival the word is the episode (R62, R256). -/
def State.performArrival (s : State) (cl : Nat) (a : Arrival) : Fate × Word × State :=
  let c := s.clusterAt cl
  match a with
  | .write company lbank off data _ _ =>
    match c.physBank company lbank .scratch with
    | none => (.dropped, 0, s)
    | some b => (.performed, 0, s.setTier (bankPa cl b off) data)
  | .count _ core tag know _ => (.performed, 0, s.countPacket core tag know)
  | .arrive company lbank off scope home know token _ =>
    match c.physBank company lbank .scratch with
    | none => (.dropped, 0, s)
    | some b =>
      let (e, s) := s.barArrive cl company lbank off b scope home know token
      (.performed, BitVec.ofNat 64 e, s)
  | .lwrite _ core off data _ _ => (.performed, 0, (s.setTier (localPa core off) data).clearBad (localPa core off) data.length)

/-- The DIVERT entry that covers an arrival: HOLD and the address of the log, or 0 (R470, R471). -/
def State.divertFor (s : State) (cl : Nat) (a : Arrival) : Option (Bool × Nat) :=
  let c := s.clusterAt cl
  match c.divertOf a.company with
  | none => none
  | some (mbox, hold, log, lbanks) =>
    let covered := match a with
      | .write _ lbank .. => lbanks.getLsbD lbank
      | .arrive _ lbank .. => lbanks.getLsbD lbank
      | .count .. => mbox
      | .lwrite company core .. => match c.companies.look company with
        | none => false
        | some co => co.savedLocals.any fun l => l.core == core
    if covered then some (hold, log) else none

/-- Bytes of a wings record (R472). -/
def Arrival.size : Arrival → Nat
  | .write _ _ _ d _ _ => 16 + (d.length + 15) / 16 * 16
  | .count .. => 112
  | .arrive .. => 128
  | .lwrite _ _ _ d _ _ => 16 + (d.length + 15) / 16 * 16

/-- The 16-byte head of a wings record (R472). -/
def Arrival.headWord : Arrival → Nat
  | .write _ lbank off d _ _ => 1 + lbank * 2 ^ 4 + off * 2 ^ 9 + (d.length - 1) * 2 ^ 26
  | .count _ core tag _ _ => 2 + tag * 2 ^ 32 + core.toNat * 2 ^ 36
  | .arrive _ lbank off .. => 3 + lbank * 2 ^ 4 + off * 2 ^ 9
  | .lwrite _ core off d _ _ => 4 + off * 2 ^ 9 + (d.length - 1) * 2 ^ 26 + core.toNat * 2 ^ 36

/-- A byte list padded with zeros to n bytes. -/
def padTo (d : List Byte) (n : Nat) : List Byte := d ++ List.replicate (n - d.length) 0

/-- The bytes of a wings record; a knowledge image has a format that is not architectural and holds free values (R472). -/
def Arrival.bytes (a : Arrival) (time : Nat) : List Byte :=
  let image := (List.range 96).map fun i => Config.knowledgeImage time i
  let body := match a with
    | .write _ _ _ d _ _ => padTo d ((d.length + 15) / 16 * 16)
    | .lwrite _ _ _ d _ _ => padTo d ((d.length + 15) / 16 * 16)
    | .count .. => image
    | .arrive _ _ _ scope .. => leBytes 16 scope.toNat ++ image
  leBytes 8 a.headWord ++ leBytes 8 time ++ body

/-- WLLIM of a company's green room: the size of its wings log (R467). -/
def State.wingsLimit (s : State) (co : Company) : Nat × State :=
  let (w, s) := s.greenRead co.pnum (co.base + 0x28)
  (w / 2 ^ 32, s)

/-- An arrival waits at the ingress (R473, R474). -/
def State.holdArrival (s : State) (cl : Nat) (a : Arrival) : State :=
  (s.updCluster cl fun c => { c with ingress := c.ingress ++ [a] }).countCluster cl 14 4

/-- An arrival is held because the log has no room for it, or for one before it: HELDN counts it, and the command processor is told
(R472, R473). -/
def State.holdFull (s : State) (cl : Nat) (co : Company) (log : Nat) (a : Arrival) : State :=
  let (heldn, s) := s.greenRead co.pnum (log + 16)
  let s := (s.holdArrival cl a).greenWrite co.pnum (log + 16) (heldn + 1)
  { s with irqs := s.irqs ++ [.wingsFull cl a.company] }

/-- Appends a record to a suspended company's wings log, or holds the arrival where the log has no room (R472, R473). -/
def State.wingsAppend (s : State) (cl : Nat) (co : Company) (log : Nat) (a : Arrival) : Fate × State :=
  let (limit, s) := s.wingsLimit co
  let (tail, s) := s.greenRead co.pnum log
  let (count, s) := s.greenRead co.pnum (log + 8)
  if limit < 64 + tail + a.size then (.held, s.holdFull cl co log a)
  else
    let at_ := log + 64 + tail
    let d := a.bytes s.time
    let s := if s.greenOk co.pnum at_ a.size && physOk at_ a.size then s.physBytesWrite at_ d
             else { s with unclaimed := s.unclaimed + 1 }
    let s := (s.greenWrite co.pnum log (tail + a.size)).greenWrite co.pnum (log + 8) (count + 1)
    let s := s.updCluster cl fun c =>
      { c with wings := c.wings.put a.company (c.wings.getD a.company [] ++ [a]) }
    (.diverted, s.countCluster cl 14 3)

/-- A DISCARD entry, or a bank that retires, drops an arrival, whether or not its company is suspended (R256). -/
def Cluster.drops (c : Cluster) (a : Arrival) : Bool :=
  match a with
  | .write company lbank .. => c.discarded company lbank
  | .arrive company lbank .. => c.discarded company lbank
  | .count .. => false
  | .lwrite .. => false

/-- An arrival reaches its cluster or core and takes its fate (R256, R471 to R475). -/
def State.land (s : State) (cl : Nat) (a : Arrival) : Fate × Word × State :=
  if (s.clusterAt cl).drops a then (.dropped, 0, s)
  else match s.divertFor cl a with
  | none => s.performArrival cl a
  | some (hold, log) =>
    let c := s.clusterAt cl
    match c.companies.look a.company with
    | none => s.performArrival cl a
    | some co =>
      if hold || log = 0 then (.held, 0, s.holdArrival cl a)
      else if c.ingress.any (fun b => b.company == a.company) then (.held, 0, s.holdFull cl co log a)
      else
        let (f, s) := s.wingsAppend cl co log a
        (f, if f = .diverted then 0xFFFFFFFFFFFFFFFF else 0, s)

/-- The company that owns a mailbox counter (R165, R167). -/
def State.countOwner (s : State) (core : Coord) (tag : Nat) : Option Nat :=
  match (s.coreAt core).mail.toList[tag]? with
  | some m => if m.owned then some m.company.toNat else none
  | none => none

/-- A packet reaches its counter: it is diverted with the company that owns the counter, and counted where no company does (R166, R167, R471). -/
def State.landCounter (s : State) (core : Coord) (tag : Nat) (know : Option Carried) (who : Option Nat) : Fate × State :=
  match s.countOwner core tag with
  | some n =>
    let (f, _, s) := s.land (clusterOf core) (.count n core tag know who)
    (f, s)
  | none => (.performed, s.countPacket core tag know)

end Sys2Proof.Machine
end

