-- ==== Sys2Proof/Machine/Stopping.lean ====
section
/-! DEFINITION. The start of a suspension (R232, R465), and replay: logs, digests and divergence (R502 to R506). -/

namespace Sys2Proof.Machine

/-! ## Stopping a company (R465 step 1) -/

/-- A task belongs to a company of a cluster: its home lies there (R240). -/
def Ctx.inCompany (x : Ctx) (cl n : Nat) : Bool := x.task && clusterOf x.home == cl && x.company.toNat == n

/-- A box-office request of a context has been granted and its banks are being switched (R251). -/
def State.grantedReq (s : State) (k : Nat) : Bool :=
  s.clusters.any fun e => e.2.reqs.any fun r => r.key == k && (match r.phase with
    | .granted .. => true
    | .done _ => true
    | _ => false)

/-- A SLEEP in flight ends with a code, unless its time has come, or something else ends it, first (R331). -/
def State.endSleep (s : State) (k : Nat) (code : Fin 3) : State :=
  match (s.ctx k).status with
  | .flight (.sleep start until_ none) =>
    if s.time < until_ then s.updCtx k fun x => { x with status := .flight (.sleep start until_ (some code)) } else s
  | _ => s

/-- One task stops at its next instruction boundary: waits, loads and a TWAIT are withdrawn (R232, R465). A SLEEP ends with code 2;
other instructions complete. -/
def State.stopTask (s : State) (k : Nat) : State :=
  let x := s.ctx k
  let s := s.setCtx k { x with suspended := true, fetched := [], skipBp := false }
  let back (s : State) : State := (s.withdraw k).updCtx k fun x => { x.settle with status := .idle }
  match x.status with
  | .waiting _ => if s.grantedReq k then s else back s
  | .flight (.walk _ false) => back s
  | .flight (.home false) => back s
  | .flight (.fill _ l _) => if l.write then s else back s
  | .flight (.twait ..) => back s
  | .flight (.sleep ..) => s.endSleep k 2
  | _ => s

/-- A suspension of a company begins (R465). -/
def State.beginSuspend (s : State) (cl n : Nat) (reason : BitVec 2) : State :=
  match s.company? cl n with
  | none => s
  | some co =>
    if co.susp || co.stopping then s
    else
      let s := s.updCompany cl n fun co => { co with stopping := true, busy := true, reason }
      s.ctxs.foldl (fun (s : State) (e : Nat × Ctx) => if e.2.inCompany cl n then s.stopTask e.1 else s) s

/-- Every company of a launch is suspended. -/
def State.suspendLaunch (s : State) (pnum launch : Nat) (reason : BitVec 2) : State :=
  s.clusters.foldl (fun (s : State) (e : Nat × Cluster) =>
    e.2.companies.foldl (fun (s : State) (c : Nat × Company) =>
      if c.2.inGroup pnum launch then s.beginSuspend e.1 c.1 reason else s) s) s

/-- Every company of a company group is suspended (R459). -/
def State.suspendGroup (s : State) (pnum launch n : Nat) (reason : BitVec 2) : State :=
  s.clusters.foldl (fun (s : State) (e : Nat × Cluster) =>
    match e.2.companies.look n with
    | some co => if co.inGroup pnum launch then s.beginSuspend e.1 n reason else s
    | none => s) s

/-! ## Digests (R504) -/

/-- One byte of CRC-64/ECMA-182: eight shifts of the remainder. -/
def crcByte (crc : BitVec 64) (b : Byte) : BitVec 64 :=
  (List.range 8).foldl (fun (c : BitVec 64) _ =>
    if c.getLsbD 63 then (c <<< 1) ^^^ 0x42F0E1EBA9EA3693 else c <<< 1) (crc ^^^ (b.setWidth 64 <<< 56))

/-- CRC-64/ECMA-182 with initial value 0 and no reflection. -/
def crc64 (d : List Byte) : BitVec 64 := d.foldl crcByte 0

/-- Bytes of the registers, predicates and PC of a task, as its task record lays them out (R468, R504). -/
def Ctx.digestBytes (x : Ctx) (pc : Pc) : List Byte :=
  (x.g.toList.flatMap fun v => leBytes 32 v.toNat) ++ (x.p.toList.flatMap fun v => leBytes 8 v.toNat) ++ leBytes 8 pc.toNat

/-- Bytes of an entry of a queue: its payload as wide as the queue has it, its sideband and its tag (R138, R504). -/
def Entry.digestBytes (wide : Bool) (e : Entry) : List Byte :=
  leBytes (if wide then 32 else 8) e.payload.toNat ++ leBytes 1 (e.kind.val + if e.fmark then 8 else 0) ++ leBytes 3 e.tag.toNat

/-! ## Logs (R502, R503) -/

/-- An event to be logged. -/
structure LogEvent where
  ty : Nat
  die : Nat
  gtid : Word
  digest : BitVec 64
  coord : Coord
  arg : Nat
  value : Nat
  deriving DecidableEq, Repr

/-- What the replay of a launch says of an event. -/
inductive Replay where
  /-- Go on, with the logged value if a replay gives one. -/
  | go (value : Option Nat)
  /-- Another event comes first. -/
  | wait
  /-- A divergence at a record of a die. -/
  | diverge (index : Nat)
  deriving DecidableEq, Repr

/-- Capacity of a die log in records (R502). -/
def logCap (orpb : Word) : Nat := 2 ^ ((orpb.extractLsb' 0 4).toNat + 12)

/-- Address of the log of a die (R502). -/
def logBase (orpb : Word) (die : Nat) : Nat := streamBase orpb + die * (64 + 32 * logCap orpb)

/-- Replay mode of a launch (R502). -/
def State.modeOf (s : State) (pnum number : Nat) : Nat :=
  match s.launches.look (launchKey pnum number) with
  | none => 0
  | some l => l.mode

/-- Sets bits of a stream register. -/
def State.orStream (s : State) (pnum i : Nat) (v : Word) : State :=
  s.updPart pnum fun p => { p with streams := p.streams.set i (p.streams.getD i 0 ||| v) }

/-- A launch stops logging or replaying. -/
def State.unlog (s : State) (pnum number : Nat) : State :=
  { s with launches := s.launches.upd (launchKey pnum number) fun l => { l with mode := 0 } }

/-- Word 2 of a log record (R503). -/
def LogEvent.word2 (e : LogEvent) : Nat := e.ty + e.coord.toNat * 2 ^ 8 + e.arg % 2 ^ 40 * 2 ^ 24

/-- ORPB as a launch took it with its mode. -/
def State.orpbOf (s : State) (pnum number : Nat) : Word :=
  match s.launches.look (launchKey pnum number) with
  | none => 0
  | some l => l.orpb

/-- An access to a launch's logs is performed: anywhere if REPLAY was 2 when the launch took its mode, else within the regions of its
partition (R502, R513, R541). -/
def State.logOk (s : State) (pnum number pa n : Nat) : Bool :=
  paRangeExists pa n && (match s.launches.look (launchKey pnum number) with
    | none => false
    | some l => l.anywhere || (s.part pnum).region pa n)

/-- Reads 8 bytes of a launch's logs. -/
def State.logRead (s : State) (pnum number pa : Nat) : Nat × State := s.ownRead (s.logOk pnum number pa 8) pa 8

/-- Writes 8 bytes of a launch's logs. -/
def State.logWrite (s : State) (pnum number pa v : Nat) : State := s.ownWrite (s.logOk pnum number pa 8) pa 8 v

/-- Appends a record to the log of a die; the record that fills it stops the recording (R503). -/
def State.logRecord (s : State) (pnum number : Nat) (e : LogEvent) : State :=
  let orpb := s.orpbOf pnum number
  let key := launchKey pnum number * 8 + e.die
  let n := s.replayWritten.getD key 0
  let base := logBase orpb e.die
  let a := base + 64 + 32 * n
  let words := [e.gtid.toNat, e.digest.toNat, e.word2, e.value]
  let s := words.zipIdx.foldl (fun (s : State) w => s.logWrite pnum number (a + 8 * w.2) w.1) s
  let s := s.logWrite pnum number base (n + 1)
  let s := { s with replayWritten := s.replayWritten.put key (n + 1) }
  if logCap orpb ≤ n + 1 then (s.orStream pnum 8 8).unlog pnum number else s

/-- A GTID without its LAUNCH field (R505). -/
def gtidSansLaunch (g : Word) : Word := g &&& ~~~(0x3FFFF#64 <<< 40)

/-- A logged record at an index of a die. -/
def State.logAt (s : State) (pnum number die i : Nat) : LogEvent × State :=
  let a := logBase (s.orpbOf pnum number) die + 64 + 32 * i
  let (gtid, s) := s.logRead pnum number a
  let (digest, s) := s.logRead pnum number (a + 8)
  let (w, s) := s.logRead pnum number (a + 16)
  let (value, s) := s.logRead pnum number (a + 24)
  ({ ty := w % 2 ^ 8, die, gtid := BitVec.ofNat 64 gtid, digest := BitVec.ofNat 64 digest, coord := BitVec.ofNat 16 (w / 2 ^ 8),
     arg := w / 2 ^ 24, value }, s)

/-- Two events have one source: a task, an operator, a location or a cluster's stealing (R505). -/
def LogEvent.sameSource (a b : LogEvent) : Bool :=
  if a.ty = 5 ∨ b.ty = 5 then a.ty == 5 && b.ty == 5 && a.value == b.value
  else if a.ty = 4 ∨ b.ty = 4 then a.ty == 4 && b.ty == 4 && clusterOf a.coord == clusterOf b.coord
  else if a.ty = 6 ∨ b.ty = 6 then a.ty == 6 && b.ty == 6 && gtidSansLaunch a.gtid == gtidSansLaunch b.gtid
  else clusterOf a.coord == clusterOf b.coord && a.arg % 16 == b.arg % 16

/-- The key under which a source's position is kept. -/
def LogEvent.sourceKey (e : LogEvent) (pnum number : Nat) : Nat :=
  let k := if e.ty = 5 then 5 * 2 ^ 64 + e.value
    else if e.ty = 4 then 4 * 2 ^ 64 + clusterOf e.coord
    else if e.ty = 6 then 6 * 2 ^ 64 + (gtidSansLaunch e.gtid).toNat
    else 2 ^ 64 + clusterOf e.coord * 16 + e.arg % 16
  launchKey pnum number * 2 ^ 68 + k

/-- The first of n records from an index on that is an event's source's: its index, and what it says. -/
def State.scanLog (s : State) (pnum number : Nat) (e : LogEvent) (i n : Nat) : Option (Nat × LogEvent) × State :=
  match n with
  | 0 => (none, s)
  | n + 1 =>
    let (r, s) := s.logAt pnum number e.die i
    if r.sameSource e then (some (i, r), s) else s.scanLog pnum number e (i + 1) n

/-- The source's next record (R505). -/
def State.nextLog (s : State) (pnum number : Nat) (e : LogEvent) : Option (Nat × LogEvent) × State :=
  let orpb := s.orpbOf pnum number
  let (n, s) := s.logRead pnum number (logBase orpb e.die)
  let from_ := s.replayPos.getD (e.sourceKey pnum number) 0
  s.scanLog pnum number e from_ (min n (logCap orpb) - from_)

/-- The sequence number of a location's next logged access (R503). -/
def State.seqOf (s : State) (pnum number value : Nat) : Nat := s.replaySeq.getD (launchKey pnum number * 2 ^ 64 + value) 0

/-- An event of a launch: recorded, compared in replay, or neither (R503, R505, R506). -/
def State.logged (s : State) (pnum number : Nat) (e : LogEvent) : Replay × State :=
  let e := if e.ty = 5 then { e with arg := s.seqOf pnum number e.value } else e
  let bump (s : State) : State :=
    if e.ty = 5 then { s with replaySeq := s.replaySeq.put (launchKey pnum number * 2 ^ 64 + e.value) (e.arg + 1) } else s
  match s.modeOf pnum number with
  | 1 => (.go none, bump (s.logRecord pnum number e))
  | 2 =>
    match s.nextLog pnum number e with
    | (none, s) => (.diverge 0, s)
    | (some (i, r), s) =>
      if e.ty = 5 ∧ gtidSansLaunch r.gtid ≠ gtidSansLaunch e.gtid then (.wait, s)
      else if r.ty ≠ e.ty ∨ r.digest ≠ e.digest then (.diverge i, s)
      else (.go (some r.value), bump { s with replayPos := s.replayPos.put (e.sourceKey pnum number) (i + 1) })
  | _ => (.go none, s)

/-- A divergence: REPLAY_DIVERGED in the fault ring, DIV, and the launch stops or goes on unlogged (R506). -/
def State.diverge (s : State) (pnum number : Nat) (e : LogEvent) (index : Nat) : State :=
  let tval := BitVec.ofNat 64 (index % 2 ^ 40 + e.die * 2 ^ 40 + e.ty * 2 ^ 44)
  let r : FaultRec :=
    { gtid := e.gtid, tval, pc := 0, code := FaultCode.num .replayDiverged, async := false, fatal := false, fwd := false, undeliv := false,
      role := false, coord := e.coord, olnch := 0, oindex := 0, qsel := 0, time := s.time, opid := 0 }
  let s := (s.faultRing pnum r).orStream pnum 8 16
  if (s.streamReg pnum 8).getLsbD 2 then s.unlog pnum number else s.suspendLaunch pnum number 0

end Sys2Proof.Machine
end

