-- ==== Sys2Proof/Machine/Translate.lean ====
section
/-! DEFINITION. Page-table walks, translation caches and the leaves they give (R31 to R44, R353). -/

namespace Sys2Proof.Machine

/-- The tval of a translation fault (R44). -/
def xlateTval (reason level va : Nat) : Word := BitVec.ofNat 64 (va % 2 ^ 56 + level % 4 * 2 ^ 56 + reason * 2 ^ 58)

/-- A leaf of a level is malformed (R34, R35, R37). -/
def malformed (e : Word) (level : Nat) : Bool :=
  let cls := leafPa e / 2 ^ 48
  let classOk :=
    match leafTier e with
    | 0 => (cls == 0x0 && leafPlace e == leafPa e / 2 ^ 36 % 8) || (cls == 0x1 && leafPlace e == 8) ||
           (cls == 0xE && leafPolicy e == 3)
    | 1 => 0x8 ≤ cls && cls ≤ 0xB && leafPlace e ≤ 8
    | 2 => cls == 0xC && leafPlace e ≤ 8
    | _ => false
  !classOk || leafPa e % 2 ^ levelBits level != 0

/-- Every address of a leaf's range is populated (R26, R28, R37, R38). -/
def leafExists (pa size : Nat) : Bool := paRangeExists pa size

/-- What a walk finds at one entry (R38). -/
inductive WalkFind where
  | descend (base : Nat)
  | leaf (entry : Word) (sets : Bool)
  | fault (code : FaultCode) (reason : Nat)
  deriving DecidableEq, Repr

/-- The bits of a leaf that a walk sets (R40). -/
def setAD (e : Word) (write : Bool) : Word := e ||| (1 <<< 12) ||| (if write then 1 <<< 13 else 0)

/-- A leaf lacks a bit that the access must set (R40). -/
def lacksAD (e : Word) (write : Bool) : Bool := !leafA e || (write && !leafD e)

/-- A table may be read by a partition's walk; a table at a nonexistent address is refused as one outside the regions
(log entry 16). -/
def tableOk (p : Part) (base : Nat) : Bool := p.region base 8192 && paRangeExists base 8192

/-- What the entry read at a level means (R38). -/
def walkEntry (p : Part) (e : Word) (level : Nat) (write : Bool) : WalkFind :=
  if !e.getLsbD 0 then .fault .xlateMiss 0
  else if leafTier e = 3 then
    if level = 0 then .fault .xlatePerm 1
    else
      let base := (e.extractLsb' 13 39).toNat * 2 ^ 13
      if paClass base ≠ 0 ∧ paClass base ≠ 1 then .fault .xlatePerm 1
      else if !tableOk p base then .fault .xlatePerm 2
      else .descend base
  else if level = 3 || malformed e level then .fault .xlatePerm 1
  else
    let size := 2 ^ levelBits level
    let pa := leafPa e
    if !p.region pa size || !leafExists pa size then .fault .xlatePerm 2
    else if write && !leafW e then .fault .xlatePerm 0
    else .leaf e (lacksAD e write)

/-- Address of the entry of a level (R31, R38). -/
def entryAddr (base level va : Nat) : Nat := base + va / 2 ^ levelBits level % 1024 * 8

/-- An entry as the home of its line serves it (R38). -/
def State.entryAt (s : State) (a : Nat) : Word := BitVec.ofNat 64 (leValue (s.homeBytes (physHome a) a 8))

/-- A walk made in one step for an engine or a hint: the leaf, or the fault with its reason and level (R38 to R40). `sets` is
false for a walk that serves PROBE alone (R353). -/
def State.walkFrom (s : State) (p : Part) (va : Nat) (write sets : Bool) (base level : Nat) :
    Except (FaultCode × Nat × Nat) Leaf × State :=
  let a := entryAddr base level va
  if s.poisoned a then (.error (.sramEcc, 0, level), s)
  else
    let e := s.entryAt a
    match walkEntry p e level write with
    | .fault c r => (.error (c, r, level), s)
    | .descend b =>
      match level with
      | 0 => (.error (.xlatePerm, 1, 0), s)
      | n + 1 => s.walkFrom p va write sets b n
    | .leaf e lacks =>
      if lacks && sets then
        let e := setAD e write
        (.ok { vpn := va / 2 ^ 16, write, level, entry := e }, s.homeWrite (physHome a) a (leBytes 8 e.toNat))
      else (.ok { vpn := va / 2 ^ 16, write, level, entry := e }, s)

/-- A whole walk of a partition (R38). -/
def State.walkNow (s : State) (pnum va : Nat) (write sets : Bool) : Except (FaultCode × Nat × Nat) Leaf × State :=
  let p := s.part pnum
  if !tableOk p p.root then (.error (.xlatePerm, 2, 3), s) else s.walkFrom p va write sets p.root 3

/-! ## Translation caches (R42) -/

/-- An entry maps an address of a partition. -/
def TlbEntry.maps (t : TlbEntry) (pnum va : Nat) : Bool :=
  t.pnum == pnum && t.leaf.vpn * 2 ^ 16 / 2 ^ levelBits t.leaf.level == va / 2 ^ levelBits t.leaf.level

/-- The leaf a cache holds for an address. -/
def tlbFind (l : List TlbEntry) (pnum va : Nat) : Option Leaf := (l.find? fun t => t.maps pnum va).map TlbEntry.leaf

/-- A cache of a capacity takes a leaf, an entry leaving a full one (R42). -/
def tlbInsert (cap : Nat) (l : List TlbEntry) (pnum : Nat) (leaf : Leaf) : List TlbEntry :=
  let l := l.filter fun t => !(t.maps pnum (leaf.vpn * 2 ^ 16) && t.leaf.level == leaf.level)
  let new : TlbEntry := { pnum, leaf }
  (if l.length < cap then l else l.drop 1) ++ [new]

/-- A cluster's cache takes a leaf. -/
def State.tlbPut (s : State) (cl pnum : Nat) (leaf : Leaf) : State :=
  s.updCluster cl fun c => { c with tlb := tlbInsert Config.tlbEntries c.tlb pnum leaf }

/-- The entries of a translation cache: a cluster's by its index, an operator tile's by 192 + cluster * 4 + tile (R42). -/
def State.cacheAt (s : State) (cache : Nat) : List TlbEntry :=
  if cache < 192 then (s.clusterAt cache).tlb else s.tileTlbs.getD (cache - 192) []

/-- Replaces the entries of a translation cache. -/
def State.setCache (s : State) (cache : Nat) (l : List TlbEntry) : State :=
  if cache < 192 then s.updCluster cache fun c => { c with tlb := l } else { s with tileTlbs := s.tileTlbs.put (cache - 192) l }

/-- A translation cache takes a leaf. -/
def State.cachePut (s : State) (cache pnum : Nat) (leaf : Leaf) : State :=
  s.setCache cache (tlbInsert (if cache < 192 then Config.tlbEntries else Config.oprTlbEntries) (s.cacheAt cache) pnum leaf)

/-- The cluster at which a translation cache stands. -/
def cacheCluster (cache : Nat) : Nat := if cache < 192 then cache else (cache - 192) / 4

/-- The partition whose pitch holds a cluster; 0 if there is none (R54). -/
def State.owner (s : State) (cl : Nat) : Nat := (s.parts.findKey fun _ p => p.active && p.pitch.getLsbD cl).getD 0

/-- The partition in which a context's addresses are translated: its GTID's, and for a control context its cluster's. -/
def State.pnumOf (s : State) (x : Ctx) : Nat := if x.task then gtidPnum x.gtid else s.owner (clusterOf x.core)

/-! ## What a shootdown covers (R45) -/

/-- A leaf of a partition maps some page of the range; a block that overlaps it in part is covered whole. -/
def Shootdown.covers (d : Shootdown) (pnum : Nat) (leaf : Leaf) : Bool :=
  let n := 2 ^ (10 * leaf.level)
  let first := leaf.vpn / n * n
  d.pnum == pnum && d.lo < first + n && first ≤ d.hi

/-- An access of a context is held under a leaf: it does not count for a shootdown whose drop point in the context's cluster came before
its translation (R101). -/
def State.newlyHeld (s : State) (n k cl pnum : Nat) (leaf : Leaf) : State :=
  let mark (d : Shootdown) : Shootdown :=
    if d.covers pnum leaf && !d.todo.contains cl && !d.waitsCtx.contains (k, leaf.vpn) then
      { d with heldAgain := d.heldAgain ++ [n] }
    else d
  { s with shootdowns := s.shootdowns.map fun (e : Nat × Shootdown) => (e.1, mark e.2) }

/-! ## Misses (R43) -/

/-- A walk serves a requester of a partition, page and access class. -/
def Walk.joinable (w : Walk) (die pnum va : Nat) (write : Bool) : Bool :=
  w.die == die && w.pnum == pnum && w.va / 2 ^ 16 == va / 2 ^ 16 && w.write == write &&
    w.requesters.length < Config.walkRequesters

/-- A miss at a cluster joins an outstanding walk of its die, or waits there for a walker (R43). -/
def State.askWalk (s : State) (r : Requester) (cl pnum va : Nat) (write : Bool) : State :=
  let s := s.countCluster cl 5 1
  match s.walks.findKey fun _ w => w.joinable (cl / 24) pnum va write with
  | some i => ({ s with walks := s.walks.upd i fun w => { w with requesters := w.requesters ++ [r] } }).countCluster cl 5 2
  | none =>
    let w : Walk :=
      { die := cl / 24, cl, pnum, va, write, started := false, base := 0, level := 3, cas := none, requesters := [r] }
    { s with walks := s.walks.put s.fresh w, fresh := s.fresh + 1 }

/-- The miss of a task instruction, which stays in flight. -/
def State.miss (s : State) (k : Nat) (va : Nat) (write probe : Bool) : State :=
  let x := s.ctx k
  (s.askWalk (if probe then .probe k else .ctx k) (clusterOf x.core) (s.pnumOf x) va write).updCtx k fun x =>
    { x with status := .flight (.walk va write) }

/-! ## Translation for what waits in no instruction: engines, operators, exported updates and PREF (R42 to R46) -/

/-- What a translation gives: a leaf, a fault, or neither while a walk is needed. -/
inductive Xlated where
  | leaf (l : Leaf)
  | fault (code : FaultCode) (tval : Word)
  | miss
  deriving DecidableEq, Repr

/-- A walk that a requester waits for serves a page and access class. -/
def Walk.serves (w : Walk) (r : Requester) (pnum va : Nat) (write : Bool) : Bool :=
  w.pnum == pnum && w.va / 2 ^ 16 == va / 2 ^ 16 && w.write == write && w.requesters.contains r

/-- The miss of a requester: it asks for a walk, unless it already waits for one of the page. -/
def State.engineMiss (s : State) (r : Requester) (cache pnum va : Nat) (write : Bool) : State :=
  if s.walks.any fun (e : Nat × Walk) => e.2.serves r pnum va write then s else s.askWalk r (cacheCluster cache) pnum va write

/-- A fault that a walk has returned is the one a requester's access meets. -/
def WalkFault.meets (f : WalkFault) (r : Requester) (va : Nat) (write : Bool) : Bool :=
  f.who == r && f.vpn == va / 2 ^ 16 && f.write == write

/-- The tval with which a walk's fault is raised (R44, R478). -/
def walkTval (code : FaultCode) (reason level va : Nat) : Word := if code = .sramEcc then 0 else xlateTval reason level va

/-- Translation at a cache for a requester: a fault that its walk has returned is taken, and goes. -/
def State.engineTranslate (s : State) (r : Requester) (cache pnum va : Nat) (write : Bool) : Xlated × State :=
  if 2 ^ 56 ≤ va then (.fault .xlateMiss (xlateTval 0 0 va), s)
  else
    match s.walkFaults.find? fun f => f.meets r va write with
    | some f => (.fault f.code (walkTval f.code f.reason f.level va), { s with walkFaults := s.walkFaults.erase f })
    | none =>
      match tlbFind (s.cacheAt cache) pnum va with
      | none => (.miss, s)
      | some l =>
        if write && !leafW l.entry then (.fault .xlatePerm (xlateTval 0 l.level va), s.countCluster (cacheCluster cache) 5 0)
        else if write && !leafD l.entry then (.miss, s)
        else (.leaf { l with write }, s.countCluster (cacheCluster cache) 5 0)

end Sys2Proof.Machine
end

