-- ==== Sys2Proof/Machine/BoxOffice.lean ====
section
/-! DEFINITION. The box office: claims, holdings, free pools, the safety test, grants and slots (R240 to R261, R79, R220). -/

namespace Sys2Proof.Machine

/-! ## Triples (R243) -/

/-- Sum in each resource. -/
def Triple.add (a b : Triple) : Triple := { slots := a.slots + b.slots, banks := a.banks + b.banks, tiles := a.tiles + b.tiles }

/-- Difference in each resource; smaller ones give 0. -/
def Triple.sub (a b : Triple) : Triple := { slots := a.slots - b.slots, banks := a.banks - b.banks, tiles := a.tiles - b.tiles }

/-- Comparison in all three resources (R250). -/
def Triple.le (a b : Triple) : Bool := a.slots ≤ b.slots && a.banks ≤ b.banks && a.tiles ≤ b.tiles

/-- The empty triple. -/
def Triple.zero : Triple := { slots := 0, banks := 0, tiles := 0 }

/-- A claim vector with a coordinate (R244). -/
def Triple.word (t : Triple) (core : Nat) : Nat := t.slots + t.banks * 2 ^ 8 + t.tiles * 2 ^ 16 + core * 2 ^ 32

/-! ## Pools -/

/-- Banks a company holds (R243). -/
def Cluster.banksOf (c : Cluster) (n : Nat) : List Nat :=
  (List.range Config.banksPerCluster).filter fun b => (c.bankAt b).held && (c.bankAt b).company == n

/-- Holdings of a company (R243). -/
def Cluster.holdings (c : Cluster) (n : Nat) : Triple :=
  match c.companies.look n with
  | none => .zero
  | some co => { slots := co.slots.length, banks := (c.banksOf n).length, tiles := co.tiles.length }

/-- Some company holds a slot. -/
def Cluster.slotHeld (c : Cluster) (x : Coord) (i : Nat) : Bool := c.companies.any fun e => e.2.slots.contains (x, i)

/-- Some company holds a macro. -/
def Cluster.macroHeld (c : Cluster) (x : Coord) (i : Nat) : Bool := c.companies.any fun e => e.2.tiles.contains (x, i)

/-- Free slots of a core, lowest first (R246). -/
def Cluster.freeSlots (c : Cluster) (x : Coord) : List Nat := ((List.range 16).drop 1).filter fun i => !c.slotHeld x i

/-- Free macros of a tile core (R246). -/
def Cluster.freeMacros (c : Cluster) (x : Coord) : List Nat :=
  if isTile x then (List.range 4).filter fun i => !c.macroHeld x i else []

/-- Free banks (R246). -/
def Cluster.freeBanks (c : Cluster) : List Nat :=
  (List.range Config.banksPerCluster).filter fun b =>
    let k := c.bankAt b
    !k.held && k.mode == .cache && k.next.isNone

/-- Logical numbers a company may be given: neither held, nor kept in its green room, nor under a DISCARD entry or a retiring map
(R249, R256, R258). -/
def Cluster.freeLogical (c : Cluster) (n : Nat) : List Nat :=
  (List.range 32).filter fun l =>
    !((c.banksOf n).any fun b => (c.bankAt b).lbank == l) && !c.discarded n l &&
      !(match c.companies.look n with
        | none => false
        | some co => co.savedBanks.any fun b => b.lbank == l)

/-- Totals, retiring banks left out (R246). -/
def Cluster.totals (c : Cluster) : Triple :=
  { slots := Config.slotsPerCluster, tiles := Config.macrosPerCluster,
    banks := ((List.range Config.banksPerCluster).filter fun b => (c.bankAt b).mode != .retiring).length }

/-! ## The test (R250) -/

/-- One pass over the companies that are not finished: what is left and the pool. -/
def safePass (l : List (Triple × Triple)) (w : Triple) : List (Triple × Triple) × Triple :=
  match l with
  | [] => ([], w)
  | (claim, hold) :: r =>
    if (claim.sub hold).le w then safePass r (w.add hold)
    else
      let (l, w) := safePass r w
      ((claim, hold) :: l, w)

/-- Passes until no company is left, at most one for each. -/
def safeRun (fuel : Nat) (l : List (Triple × Triple)) (w : Triple) : Bool :=
  match fuel with
  | 0 => l.isEmpty
  | n + 1 =>
    let (l', w') := safePass l w
    l'.isEmpty || safeRun n l' w'

/-- Every company could finish, given claims and holdings by company. -/
def Cluster.safe (c : Cluster) (claims : Nat → Triple) (holds : Nat → Triple) : Bool :=
  let l := c.companies.keys.map fun i => (claims i, holds i)
  let held := l.foldl (fun (a : Triple) e => a.add e.2) .zero
  safeRun 16 l (c.totals.sub held)

/-- The answer of the test. -/
inductive BoxAns where
  | granted | notSafe | unavailable | exceeded
  deriving DecidableEq, Repr

/-- BoxCheck of R250; an implicit request beyond the claim is UNAVAILABLE (R254). -/
def Cluster.boxCheck (c : Cluster) (n : Nat) (q : Triple) (x : Coord) (implicit : Bool) : BoxAns :=
  match c.companies.look n with
  | none => .unavailable
  | some co =>
    let h := (c.holdings n).add q
    if !h.le co.claim then (if implicit then .unavailable else .exceeded)
    else if (c.freeSlots x).length < q.slots || (c.freeMacros x).length < q.tiles || c.freeBanks.length < q.banks then .unavailable
    else if (c.freeLogical n).length < q.banks then .unavailable
    else if c.safe (fun i => ((c.companies.look i).map Company.claim).getD .zero) (fun i => if i = n then h else c.holdings i) then
      .granted
    else .notSafe

/-- Counts a decision (R482). -/
def State.countBox (s : State) (cl : Nat) (a : BoxAns) : State :=
  match a with
  | .granted => s.countCluster cl 11 0
  | .notSafe => s.countCluster cl 11 1
  | .unavailable => s.countCluster cl 11 2
  | .exceeded => s

/-- What a grant gives (R248). -/
structure Grant where
  slot : Nat
  tiles : BitVec 4
  lbanks : BitVec 32
  deriving DecidableEq, Repr

/-- A mask of the numbers of a list. -/
def maskOf (w : Nat) (l : List Nat) : BitVec w := l.foldl (fun (m : BitVec w) i => m ||| (1#w <<< i)) 0

/-- Moves the resources of a granted request into the company's holdings; each bank starts its switch (R249, R251). -/
def State.boxGrant (s : State) (cl n : Nat) (q : Triple) (x : Coord) (mode : BankMode) : Grant × State :=
  let c := s.clusterAt cl
  let slots := (c.freeSlots x).take q.slots
  let tiles := (c.freeMacros x).take q.tiles
  let banks := c.freeBanks.take q.banks
  let logical := (c.freeLogical n).take q.banks
  let s := s.updCompany cl n fun co =>
    { co with slots := co.slots ++ slots.map fun i => (x, i), tiles := co.tiles ++ tiles.map fun i => (x, i) }
  let s := (banks.zip logical).foldl (fun (s : State) e => s.updCluster cl fun c => c.updBank e.1 fun k =>
    { k with next := some mode, held := true, company := n, lbank := e.2 }) s
  let s := tiles.foldl (fun (s : State) i => s.updCore x fun k =>
    { k with tile := { k.tile with b := k.tile.b.put i TileB.granted } }) s
  ({ slot := (slots.head?).getD 0, tiles := maskOf 4 tiles, lbanks := maskOf 32 logical }, s)

/-! ## Slots -/

/-- A request still waits to be decided, or to be granted (R252, R260). -/
def BoxPhase.undecided (p : BoxPhase) : Bool :=
  match p with
  | .fresh => true
  | .refused _ => true
  | _ => false

/-- The command processor has taken the slot of a suspended task for others (R258). -/
def State.away (s : State) (x : Ctx) : Bool :=
  x.saved &&
    (match s.company? (clusterOf x.core) x.company.toNat with
     | none => false
     | some co => co.savedSlots.contains (x.core, x.slot.val))

/-- A context holds a slot of a core, on it or on the way to it; a slot granted to a waiting request is spoken for. -/
def State.slotBusy (s : State) (x : Coord) (i : Nat) : Bool :=
  (s.ctxs.any fun e => e.2.task && e.2.core == x && e.2.slot.val == i && !s.away e.2) ||
    (s.pkts.any fun e => match e.2 with
      | .spawn child core => core == x && child.slot.val == i
      | _ => false) ||
    ((s.clusterAt (clusterOf x)).reqs.any fun r => match r.want, r.phase with
      | .slot core, .granted slot _ _ => core == x && slot == i
      | .anySlot .., .placed core slot => core == x && slot == i
      | _, _ => false)

/-- The lowest free slot that a company holds on a core (R79, R220). -/
def State.heldSlot (s : State) (cl n : Nat) (x : Coord) : Option Nat :=
  match s.company? cl n with
  | none => none
  | some co => ((List.range 16).drop 1).find? fun i => co.slots.contains (x, i) && !s.slotBusy x i

/-- The company of a task's group in a cluster (R240, R242). -/
def State.groupCompany? (s : State) (x : Ctx) (cl : Nat) : Option Company :=
  match s.company? cl x.company.toNat with
  | none => none
  | some co => if co.pnum = gtidPnum x.gtid ∧ co.launch = gtidLaunch x.gtid then some co else none

/-- A slot on a core for a company: a free held one, or one the box office admits at once (R79, R254). -/
def State.admitSlot (s : State) (cl n : Nat) (x : Coord) : BoxAns × Option Nat × State :=
  match s.heldSlot cl n x with
  | some i => (.granted, some i, s)
  | none =>
    let a := (s.clusterAt cl).boxCheck n { Triple.zero with slots := 1 } x true
    let s := s.countBox cl a
    if a = .granted then
      let (g, s) := s.boxGrant cl n { Triple.zero with slots := 1 } x .cache
      (a, some g.slot, s)
    else (a, none, s)

/-- The cores of a cluster in local index order, cyclically from a local position (R79). -/
def coresFrom (cl j : Nat) : List Coord :=
  let l := clusterCores cl
  l.drop j ++ l.take j

/-- The first core of a list on which a company gets a slot; a refusal of them all is one decision. -/
def State.slotAmong (s : State) (cl n : Nat) (l : List Coord) (a : BoxAns) : BoxAns × Option (Coord × Nat) × State :=
  match l with
  | [] => (a, none, s.countBox cl a)
  | x :: r =>
    match s.admitSlot cl n x with
    | (b, some i, s') => (b, some (x, i), s')
    | (b, none, _) => s.slotAmong cl n r (if b = .notSafe then b else a)

/-- The slot that a request for one on any of a list of cores gets. -/
def State.firstSlot (s : State) (cl n : Nat) (l : List Coord) : Option (Coord × Nat) × State :=
  (s.slotAmong cl n l .unavailable).2

/-! ## Migration (R77 to R80, R223 to R227) -/

/-- Some general register holds a pending handle. -/
def Ctx.pendingHandle (x : Ctx) : Bool := x.ft.toList.any fun t => t == 1

/-- A task has an access held under write-block (R102). -/
def State.holdsAccess (s : State) (k : Nat) : Bool := s.held.any fun h => h.2.key == k

/-- A task may migrate, once its slot holds no asynchronous record (R223). -/
def State.mayMigrate (s : State) (k : Nat) : Bool :=
  let x := s.ctx k
  x.task && !x.pinned && !x.pendingHandle && !s.holdsAccess k

/-- The context packet leaves for a slot; the migration decisions that the instruction to come has made stay made (R77, R78, R224). -/
def State.depart (s : State) (k : Nat) (core : Coord) (slot : Nat) : State :=
  let x := s.ctx k
  ((s.countCore x.core 4 1).setCtx k
    { x.settle with core, slot := Fin.ofNat 16 slot, status := .transit x.core, streak := none, streaked := x.streaked, fetched := [],
                    arriving := true }).redecide
    (clusterOf x.core)

end Sys2Proof.Machine
end

