-- ==== Sys2Proof/Machine/Ops.lean ====
section
/-! DEFINITION. What every instruction shares: it either completes, or leaves the state it started in but for what the rule that
stopped it says. Faults, waits, completion, taking a trap and returning from one (R216, R231, R269, R273, R304, R307, R326, R327,
R456, R458, R459). -/

namespace Sys2Proof.Machine

/-- An instruction at work: it completes with a state, or stops with what becomes of the state in which it issued. -/
abbrev M := StateT State (Except (State → State))

/-- The outcome of an instruction. -/
def runM (m : M Unit) (s : State) : State :=
  match m.run s with
  | .ok (_, s') => s'
  | .error enter => enter s

/-- The executing context. -/
def me : M Ctx := do
  let s ← get
  return s.ctx s.cur

/-- Changes the executing context. -/
def setMe (f : Ctx → Ctx) : M Unit := modify fun s => s.updCtx s.cur f

/-- The executing context's core. -/
def myCore : M Core := do
  let s ← get
  return s.coreAt (s.ctx s.cur).core

/-- Changes the executing context's core. -/
def setCore (f : Core → Core) : M Unit := modify fun s => s.updCore (s.ctx s.cur).core f

/-- Stops without completing. -/
def stop {α : Type} (enter : State → State) : M α := throw enter

/-- The executing context takes a precise fault at its own program counter, with no effect of the instruction (R456, R460). -/
def State.faultHere (s : State) (code : FaultCode) (tval : Word) : State :=
  s.takeFault s.cur (trapAt code tval (s.ctx s.cur).pc)

/-- Raises a precise fault. -/
def fault {α : Type} (code : FaultCode) (tval : Word) : M α := stop fun s => s.faultHere code tval

/-- First cycle in which the slot of an instruction that ends now may issue again (R216). -/
def Ctx.readyNext (x : Ctx) (cycle : Nat) : Nat :=
  match x.status with
  | .idle => cycle + 8
  | _ => cycle + 1

/-- An instruction that has not ended keeps what stood when it issued: the LUT4 table, and what was enqueued (R121, R255). -/
def Ctx.keepIssue (x : Ctx) (s : State) : Ctx :=
  { x with lut := some (x.lut.getD (s.coreAt x.core).lut), since := some (x.since.getD s.fresh) }

/-- The executing context's instruction waits (R231). -/
def State.enterWait (s : State) (w : WaitOn) : State := s.updCtx s.cur fun x => { x.keepIssue s with status := .waiting w }

/-- Waits: nothing has been taken (R232). -/
def waitOn {α : Type} (w : WaitOn) : M α := stop fun s => s.enterWait w

/-- The executing context's instruction stays in flight (R216). -/
def State.enterFlight (s : State) (f : Flight) : State :=
  s.updCtx s.cur fun x => { x.keepIssue s with status := .flight f }

/-- Stays in flight. -/
def flight {α : Type} (f : Flight) : M α := stop fun s => s.enterFlight f

/-- The instruction ends: its slot is ready from the next cycle on, and passes a turn under a yield hint (R216, R218). -/
def State.finish (s : State) (h : Hdr) : State :=
  s.updCtx s.cur fun x =>
    { x.settle with status := .idle, readyAt := x.readyNext s.cycle, yielded := x.yielded || h.issue == .yieldAfter }

/-- The PC of the executing instruction; the context already holds the next one (R264). -/
def here : M Pc := do return (← me).pc - 1

/-- Transfers control (R264, R323). -/
def jump (t : Pc) : M Unit := setMe fun x => { x with pc := t }

/-! ## Extensions, privilege and guards (R227, R269, R273, R287) -/

/-- A core has an extension (R287). -/
def hasExt (c : Coord) (e : Ext) : Bool :=
  match e with
  | .base => true
  | .v => true
  | .t => isTile c
  | .x => !isTile c

/-- Code of an extension in the tval of EXT_ABSENT (R270). -/
def extCode (e : Ext) : Nat := if e = .t then 2 else 3

/-! ## Requests for slots (R79, R227, R251 to R254) -/

/-- The executing context's request in a cluster for a want. -/
def State.myReq (s : State) (cl : Nat) (w : BoxWant) : Option BoxReq :=
  (s.clusterAt cl).reqs.find? fun r => r.key == s.cur && r.want == w

/-- Requests that arrived earlier are to be decided first (R251, R253). -/
def State.boxBusy (s : State) (cl : Nat) : Bool :=
  (s.clusterAt cl).reqs.any fun r => r.redecide || r.phase == .fresh

/-- A new request at a box office. -/
def State.addReq (s : State) (cl company : Nat) (want : BoxWant) (waits : Bool) (phase : BoxPhase) : State :=
  let r : BoxReq := { key := s.cur, company, want, waits, phase, redecide := false }
  s.updCluster cl fun c => { c with reqs := c.reqs ++ [r] }

/-- A request that the agenda sends on its way is decided by an event of its own. -/
def State.detoured (s : State) : Bool := s.detours.contains s.cur

/-- The wait of a request: an architectural one only for the forms that wait (R231, R252). -/
def reqWait (waits : Bool) : WaitOn := if waits then .box else .engine

/-- Takes the executing context's requests off a cluster's list. -/
def State.dropReqs (s : State) (cl : Nat) : State :=
  s.updCluster cl fun c => { c with reqs := c.reqs.filter fun r => r.key != s.cur || r.want == .resume }

/-- The cores of a cluster that have an extension, cyclically from a local position (R79, R227). -/
def slotCores (cl first : Nat) (e : Ext) : List Coord := (coresFrom cl first).filter fun c => hasExt c e

/-- A slot of a cluster for a migration of the executing task, on the first core, cyclically from its local position, that has an
extension and on which one is free or admitted; none where it is refused. A request that finds others before it waits its turn. -/
def placeSlot (cl first : Nat) (e : Ext) (waits : Bool) (keep : State → State) : M (Option (Coord × Nat)) := do
  let s ← get
  let n := (← me).company.toNat
  let l := slotCores cl first e
  match s.myReq cl (.anySlot first e) with
  | some r =>
    match r.phase with
    | .placed core slot =>
      modify fun s => s.dropReqs cl
      return some (core, slot)
    | .done _ =>
      modify fun s => s.dropReqs cl
      return none
    | _ => stop fun s => (keep s).enterWait (reqWait waits)
  | none =>
    match l.head?.bind fun c => (s.heldSlot cl n c).map fun i => (c, i) with
    | some e => return some e
    | none =>
      if s.boxBusy cl then stop fun s => ((keep s).addReq cl n (.anySlot first e) waits .fresh).enterWait (reqWait waits)
      else
        match s.firstSlot cl n l with
        | (some e, s') =>
          set s'
          return some e
        | (none, s') =>
          if waits then
            stop fun s => (((keep s).firstSlot cl n l).2.addReq cl n (.anySlot first e) true (.refused false)).enterWait .box
          else
            set s'
            return none

/-- The executing task leaves for a slot before its instruction acts, with this many of its migration decisions made (R77, R224). -/
def migrate {α : Type} (core : Coord) (slot streaked : Nat) : M α := do
  let t ← get
  stop fun s => (t.setCtx s.cur { s.ctx s.cur with streaked }).depart s.cur core slot

/-- The instruction does not issue yet: its task first takes its ASYNC traps at the boundary, and then issues it again (R223). -/
def atBoundary {α : Type} : M α := stop fun s => (s.withdraw s.cur).updCtx s.cur fun x => { x.settle with status := .idle }

/-- What becomes of a roaming task whose core lacks the extension of its instruction: it waits for its handles and its held accesses,
then moves within its cluster, or waits on the box office (R223, R227). DESIGN CHOICE (log entry 136): with an access held under write-block,
which refuses it a migration, it waits until the access has performed. -/
def extMove (e : Ext) : M Unit := do
  let s ← get
  let x ← me
  if x.pendingHandle then waitOn .future
  else if s.holdsAccess s.cur then waitOn .engine
  else if !x.asyncs.isEmpty then atBoundary
  else
    match ← placeSlot (clusterOf x.core) (localIndex x.core) e true id with
    | some (c, i) => migrate c i 0
    | none => waitOn .box

/-- Step 3 of R269. -/
def checkExt (e : Ext) (opc : BitVec 12) : M Unit := do
  let x ← me
  if hasExt x.core e then pure ()
  else if x.pinned then fault .extAbsent (BitVec.ofNat 64 (opc.toNat + extCode e * 2 ^ 12))
  else extMove e

/-- Step 5 of R269: PRIV (R270, R283). -/
def checkPriv (i : Instr) (opc : BitVec 12) : M Unit := do
  let x ← me
  if x.task then
    match i with
    | .tret _ => fault .priv (opc.setWidth 64)
    | .ovret _ => fault .priv (opc.setWidth 64)
    | .gets f => trapReg f.a
    | .sets f => trapReg f.d
    | _ => pure ()
where
  /-- A task names %cause, %epc or %tval. -/
  trapReg (o : Operand) : M Unit :=
    match o with
    | .s r => if r = .cause ∨ r = .epc ∨ r = .tval then
        fault .priv (BitVec.ofNat 64 (opc.toNat + (sregIndex r).val * 2 ^ 12)) else pure ()
    | _ => pure ()

/-- A predicate; p7 reads as all ones (R273, R282). -/
def Ctx.pred (x : Ctx) (r : Fin 8) : Word :=
  match Nat.decLt r.val 7 with
  | isTrue h => x.p[r.val]'h
  | isFalse _ => 0xFFFFFFFFFFFFFFFF

/-- The guard holds (R273). -/
def Ctx.guard (x : Ctx) (h : Hdr) : Bool := (x.pred h.gpred).getLsbD 0 != h.gsense

/-- An access, or an operation that is ordered like one, waits for held stores of its task: a release for each, another for those that a FENCE
or their own `.ar` orders before it (R101, R182 to R184). -/
def waitHeld (release : Bool) : M Unit := do
  let s ← get
  if s.held.any fun h => h.2.key == s.cur && (release || h.2.fence) then flight (.home false)

/-- The parts of a future operand that an observation merges: an acquire (R184, R192, R201, R339). -/
def observe (r : Fin 16) : M Unit := do
  let x ← me
  match x.fut.look r.val with
  | none => pure ()
  | some k =>
    waitHeld false
    setMe fun x => x.merge k

/-- FUT_FAULT of a read of a register: the observation's merge takes effect first (R339). -/
def State.futFault (s : State) (r : Fin 16) : State :=
  let s := match (s.ctx s.cur).fut.look r.val with
    | none => s
    | some k => s.updCtx s.cur fun x => x.merge k
  s.faultHere .futFault (((s.ctx s.cur).g[r]).setWidth 64)

/-- A register named by an instruction holds a pending handle (R304). -/
def waitHandle (o : Operand) : M Unit := do
  let x ← me
  match o with
  | .g r _ => if x.ft[r] = 1 then waitOn .future
  | .m r _ _ => if x.ft[r] = 1 then waitOn .future
  | _ => pure ()

/-- A read of a register observes a resolved future, or faults FUT_FAULT (R192, R339). -/
def readFuture (r : Fin 16) : M Unit := do
  let x ← me
  observe r
  if x.ft[r] = 2 ∨ x.ft[r] = 3 then stop fun s => s.futFault r

/-- The field classes of an instruction that read their register (R303). -/
def readFutures (o : Operand) : M Unit :=
  match o with
  | .g r _ => readFuture r
  | .m r _ _ => readFuture r
  | _ => pure ()

/-- Entries whose handle operand is read under their own rules (R339, R364, R368). -/
def handleField (i : Instr) : Option (Fin 3) :=
  match i with
  | .fwait _ => some 1
  | .ftest _ => some 1
  | .fcancel _ => some 1
  | .fexport _ => some 1
  | _ => none

/-- Entries that read field D as a source when it is a register (R303). -/
def readsD (i : Instr) : Bool :=
  match i with
  | .madd _ => true
  | .movh _ => true
  | .bfi _ => true
  | .sel _ => true
  | .loop _ => true
  | .acas _ => true
  | .vfma _ => true
  | .vsel _ => true
  | .vins _ => true
  | .vdot _ => true
  | .vcvt _ => true
  | .vqnt _ => true
  | _ => false

/-- Waits of R304 and observations of R339 for the registers an instruction names. -/
def settleFutures (i : Instr) (f : Fields) : M Unit := do
  if (handleField i) != some 1 then waitHandle f.a
  waitHandle f.d
  waitHandle f.b
  if (handleField i) != some 1 then readFutures f.a
  readFutures f.b
  match f.d with
  | .m r _ _ => readFuture r
  | .g r _ => if readsD i then readFuture r
  | _ => pure ()

/-! ## Trap service (R327, R456, R458, R459) -/

/-- The word of %cause at entry (R458). -/
def TrapRec.cause (t : TrapRec) (slot : Nat) : Word :=
  BitVec.ofNat 64 (t.code.num + t.inner * 2 ^ 8 + slot * 2 ^ 18 + (if t.role then 2 ^ 22 else 0) + t.olnch * 2 ^ 24 +
    t.oindex * 2 ^ 42)

/-- The tval of an OVERLAY trap: the PC and the task's image id (R225, R265). -/
def overlayTval (pc : Pc) (img : BitVec 16) : Word := BitVec.ofNat 64 (pc.toNat + img.toNat * 2 ^ 48)

/-- The control context enters for a trapped task: at PC 0, or at %ovl for an OVERLAY fault (R456, R458). -/
def State.enterService (s : State) (core : Coord) (k : Nat) : State :=
  let x := s.ctx k
  match x.status with
  | .trapped t _ =>
    let s := s.setCtx k { x with status := .trapped t true }
    let s := s.updCore core fun c =>
      { c with traps := c.traps.filter (· != k), serving := some k, active := true, cause := t.cause x.slot.val, epc := t.epc.setWidth 64,
               tval := t.tval }
    let pc : Pc := if t.code = .overlay then (s.coreAt core).ovl.setWidth 32 else 0
    s.updCtx core.toNat fun y =>
      { y.settle with core, pc, status := .idle, fetched := [], readyAt := s.cycle, yielded := false, fmt := x.fmt,
                      xb := (s.coreAt core).xb }
  | _ => s

/-- The next trapped task on a core that may be served: not suspended (R456, R465). -/
def State.nextTrap (s : State) (core : Coord) : Option Nat :=
  (s.coreAt core).traps.find? fun k => !(s.ctx k).suspended

/-- Service ends; the trap registers, and the %fmt of a trapped task, read as zero until the next entry (R283, R458). -/
def State.endService (s : State) (core : Coord) : State :=
  (s.updCore core fun c => { c with serving := none, active := false, cause := 0, epc := 0, tval := 0 }).updCtx core.toNat fun y =>
    { y with fmt := 0 }

/-- The trapped task is ready at %epc, and fetches there under the core's execute boundary (R268, R327, R459). The skip of R496 is set
where its stop came from the breakpoint table, and one set before stays set at the same PC. -/
def State.resumeTask (s : State) (k : Nat) (epc : Pc) (skip : Bool) : State :=
  s.updCtx k fun x => { x with status := .idle, pc := epc, fetched := [], skipBp := skip || (x.skipBp && x.pc == epc),
                               xb := (s.coreAt x.core).xb, readyAt := s.cycle + 1 }

end Sys2Proof.Machine
end

