-- ==== Sys2Proof/Machine/Access.lean ====
section
/-! DEFINITION. Accesses of tasks to the spaces `.g`, `.s` and `.l` (R57 to R62, R71 to R92, R100 to R102, R177 to R188, R196 to R206,
R280, R336 to R338, R344). -/

namespace Sys2Proof.Machine

/-- An M operand (R280, R336). -/
structure Target where
  space : Space
  addr : Nat
  scope : BitVec 32
  base : Vec
  deriving DecidableEq, Repr

/-- Reads an M operand for accesses of n bytes (R280). -/
def mOperand (f : Fields) (o : Operand) (n : Nat) : M Target := do
  let x ← me
  match o with
  | .m r spc off =>
    let base := x.g[r]
    let addr : Word := base.setWidth 64 + off.signExtend 64 * BitVec.ofNat 64 n
    return { space := mSpace spc f.md.nsp, addr := addr.toNat, scope := base.extractLsb' 64 32, base }
  | _ => return { space := .g, addr := 0, scope := 0, base := 0 }

/-- How an access orders and synchronises (R180, R181). -/
structure How where
  write : Bool
  atomic : Bool
  acquire : Bool
  release : Bool
  na : Bool
  /-- ORD is `.ar`, which orders every later access behind this one. -/
  ar : Bool
  mig : MigHint
  scope : BitVec 32
  deriving DecidableEq, Repr

/-- A synchronising access (R181). -/
def How.sync (h : How) : Bool := h.atomic || h.acquire || h.release

/-- An access of a load, store or atomic with its qualifiers. -/
def howOf (f : Fields) (write atomic : Bool) (scope : BitVec 32) : How :=
  { write, atomic, acquire := (f.md.ord == .acq || f.md.ord == .ar) && (!write || atomic),
    release := (f.md.ord == .rel || f.md.ord == .ar) && write, na := f.md.na, ar := f.md.ord == .ar,
    mig := f.h.mig, scope }

/-- A store or load with `.ar` is synchronising even where only one of its sides forms edges (R181). -/
def syncOf (f : Fields) (atomic : Bool) : Bool := atomic || f.md.ord != .rlx

/-- One part of an access within one line: its place in the data, virtual and physical address, length, and leaf. -/
structure Place where
  off : Nat
  va : Nat
  pa : Nat
  len : Nat
  leaf : Leaf
  deriving DecidableEq, Repr

/-- Cuts bytes at line boundaries: offset in the data, address, length (R89). -/
def linePieces (off addr n : Nat) : List (Nat × Nat × Nat) :=
  if addr % 64 + n ≤ 64 then [(off, addr, n)]
  else [(off, addr, 64 - addr % 64), (off + (64 - addr % 64), addr + (64 - addr % 64), n - (64 - addr % 64))]

/-- Bytes of a list from an offset. -/
def slice (d : List Byte) (off n : Nat) : List Byte := (d.drop off).take n

/-! ## Translation for a task instruction -/

/-- What a stopped instruction's cluster has counted: a cache hit, where its cache has given it a leaf (R482). -/
def countHits : M (State → State) := do
  let x ← me
  return fun s =>
    if (s.ctx s.cur).leaves.length < x.leaves.length then s.countCluster (clusterOf x.core) 5 0 else s

/-- What a stopped access keeps: translations it has been given, its streak, and what has been counted (R46, R77, R90, R482). -/
def keepAccess : M (State → State) := do
  let x ← me
  let hits ← countHits
  return fun s => (hits s).updCtx s.cur fun y =>
    { y with leaves := x.leaves, streak := x.streak, streaked := x.streaked, missed := x.missed }

/-- A precise fault of an access that has translated. -/
def accessFault {α : Type} (code : FaultCode) (tval : Word) : M α := do
  let hits ← countHits
  stop fun s => (hits s).faultHere code tval

/-- The leaf of an address: one that the instruction has been given, one that the cluster's cache holds, or a walk (R40, R42, R43,
R58). -/
def translateVa (va : Nat) (write probe : Bool) : M Leaf := do
  if 2 ^ 56 ≤ va then fault .xlateMiss (xlateTval 0 0 va)
  else
    let s ← get
    let x ← me
    match x.leaves.find? fun l => l.vpn == va / 2 ^ 16 && (!write || l.write) with
    | some l => return l
    | none =>
      let keep ← keepAccess
      match tlbFind (s.clusterAt (clusterOf x.core)).tlb (s.pnumOf x) va with
      | some l =>
        if write && !leafW l.entry then
          let hits ← countHits
          stop fun s => ((hits s).countCluster (clusterOf x.core) 5 0).faultHere .xlatePerm (xlateTval 0 l.level va)
        else if write && !leafD l.entry then stop fun s => (keep s).miss s.cur va write probe
        else
          modify fun s => s.countCluster (clusterOf x.core) 5 0
          let l' := { l with vpn := va / 2 ^ 16, write }
          setMe fun x => { x with leaves := x.leaves ++ [l'] }
          return l'
      | none => stop fun s => (keep s).miss s.cur va write probe

/-- The places of an access, in address order (R89, R90). -/
def placesOf (pieces : List (Nat × Nat × Nat)) (write : Bool) : M (List Place) :=
  pieces.mapM fun p => do
    let leaf ← translateVa p.2.1 write false
    return { off := p.1, va := p.2.1, pa := leafAddr leaf.entry leaf.level p.2.1, len := p.2.2, leaf }

/-- The place of an address under a leaf. -/
def placeUnder (leaf : Leaf) (va : Nat) : Place := { off := 0, va, pa := leafAddr leaf.entry leaf.level va, len := 0, leaf }

/-- PAGE_SPLIT of R91: leaves that differ in W, WB, CNT, TIER, POLICY or PLACE. -/
def leavesDiffer (a b : Word) : Bool := (a ^^^ b).extractLsb' 1 11 != 0

/-- The home cluster of a place. -/
def Place.home (p : Place) : Nat := homeOf p.leaf.entry p.pa p.va

/-- The place has a home (R73). -/
def Place.homed (p : Place) : Bool := !noHome p.leaf.entry

/-- MigrateTo of R79 for the home of a place: the task leaves for its cluster, with the decisions made so far, or goes on where it is. -/
def migrateTo (hc decided : Nat) (keep : State → State) : M Unit := do
  let s ← get
  let x ← me
  if !s.mayMigrate s.cur || (s.groupCompany? x hc).isNone then pure ()
  else if !x.asyncs.isEmpty then atBoundary
  else
    match ← placeSlot hc (localIndex x.core) .base false keep with
    | none => pure ()
    | some (c, i) => migrate c i decided

/-- Streak update and migration decision for one place, the number of its instruction's places that come up to it given (R77). -/
def streakStep (hint : MigHint) (p : Place) (decided : Nat) : M Unit := do
  let x ← me
  let cc := clusterOf x.core
  let go (y : Ctx) : M Unit := do
    let keep ← keepAccess
    setMe fun _ => y
    if !x.pinned then
      migrateTo p.home decided keep
      setMe fun x => { x with streak := none }
  if !x.task || !p.homed || leafPolicy p.leaf.entry = 3 || homeDie p.leaf.entry p.pa p.va ≠ cDie x.core then pure ()
  else if p.home = cc then setMe fun x => { x with streak := none }
  else if leafPolicy p.leaf.entry = 2 || hint = .stay then pure ()
  else if hint = .go then go x
  else
    let k : Streak := match x.streak with
      | some k => if k.cl = p.home then { k with count := k.count + 1 } else { cl := p.home, count := 1 }
      | none => { cl := p.home, count := 1 }
    let x' := { x with streak := some k }
    if k.count = 5 then go x' else setMe fun _ => x'

/-- Streaks of an access: of each place once for its instruction. -/
def streaks (hint : MigHint) (ps : List Place) : M Unit := do
  let x ← me
  (ps.zipIdx.drop x.streaked).forM fun e => do
    streakStep hint e.1 (e.2 + 1)
    setMe fun x => { x with streaked := e.2 + 1 }

/-! ## At the home -/

/-- The line in memory that a held store is bound for under a leaf. -/
def HeldStore.lineIn (h : HeldStore) (l : Leaf) : Nat := leafAddr l.entry l.level h.va / 64

/-- A held store is an operator's of a launch. -/
def HeldStore.ofOpr (h : HeldStore) (k launch : Nat) : Bool :=
  match h.by_ with
  | .opr j l _ => j == k && l == launch
  | _ => false

/-- The lines in memory that a held store is bound for: its page's, and the new page's once it is on its way there. -/
def HeldStore.lines (h : HeldStore) : List Nat := (h.leaf :: h.ready.toList).map h.lineIn

/-- An access of the task to the same line is held, under this address or another that reaches the line (R102). -/
def State.behindHeld (s : State) (k : Nat) (p : Place) : Bool :=
  s.held.any fun h => h.2.key == k && (h.2.va / 64 == p.va / 64 || h.2.lines.contains (p.pa / 64))

/-- Waits on the way to the home: behind a held store, where the agenda sends the access there in flight, and for a line that the
home fills (R85, R102). -/
def reachHomes (h : How) (ps : List Place) : M Unit := do
  let s ← get
  let x ← me
  let keep ← keepAccess
  if ps.any (s.behindHeld s.cur) then stop fun s => (keep s).enterFlight (.home h.write)
  else if s.detours.contains s.cur && !x.arrived then
    stop fun s => let s := { keep s with detours := s.detours.filter (· != s.cur) }
      s.enterFlight (.home h.write)
  else
    match ps.find? fun p => p.homed && !(h.write && leafWb p.leaf.entry) && (s.lineAt p.pa).isNone &&
        s.allocates p.leaf.entry p.home h.na with
    | none => pure ()
    | some p =>
      stop fun s =>
        (((keep s).updCtx s.cur fun x => { x with missed := p.pa / 64 :: x.missed }).countCluster p.home 3 1).enterFlight
          (.fill p.pa p.leaf p.va)

/-- The access as the race detector sees it at a place. -/
def Place.stampAccess (p : Place) (h : How) (sync : Bool) : StampAccess :=
  { mask := byteMask (p.pa % 64) p.len, write := h.write, sync }

/-- The accesses of a place are checked: a task's, to a line in a CACHE bank, not under POLICY 3 (R196). -/
def Place.checked (p : Place) (x : Ctx) : Bool := x.task && p.homed && leafPolicy p.leaf.entry != 3

/-- An address of the local-memory window lies in the code region of its core, which no task reaches there (R265, log entry 102). -/
def State.codeBytes (s : State) (pa : Nat) : Bool :=
  pa % 2 ^ 28 < (s.coreAt (BitVec.ofNat 16 (pa / 2 ^ 28))).xb.toNat * 12

/-- A place without a home refuses an access; `copies` is set for those that reach a code region there: a copy engine's and the command
processor's (R29, R265, R478). -/
def State.windowFault (s : State) (copies : Bool) (pa k : Nat) (level va : Nat) (write : Bool) : Option (FaultCode × Word) :=
  if pa / 2 ^ 44 % 16 = 1 then
    let cl := clusterOf (BitVec.ofNat 16 (pa / 2 ^ 28))
    if ((s.clusterAt cl).bankAt (pa / 2 ^ 16 % 32)).mode != .scratch then some (.xlatePerm, xlateTval 2 level va) else none
  else if !copies && s.codeBytes pa then some (.xlatePerm, xlateTval 2 level va)
  else if !write && s.bad.any (fun b => pa / 8 ≤ b / 8 && b / 8 ≤ (pa + k - 1) / 8) then
    some (.sramEcc, BitVec.ofNat 64 (pa % 2 ^ 28))
  else none

/-- An operation of a copy engine (R342). -/
def EngOp.copies (o : EngOp) : Bool := o.qsel < 4

/-- A place refuses the access of an engine, an operator or the command processor (R29, R478). -/
def State.placeFault (s : State) (copies : Bool) (p : Place) (write : Bool) : Option (FaultCode × Word) :=
  if p.homed then (if s.poisoned p.pa && !(write && p.len == 64) then some (.sramEcc, BitVec.ofNat 64 p.pa) else none)
  else s.windowFault copies p.pa p.len p.leaf.level p.va write

/-- Checks at the homes and targets before anything performs: soft errors, banks of the scratch window, code regions, races (R29, R204,
R206, R265, R478). -/
def checkPlaces (h : How) (sync : Bool) (ps : List Place) : M Unit :=
  ps.forM fun p => do
    let s ← get
    let x ← me
    if p.homed then
      if s.poisoned p.pa then accessFault .sramEcc (BitVec.ofNat 64 p.pa)
      if p.checked x then
        match s.lineAt p.pa with
        | none => pure ()
        | some l =>
          match raceCheck l.stamp (gtidLaunch x.gtid) (gtidTag x.gtid) x.know (p.stampAccess h sync) with
          | none => pure ()
          | some r =>
            let hits ← countHits
            stop fun s =>
              let s := hits s
              let t := { trapAt .mmRace (BitVec.ofNat 64 p.va) (s.ctx s.cur).pc with
                role := r.writer, olnch := r.lnch, oindex := r.tag % 2 ^ 20 }
              (s.countCluster p.home 13 0).takeFault s.cur t
    else
      match s.windowFault false p.pa p.len p.leaf.level p.va h.write with
      | none => pure ()
      | some (c, t) => accessFault c t

/-- Counts an access at its home and whether it was remote (R482). -/
def countPlace (p : Place) : M Unit := do
  let x ← me
  let s ← get
  if p.homed then
    if !x.missed.contains (p.pa / 64) then modify fun s => s.countCluster p.home 3 (if (s.lineAt p.pa).isSome then 0 else 1)
    if p.home ≠ clusterOf x.core then modify fun s => s.countCore x.core 4 0
  else if clusterOf (BitVec.ofNat 16 (p.pa / 2 ^ 28)) ≠ clusterOf x.core then modify fun s => s.countCore x.core 4 0
  let _ := s

/-- Records an access in the stamp of its line (R204). -/
def recordPlace (h : How) (sync : Bool) (p : Place) : M Unit := do
  let x ← me
  if p.checked x then modify fun s => s.stamp p.pa x.stamper (p.stampAccess h sync)

/-- Bytes at a place. -/
def State.placeBytes (s : State) (p : Place) : List Byte :=
  if p.homed then s.homeBytes p.home p.pa p.len else s.tierBytes p.pa p.len

/-- Writes bytes at a place. -/
def State.placeWrite (s : State) (p : Place) (d : List Byte) : State :=
  if p.homed then s.homeWrite p.home p.pa d else (s.setTier p.pa d).clearBad p.pa d.length

/-! ## Edges (R182, R199 to R203) -/

/-- A release at a line: into its record at a cluster, and %rc counts it once for the instruction. -/
def State.releaseAt (s : State) (cl : Nat) (key : RelKey) (pnum : Nat) (k : Carried) (scope : BitVec 32) (home : Coord)
    (cell : Option Nat := none) : State :=
  let c := s.clusterAt cl
  let c' := c.release key pnum k scope home cell
  let s := s.setCluster cl c'
  if c'.recDropped && c'.records.length = Config.releaseRecords && c.records.length = Config.releaseRecords &&
      c.records.head? != c'.records.head? then s.countCluster cl 13 2 else s

/-- Release to a list of lines, or on a future cell of one. -/
def releaseLines (h : How) (keys : List (Nat × RelKey)) (cell : Option Nat := none) : M Unit := do
  let x ← me
  if h.release && x.task then
    keys.forM fun e => modify fun s => s.releaseAt e.1 e.2 (gtidPnum x.gtid) x.carried h.scope x.home cell
    setMe Ctx.bump

/-- Acquire of a line, of whose cells it reads these state words. -/
def acquireLine (h : How) (key : Nat × RelKey) (cells : List Nat) : M Unit := do
  let x ← me
  if h.acquire && x.task then
    let s ← get
    setMe fun x => x.acquire (s.clusterAt key.1) key.2 h.scope cells

/-- Acquire of a list of lines that hold no future cells (R363). -/
def acquireLines (h : How) (keys : List (Nat × RelKey)) : M Unit := keys.forM fun e => acquireLine h e []

/-- Cluster and key of the release record of a place. DESIGN CHOICE (log entry 125): that of a line without a home, in class 0xE, stands in the
table of the cluster that holds its target (R203 names the home's). -/
def Place.key (p : Place) : Nat × RelKey :=
  (if p.homed then p.home else clusterOf (BitVec.ofNat 16 (p.pa / 2 ^ 28)), .g (p.pa / 64))

/-- Acquire of places of `.g`. -/
def acquirePlaces (h : How) (ps : List Place) : M Unit := ps.forM fun p => acquireLine h p.key (stateWords (p.pa % 64) p.len)

/-! ## Replay (R503 to R506) -/

/-- An event of the executing task that a recording logs and a replay orders: its type, die, ARG and VALUE. -/
def logPoint (ty die arg value : Nat) : M (Option Nat) := do
  let s ← get
  let x ← me
  let number := gtidLaunch x.gtid
  let pnum := gtidPnum x.gtid
  if !x.task || s.modeOf pnum number = 0 then return none
  else
    let e : LogEvent :=
      { ty, die, gtid := x.gtid, digest := crc64 (x.digestBytes (x.pc - 1)), coord := x.core, arg, value }
    match s.logged pnum number e with
    | (.go v, s') =>
      set s'
      return v
    | (.wait, _) => waitOn .engine
    | (.diverge i, s') => stop fun s => { s with unclaimed := s'.unclaimed }.diverge pnum number e i

/-- A synchronising access at a place with a home or a window (R503). -/
def logPlace (sync : Bool) (p : Place) : M Unit := do
  if sync then
    let _ ← logPoint 5 (if p.homed then p.home / 24 else cDie (BitVec.ofNat 16 (p.pa / 2 ^ 28))) 0 (p.pa / 64 % 2 ^ 46)

/-- A synchronising access or barrier operation in scratch (R503). -/
def logScratch (cl company addr : Nat) : M Unit := do
  let (lb, off) := scratchAt addr
  let _ ← logPoint 5 (cl / 24) 0
    (2 ^ 63 + company + lb * 2 ^ 4 + off / 64 * 2 ^ 9 + (clusterCoord cl).toNat * 2 ^ 19)
where
  /-- Logical bank and offset of a `.s` address. -/
  scratchAt (addr : Nat) : Nat × Nat := (addr / 2 ^ 16 % 32, addr % 2 ^ 16)

/-- VALUE of a counter (places 0 to 15) or a line (from 16 on) of a core's local memory: a free value, but that no two locations, and no
line of `.g`, share one (R503, R505, log entry 17). -/
def localValue (core : Coord) (place : Nat) : Nat :=
  let code := core.toNat * 2048 + place
  let high := (Config.logLocation code).toNat
  let high := if high < 2 ^ 19 then high + 2 ^ 19 else high
  high * 2 ^ 27 + (code ^^^ (Config.logMask high).toNat)

/-- A mailbox operation, or a synchronising access in local memory (R503). -/
def logLocal (core : Coord) (place : Nat) : M Unit := do
  let _ ← logPoint 5 (cDie core) 0 (localValue core place)

/-! ## Performing `.g` accesses -/

/-- The places of a `.g` access, each ready to perform. `split` asks for the check of R91. -/
def gReady (h : How) (sync split : Bool) (addr : Nat) (pieces : List (Nat × Nat × Nat)) : M (List Place) := do
  let ps ← placesOf pieces h.write
  match ps with
  | [a, b] =>
    if split && a.va / 2 ^ 16 ≠ b.va / 2 ^ 16 && leavesDiffer a.leaf.entry b.leaf.entry then
      accessFault .pageSplit (BitVec.ofNat 64 addr)
  | _ => pure ()
  streaks h.mig ps
  reachHomes h ps
  checkPlaces h sync ps
  return ps

/-- A read of `.g` bytes. -/
def gRead (h : How) (sync split : Bool) (addr : Nat) (pieces : List (Nat × Nat × Nat)) : M (List Byte) := do
  let ps ← gReady h sync split addr pieces
  ps.forM (logPlace sync)
  ps.forM countPlace
  ps.forM (recordPlace h sync)
  let s ← get
  acquirePlaces h ps
  return ps.flatMap s.placeBytes

/-- A store is held under write-block at the home of its line, its leaf given by a translation cache (R101). One that no task made has its own
number as its key. -/
def State.hold (s : State) (cache : Nat) (h : HeldStore) : State :=
  let n := s.fresh
  let h := if h.by_ = .ctx then h else { h with key := n }
  (({ s with held := s.held.put n h, fresh := n + 1 } : State).newlyHeld n h.key cache h.pnum h.leaf).countCluster h.home 3 5

/-- A store of a task held under write-block (R101, R185). -/
def holdStore (h : How) (sync : Bool) (d : List Byte) (p : Place) : M Unit := do
  let x ← me
  let rel := if h.release && x.task then some (x.carried, h.scope, x.home) else none
  modify fun s =>
    let hs : HeldStore :=
      { by_ := .ctx, key := s.cur, gtid := x.gtid, pnum := s.pnumOf x, cl := clusterOf x.core, core := x.core, homeCl := clusterOf x.home,
        company := x.company.toNat, walking := none, ready := none,
        digest := if s.modeOf (gtidPnum x.gtid) (gtidLaunch x.gtid) = 0 then 0 else crc64 (x.digestBytes (x.pc - 1)),
        home := p.home, va := p.va, leaf := p.leaf, data := slice d p.off p.len, na := h.na,
        stamper := if x.task then some x.stamper else none, sync, fence := h.ar, release := rel }
    s.hold hs.cl hs

/-- A write of `.g` bytes: performed at its homes, or held there under write-block (R101, R185). DESIGN CHOICE (log entry 116): the two
parts of an access that crosses a line perform in one step, in the order of their addresses, so no access of another agent comes between them. -/
def gWrite (h : How) (sync split : Bool) (addr : Nat) (d : List Byte) : M Unit := do
  let ps ← gReady h sync split addr (linePieces 0 addr d.length)
  let held := ps.any fun p => leafWb p.leaf.entry
  if !held then ps.forM (logPlace sync)
  ps.forM countPlace
  ps.forM (recordPlace h sync)
  let x ← me
  if held then
    ps.forM (holdStore h sync d)
    if h.release && x.task then setMe Ctx.bump
  else
    ps.forM fun p => modify fun s => s.placeWrite p (slice d p.off p.len)
    releaseLines h (ps.map Place.key)

/-- What an atomic gives that never performed (R101). -/
def lostAtomic (n : Nat) : M (List Byte) := do
  let s ← get
  set { s with fresh := s.fresh + 1 }
  return (List.range n).map (Config.lostAtomic s.fresh)

/-- The atomic in flight was held under write-block and its new translation has faulted: it never performs (R101, log entry 101). -/
def atomicLost : M Bool := do return (← me).probed.isSome

/-- An atomic on `.g` bytes, or a cell operation: one step at its home or target; under write-block it stays in flight (R101, R347, R348,
R366). -/
def gAtomic (h : How) (addr n : Nat) (f : List Byte → Option (List Byte)) (cell : Bool := false) : M (List Byte) := do
  if ← atomicLost then return ← lostAtomic n
  let ps ← gReady h true false addr [(0, addr, n)]
  match ps with
  | [p] =>
    let keep ← keepAccess
    if leafWb p.leaf.entry then
      stop fun s =>
        let s := keep s
        let x := s.ctx s.cur
        (s.newlyHeld s.cur s.cur (clusterOf x.core) (s.pnumOf x) p.leaf).enterFlight (.held p.leaf p.va)
    else
      logPlace true p
      countPlace p
      recordPlace h true p
      let s ← get
      let old := s.placeBytes p
      acquirePlaces h [p]
      match f old with
      | none => pure ()
      | some d => modify fun s => s.placeWrite p d
      releaseLines h [p.key] (if cell then some (p.pa % 64 / 16) else none)
      return old
  | _ => return []

/-! ## `.l` and `.s` (R59, R61, R62, R337, R338) -/

/-- A `.l` access lies in the data region of the core (R59). -/
def Core.localOk (c : Core) (addr n : Nat) : Bool := c.xb.toNat * 12 ≤ addr && addr + n ≤ Config.localBytes

/-- XLATE_PERM of a space check (R59, R61). -/
def spaceFault {α : Type} (addr : Nat) : M α := fault .xlatePerm (xlateTval 2 0 addr)

/-- The `.l` bytes of an access: its physical address and record keys. -/
def lReady (write : Bool) (addr n : Nat) : M (Nat × List (Nat × RelKey)) := do
  let x ← me
  let s ← get
  if !(s.coreAt x.core).localOk addr n then spaceFault addr
  else
    let pa := localPa x.core addr
    if !write && s.bad.any (fun b => pa / 8 ≤ b / 8 && b / 8 ≤ (pa + n - 1) / 8) then fault .sramEcc (BitVec.ofNat 64 addr)
    modify fun s => s.countCore x.core 2 0
    return (pa, (linePieces 0 addr n).map fun p => (clusterOf x.core, RelKey.l x.core.toNat (p.2.1 / 64)))

/-- The company whose scratch an access reaches: cluster and company number; none is another package's (R337). -/
def sCompany (t : Target) (atomic : Bool) : M (Option (Nat × Nat)) := do
  let x ← me
  let s ← get
  if !t.base.getLsbD 125 then
    if x.task then return some (clusterOf x.home, x.company.toNat) else return some (clusterOf x.core, 16)
  else
    let core : Coord := t.base.extractLsb' 96 16
    let pkg := (t.base.extractLsb' 112 12).toNat
    if !coordValid core then fault .scope (core.setWidth 64)
    else if t.base.getLsbD 124 then
      if atomic then return none else fault .scope (BitVec.ofNat 64 (core.toNat + pkg * 2 ^ 16))
    else if !(s.part (s.pnumOf x)).pitch.getLsbD (clusterOf core) then fault .scope (core.setWidth 64)
    else
      match s.company? (clusterOf core) x.company.toNat with
      | none => spaceFault t.addr
      | some _ => return some (clusterOf core, x.company.toNat)

/-- A logical bank and offset within it, of a `.s` address. -/
def scratchOf (addr : Nat) : Nat × Nat := (addr / 2 ^ 16 % 32, addr % 2 ^ 16)

/-- Counts a `.s` access of the executing context to a cluster (R482). -/
def State.countScratch (s : State) (cl : Nat) : State :=
  let core := (s.ctx s.cur).core
  s.countCore core 2 (if cl = clusterOf core then 1 else 2)

/-- Counts a `.s` access. -/
def countScratch (cl : Nat) : M Unit := modify fun s => s.countScratch cl

/-- Record keys of `.s` bytes (R203). -/
def sKeys (cl n addr len : Nat) : List (Nat × RelKey) :=
  (linePieces 0 addr len).map fun p => (cl, RelKey.s n (scratchOf p.2.1).1 ((scratchOf p.2.1).2 / 64))

/-- Physical addresses of `.s` bytes that are read, atomically updated or initialised: PREEMPT while the company is suspended,
XLATE_PERM where a DISCARD entry stands or the bank is not held (R61, R338). `at_` is the address a fault reports. -/
def sReady (cl n addr len at_ : Nat) : M (List (Nat × Nat × Nat)) := do
  let s ← get
  let c := s.clusterAt cl
  let ps := linePieces 0 addr len
  if 2 ^ 21 < addr + len then spaceFault at_
  else
    ps.mapM fun p => do
      let (lb, off) := scratchOf p.2.1
      match c.divertOf n with
      | some (_, _, _, lbanks) => if lbanks.getLsbD lb then fault .preempt (BitVec.ofNat 64 at_)
      | none => pure ()
      match c.physBank n lb .scratch with
      | none => spaceFault at_
      | some b => if c.discarded n lb then spaceFault at_ else return (p.1, bankPa cl b off, p.2.2)

/-- A `.s` store: each piece lands at the company's cluster; a piece held at the ingress keeps the instruction in flight (R338, R473).
-/
def sWrite (cl n addr : Nat) (d : List Byte) : M Unit := do
  let s ← get
  let x ← me
  let c := s.clusterAt cl
  if 2 ^ 21 < addr + d.length then spaceFault addr
  else if x.landed.isSome then
    if c.ingress.any fun a => a.who == some s.cur then flight (.home true)
  else
    let ps := linePieces 0 addr d.length
    ps.forM fun p => do
      let lb := (scratchOf p.2.1).1
      let diverted := match c.divertOf n with
        | some (_, _, _, lbanks) => lbanks.getLsbD lb
        | none => false
      if !diverted && !c.discarded n lb && (c.physBank n lb .scratch).isNone then spaceFault addr
    let arr (cur : Nat) (p : Nat × Nat × Nat) : Arrival :=
      .write n (scratchOf p.2.1).1 (scratchOf p.2.1).2 (slice d p.1 p.2.2) (some cur)
        (if x.task then some { gtid := x.gtid, cl := clusterOf x.home, company := x.company.toNat, qsel := 31, opid := 0 } else none)
    let landAll (s : State) : Bool × State :=
      ps.foldl (fun (acc : Bool × State) p =>
        let (f, _, s) := acc.2.land cl (arr s.cur p)
        (acc.1 || f == .held, s)) (false, s)
    countScratch cl
    let (waits, s') := landAll (← get)
    if waits then stop fun s => (landAll (s.countScratch cl)).2.enterFlight (.home true)
    else set s'

/-- Reads bytes at physical pieces. -/
def State.piecesBytes (s : State) (ps : List (Nat × Nat × Nat)) : List Byte := ps.flatMap fun p => s.tierBytes p.2.1 p.2.2

/-! ## Accesses by space -/

/-- A read of n bytes (R344). -/
def readMem (t : Target) (h : How) (sync : Bool) (n : Nat) : M (List Byte) := do
  waitHeld (h.release || h.ar)
  match t.space with
  | .g => gRead h sync (n == 32) t.addr (linePieces 0 t.addr n)
  | .l =>
    let (pa, keys) ← lReady false t.addr n
    if sync then logLocal (← me).core (16 + t.addr / 64)
    acquireLines h keys
    return (← get).tierBytes pa n
  | .s =>
    match ← sCompany t false with
    | none => return []
    | some (cl, c) =>
      let ps ← sReady cl c t.addr n t.addr
      if sync then logScratch cl c t.addr
      countScratch cl
      acquireLines h (sKeys cl c t.addr n)
      return (← get).piecesBytes ps

/-- A write of bytes (R344). -/
def writeMem (t : Target) (h : How) (sync : Bool) (d : List Byte) : M Unit := do
  waitHeld h.release
  match t.space with
  | .g => gWrite h sync (d.length == 32) t.addr d
  | .l =>
    let (pa, keys) ← lReady true t.addr d.length
    if sync then logLocal (← me).core (16 + t.addr / 64)
    modify fun s => (s.setTier pa d).clearBad pa d.length
    releaseLines h keys
  | .s =>
    match ← sCompany t false with
    | none => pure ()
    | some (cl, c) =>
      if sync then logScratch cl c t.addr
      sWrite cl c t.addr d
      releaseLines h (sKeys cl c t.addr d.length)

/-- An atomic of n bytes in this package; `remote` answers one that another package performs (R337, R347). -/
def atomicMem (t : Target) (h : How) (n : Nat) (f : List Byte → Option (List Byte)) (remote : M (List Byte)) : M (List Byte) := do
  waitHeld h.release
  match t.space with
  | .g => gAtomic h t.addr n f
  | .l =>
    let (pa, keys) ← lReady false t.addr n
    logLocal (← me).core (16 + t.addr / 64)
    let old := (← get).tierBytes pa n
    acquireLines h keys
    match f old with
    | none => pure ()
    | some d => modify fun s => s.setTier pa d
    releaseLines h keys
    return old
  | .s =>
    match ← sCompany t true with
    | none => remote
    | some (cl, c) =>
      let ps ← sReady cl c t.addr n t.addr
      logScratch cl c t.addr
      countScratch cl
      let old := (← get).piecesBytes ps
      acquireLines h (sKeys cl c t.addr n)
      match f old, ps with
      | some d, [p] => modify fun s => s.setTier p.2.1 d
      | _, _ => pure ()
      releaseLines h (sKeys cl c t.addr n)
      return old

/-- ALIGN of R88. -/
def checkAlign (addr n : Nat) : M Unit := if addr % n = 0 then pure () else fault .align (BitVec.ofNat 64 addr)

end Sys2Proof.Machine
end

