-- ==== Sys2Proof/Machine/Operands.lean ====
section
/-! DEFINITION. Operand forms: lanes and registers, pops and window reads, pushes and window writes, scalar integers (R141, R142, R149 to
R161, R275 to R281, R301 to R305, R309, R339). -/

namespace Sys2Proof.Machine

/-! ## Types (R301, R343) -/

/-- Width and signedness of a type; the second argument is what TY = 0 means. -/
def tyInfo (ty : Ty) (zero : Nat × Bool) : Nat × Bool :=
  match ty with
  | .none => zero
  | .i8 => (8, true) | .i16 => (16, true) | .i32 => (32, true) | .i64 => (64, true)
  | .n8 => (8, false) | .n16 => (16, false) | .n32 => (32, false) | .n64 => (64, false)
  | .f32 => (32, false) | .bf16 => (16, false) | .f16 => (16, false) | .e4m3 => (8, false) | .e5m2 => (8, false)
  | .e2m1 => (4, false)

/-- The low w bits of a word as an integer (SrcInt of R302). -/
def wordInt (w : Nat) (sg : Bool) (x : Word) : Int :=
  let v := x.toNat % 2 ^ w
  if sg && 2 ^ (w - 1) ≤ v then (v : Int) - 2 ^ w else v

/-- The 64-bit pattern that WriteInt writes (R302). -/
def intWord (w : Nat) (sg : Bool) (v : Int) : Word :=
  let u := (v % 2 ^ w).toNat
  if sg && 2 ^ (w - 1) ≤ u then BitVec.ofInt 64 ((u : Int) - 2 ^ w) else BitVec.ofNat 64 u

/-! ## General registers -/

/-- Writes a whole general register; its future tag becomes 0 (R339). -/
def Ctx.setG (x : Ctx) (r : Fin 16) (v : Vec) : Ctx := { x with g := x.g.set r v, ft := x.ft.set r 0, fut := x.fut.del r.val }

/-- One 64-bit lane of a register (R276). -/
def laneOf (v : Vec) (lane : Nat) : Word := v.extractLsb' (64 * lane) 64

/-- A register with one 64-bit lane replaced. -/
def setLane (v : Vec) (lane : Nat) (x : Word) : Vec :=
  (v &&& ~~~((0xFFFFFFFFFFFFFFFF : Vec) <<< (64 * lane))) ||| (x.setWidth 256 <<< (64 * lane))

/-! ## Queue registers (R142, R149 to R163) -/

/-- The tval of a queue fault (R157). -/
def queueTval (r : Fin 16) (dir : Bool) (kind : Nat) (fmark : Bool) (coord offset : Nat) : Word :=
  BitVec.ofNat 64 (r.val + (if dir then 2 ^ 4 else 0) + kind * 2 ^ 5 + (if fmark then 2 ^ 8 else 0) + coord * 2 ^ 16 + offset * 2 ^ 32)

/-- The queue of a consumer end, or QUNBOUND (R142). -/
def consumerOf (r : Fin 16) (offset : Nat) : M (Nat × Queue) := do
  let x ← me
  let s ← get
  match x.qregs[r].bound with
  | some (n, false) => match s.queue? n with
    | some q => return (n, q)
    | none => fault .qunbound (queueTval r false 0 false 0 offset)
  | _ => fault .qunbound (queueTval r false 0 false 0 offset)

/-- The queue of a producer end, or QUNBOUND (R142). -/
def producerOf (r : Fin 16) (offset : Nat) : M (Nat × Queue) := do
  let x ← me
  let s ← get
  match x.qregs[r].bound with
  | some (n, true) => match s.queue? n with
    | some q => return (n, q)
    | none => fault .qunbound (queueTval r true 0 false 0 offset)
  | _ => fault .qunbound (queueTval r true 0 false 0 offset)

/-- QCUE, or NEIGHBOUR_FENCED for a fault marker (R155, R157, R163). -/
def entryFault {α : Type} (r : Fin 16) (e : Entry) (offset : Nat) : M α :=
  if e.fmark then fault .neighbourFenced (queueTval r false e.kind.val true (e.payload.toNat % 2 ^ 16) offset)
  else fault .qcue (queueTval r false e.kind.val false 0 offset)

/-- A pop or window read merges the carrier and clears it (R201). -/
def acquireQueue (n : Nat) : M Unit := do
  let s ← get
  match s.queue? n with
  | none => pure ()
  | some q =>
    setMe fun x => if x.task then x.mergeCarrier q.carrier else x
    modify fun s => s.updQueue n fun q => { q with carrier := .empty }

/-- Takes k entries from the head of a queue whose entries are known to be there; a data entry's tag goes to the latch (R141). -/
def takeEntries (r : Fin 16) (n k : Nat) (q : Queue) : M Unit := do
  acquireQueue n
  let x ← me
  modify fun s => (s.updQueue n fun q => q.dropN k).countCore x.core 6 1 k
  if q.tagged then
    match (q.view.take k).getLast? with
    | some e => if e.kind = 0 then setMe fun x => { x with qregs := x.qregs.set r { x.qregs[r] with latch := e.tag.toNat } }
    | none => pure ()

/-- The head entry, waiting for one (R150). -/
def headEntry (q : Queue) : M Entry :=
  match q.head with
  | none => waitOn .queue
  | some e => return e

/-- A TLDAQ that is pending on a register holds the task's own pops, window reads, QADV, QSKIP and QFREE (R409). -/
def waitTldaq (n : Nat) : M Unit := do
  let s ← get
  let mine (o : EngOp) : Bool := (match o.body with
    | .tldaq _ q _ => q == n
    | _ => false)
  if s.ops.any fun e => mine e.2 then waitOn .engine

/-- A pop (R151, R155). -/
def popQ (r : Fin 16) : M Vec := do
  let (n, q) ← consumerOf r 0
  waitHeld false
  waitTldaq n
  let e ← headEntry q
  if e.kind ≠ 0 then entryFault r e 0
  else
    takeEntries r n 1 q
    return e.payload

/-- A window read (R158). -/
def windowRead (r : Fin 16) (k : Nat) : M Vec := do
  let (n, q) ← consumerOf r k
  waitHeld false
  waitTldaq n
  let v := q.view.take (k + 1)
  if v.length < k + 1 then waitOn .queue
  else
    match v.find? fun e => e.kind != 0 with
    | some e => entryFault r e k
    | none =>
      acquireQueue n
      return ((v.getLast?).map Entry.payload).getD 0

/-- The tag that a push carries: the latch of the lowest-numbered tagged input register (R141). -/
def State.pushTag (s : State) (x : Ctx) : BitVec 24 :=
  let tagged (q : QReg) : Bool := match q.bound with
    | some (n, false) => match s.queue? n with
      | some q => q.tagged
      | none => false
    | _ => false
  match x.qregs.toList.find? tagged with
  | none => 0
  | some q => BitVec.ofNat 24 q.latch

/-- A CPYQ that is pending on a register holds the task's own pushes, window writes, QCOM, QCUE and QFREE (R373). -/
def waitCpyq (n : Nat) : M Unit := do
  let s ← get
  let mine (o : EngOp) : Bool := (match o.body with
    | .toQueue _ _ _ _ _ q _ => q == n
    | _ => false)
  if s.ops.any fun e => mine e.2 then waitOn .engine

/-- Checks of a push, a QCOM or a QCUE: a producer end that is not fenced and has n credits; `plain` is false for QCOM, which
takes the window (R149, R160, R161, R163). -/
def pushReady (r : Fin 16) (n : Nat) (plain : Bool) : M (Nat × Queue) := do
  let (i, q) ← producerOf r 0
  let x ← me
  match x.qregs[r].fenced with
  | some c => fault .neighbourFenced (queueTval r true 0 false c.toNat 0)
  | none => pure ()
  if plain && x.qregs[r].wpend ≠ 0 then fault .operandForm (queueTval r true 0 false 0 0)
  waitCpyq i
  waitHeld true
  if !q.canPush n then waitOn .credit
  else return (i, q)

/-- Entries are accepted together: one release (R149, R154, R184, R199). -/
def pushEntries (i : Nat) (l : List (Vec × Fin 8)) : M Unit := do
  let x ← me
  let s ← get
  let tag := s.pushTag x
  let k := if x.task then some x.carried else none
  modify fun s => (l.foldl (fun (s : State) e =>
    s.updQueue i fun q => q.push { payload := e.1, kind := e.2, fmark := false, tag } k) s).countCore x.core 6 0 l.length
  if x.task then setMe Ctx.bump

/-- A push of one entry (R151). -/
def pushQ (r : Fin 16) (v : Vec) (kind : Fin 8) : M Unit := do
  let (i, _) ← pushReady r 1 true
  pushEntries i [(v, kind)]

/-- A window write (R160). -/
def windowWrite (r : Fin 16) (k : Nat) (v : Vec) : M Unit := do
  let (i, q) ← producerOf r k
  let x ← me
  match x.qregs[r].fenced with
  | some c => fault .neighbourFenced (queueTval r true 0 false c.toNat k)
  | none =>
    waitCpyq i
    let b := x.qregs[r]
    setMe fun x => { x with qregs := x.qregs.set r { b with window := b.window.put k (q.fit v), wpend := max b.wpend (k + 1) } }

/-! ## Sources and destinations (R302, R309, R344) -/

/-- A 256-bit source: a register, a payload zero-extended, or an immediate sign-extended. -/
def srcVec (o : Operand) : M Vec := do
  match o with
  | .g r _ => return (← me).g[r]
  | .q r => popQ r
  | .w r k => windowRead r k.val
  | .i v => return v.signExtend 256
  | .wide v => return v.signExtend 256
  | _ => return 0

/-- A 64-bit scalar source (Src64 of R302). -/
def src64 (o : Operand) : M Word := do
  match o with
  | .g r lane => return laneOf ((← me).g[r]) lane.val
  | _ => return (← srcVec o).setWidth 64

/-- A scalar integer source (SrcInt of R302). -/
def srcInt (o : Operand) (w : Nat) (sg : Bool) : M Int := do return wordInt w sg (← src64 o)

/-- Writes a 64-bit result to a lane, a push or a window slot (R302). -/
def writeWord (o : Operand) (e : Word) : M Unit :=
  match o with
  | .g r lane => setMe fun x => x.setG r (setLane x.g[r] lane.val e)
  | .q r => pushQ r (e.setWidth 256) 0
  | .w r k => windowWrite r k.val (e.setWidth 256)
  | _ => pure ()

/-- WriteInt of R302. -/
def writeInt (o : Operand) (w : Nat) (sg : Bool) (v : Int) : M Unit := writeWord o (intWord w sg v)

/-- Writes 256 bits to a whole register, a push or a window slot (R309, R344). -/
def writeVec (o : Operand) (v : Vec) : M Unit :=
  match o with
  | .g r _ => setMe fun x => x.setG r v
  | .q r => pushQ r v 0
  | .w r k => windowWrite r k.val v
  | _ => pure ()

/-- A destination that pushes has its credit, or a window to write. -/
def destReady (o : Operand) : M Unit := do
  match o with
  | .q r => let _ ← pushReady r 1 true
  | .w r k => let _ ← producerOf r k.val
  | _ => pure ()

/-- A queue field (R275). -/
def isQueueField : Operand → Bool
  | .q _ => true
  | .w _ _ => true
  | _ => false

/-- A pop or window read of a source, for what it waits on or faults. -/
def popSource (c : FieldClass) (o : Operand) : M Unit := do
  match c, o with
  | .src, .q r => let _ ← popQ r
  | .src, .w r k => let _ ← windowRead r k.val
  | _, _ => pure ()

/-- An instruction that pushes its result has everything it takes from queues, in the order A, B, D, before it has any effect (R152). -/
def queuesReady (sg : Sig) (f : Fields) : M Unit := do
  let s ← get
  popSource sg.a f.a
  popSource sg.b f.b
  set s
  destReady f.d

/-! ## One instruction -/

/-- Counts a vector or bit instruction (R482). -/
def countExt (e : Ext) : M Unit := do
  let x ← me
  match e with
  | .v => modify fun s => s.countCore x.core 10 0
  | .x => modify fun s => s.countCore x.core 10 1
  | _ => pure ()

/-- What surrounds every instruction: steps 3 to 6 of R269, the waits of R304, the next PC, and completion (R216, R264, R273).
`check` holds what the entry checks at step 4 by way of the state. -/
def instrM (i : Instr) (f : Fields) (sg : Sig) (check body : M Unit) : M Unit := do
  checkExt sg.ext sg.opc
  check
  checkPriv i sg.opc
  let x ← me
  setMe fun x => { x with pc := x.pc + 1 }
  if x.guard f.h then
    settleFutures i f
    if sg.d = .dst && isQueueField f.d then queuesReady sg f
    body
    countExt sg.ext
    if !x.know.sat && (← me).know.sat then modify fun s => s.countCluster (clusterOf x.core) 13 1
  modify fun s => s.finish f.h

/-- An instruction of the T extension pins a roaming task on a core that has it, whatever follows (R211, R269). -/
def State.pinFor (s : State) (e : Ext) : State :=
  if e = .t ∧ isTile (s.ctx s.cur).core then s.updCtx s.cur fun x => { x with pinned := true } else s

/-- A meaning from its body. -/
def instr (i : Instr) (body : Fields → M Unit) (check : Fields → M Unit := fun _ => pure ()) (s : State) :
    Host.Outcome State Fault Refusal :=
  match i.sig? with
  | none => .refused .notAnEvent
  | some (f, sg) => .next (runM (instrM i f sg (check f) (body f)) (s.pinFor sg.ext))

/-- An event's meaning. -/
def eventM (f : State → State) (s : State) : Host.Outcome State Fault Refusal := .next (f s)

/-- The meaning of a command of the host or of the firmware: before the part has booted neither gives one (R525). -/
def commandM (f : State → State) (s : State) : Host.Outcome State Fault Refusal := eventM (fun s => if s.boot = .running then f s else s) s

end Sys2Proof.Machine
end

