-- ==== Sys2Proof/Machine/Flags.lean ====
section
/-! DEFINITION. Predicates, comparison and saturation: the machine has no condition flags (R282, R306, R311, R316, R322). -/

namespace Sys2Proof.Machine

/-- Writes a predicate; a write to p7 is discarded (R282). -/
def Ctx.setPred (x : Ctx) (r : Fin 8) (v : Word) : Ctx :=
  match Nat.decLt r.val 7 with
  | isTrue h => { x with p := x.p.set r.val v h }
  | isFalse _ => x

/-- Writes the predicate that an operand names. -/
def writePred (o : Operand) (v : Word) : M Unit :=
  match o with
  | .p r => setMe fun x => x.setPred r v
  | _ => pure ()

/-- Reads the predicate that an operand names. -/
def readPred (o : Operand) : M Word := do
  match o with
  | .p r => return (← me).pred r
  | _ => return 0

/-- Bit 0 of a predicate result; the other bits are zero (R316). -/
def boolWord (b : Bool) : Word := if b then 1 else 0

/-- The nearest value that w bits hold (Clamp of R311). -/
def clampInt (w : Nat) (sg : Bool) (v : Int) : Int :=
  let lo : Int := if sg then -(2 ^ (w - 1)) else 0
  let hi : Int := if sg then 2 ^ (w - 1) - 1 else 2 ^ w - 1
  max lo (min hi v)

end Sys2Proof.Machine
end

