-- ==== Sys2Proof/Machine/Loads.lean ====
section
/-! DEFINITION. Loads and stores (R343 to R345). -/

namespace Sys2Proof.Machine

/-- A load with its ordering: an acquire access where ORD says so (R180, R181). -/
def loadBytes (f : Fields) (t : Target) (n : Nat) : M (List Byte) :=
  readMem t (howOf f false false t.scope) (syncOf f false) n

/-- A store with its ordering (R180, R181). -/
def storeBytes (f : Fields) (t : Target) (d : List Byte) : M Unit :=
  writeMem t (howOf f true false t.scope) (syncOf f false) d

/-- LD. -/
def execLd (f : Fields) (s : State) : Host.Outcome State Fault Refusal :=
  instr (.ld f) (fun f => do
    let (w, sg) := tyInfo f.md.ty (64, false)
    let t ← mOperand f f.a (w / 8)
    checkAlign t.addr (w / 8)
    let d ← loadBytes f t (w / 8)
    writeInt f.d w sg (wordInt w sg (BitVec.ofNat 64 (leValue d)))) (s := s)

/-- ST. -/
def execSt (f : Fields) (s : State) : Host.Outcome State Fault Refusal :=
  instr (.st f) (fun f => do
    let (w, _) := tyInfo f.md.ty (64, false)
    let t ← mOperand f f.d (w / 8)
    checkAlign t.addr (w / 8)
    let v ← src64 f.a
    storeBytes f t (leBytes (w / 8) v.toNat)) (s := s)

/-- LDV. -/
def execLdv (f : Fields) (s : State) : Host.Outcome State Fault Refusal :=
  instr (.ldv f) (fun f => do
    let t ← mOperand f f.a 32
    let d ← loadBytes f t 32
    writeVec f.d (BitVec.ofNat 256 (leValue d))) (s := s)

/-- STV. -/
def execStv (f : Fields) (s : State) : Host.Outcome State Fault Refusal :=
  instr (.stv f) (fun f => do
    let t ← mOperand f f.d 32
    let v ← srcVec f.a
    storeBytes f t (leBytes 32 v.toNat)) (s := s)

/-- Addresses of the elements of LDVT (R345). -/
def stridedAddrs (a0 : Nat) (stride : Int) (e : Nat) : List Nat :=
  (List.range e).map fun i => (((a0 : Int) + i * stride) % 2 ^ 64).toNat

/-- Reads elements of n bytes at several addresses together, in one step (R345, log entry 116). -/
def readElements (f : Fields) (t : Target) (n : Nat) (as : List Nat) : M (List Byte) := do
  let h := howOf f false false t.scope
  waitHeld (h.release || h.ar)
  match t.space with
  | .g => gRead h (syncOf f false) false t.addr (as.zipIdx.map fun e => (e.2 * n, e.1, n))
  | .l =>
    let rs ← as.mapM fun a => lReady false a n
    if syncOf f false then as.forM fun a => do logLocal (← me).core (16 + a / 64)
    acquireLines h (rs.flatMap Prod.snd)
    let s ← get
    return rs.flatMap fun r => s.tierBytes r.1 n
  | .s =>
    match ← sCompany t false with
    | none => return []
    | some (cl, c) =>
      let rs ← as.mapM fun a => sReady cl c a n a
      if syncOf f false then as.forM fun a => logScratch cl c a
      countScratch cl
      acquireLines h (as.flatMap fun a => sKeys cl c a n)
      let s ← get
      return rs.flatMap s.piecesBytes

/-- LDVT. -/
def execLdvt (f : Fields) (s : State) : Host.Outcome State Fault Refusal :=
  instr (.ldvt f) (fun f => do
    let n := (tyInfo f.md.ty (32, false)).1 / 8
    let t ← mOperand f f.a n
    let stride ← srcInt f.b 64 true
    let as := stridedAddrs t.addr stride (32 / n)
    as.forM fun a => checkAlign a n
    let d ← readElements f t n as
    writeVec f.d (BitVec.ofNat 256 (leValue d))) (s := s)

end Sys2Proof.Machine
end

