-- ==== Sys2Proof/Machine/Atomics.lean ====
section
/-! DEFINITION. Atomics (R337, R346 to R348, R517). -/

namespace Sys2Proof.Machine

/-! ## Other packages (R337, R517) -/

/-- The port of the peer route to a package, if the route is valid (R517). -/
def State.peerPort (s : State) (pkg : Nat) : Option Nat :=
  let e := s.mmio.getD (0x380000 + 8 * pkg) 0
  if e.getLsbD 3 then some (e.extractLsb' 0 3).toNat else none

/-- The peer route of what is issued now: there is none while this package has no number (R517). -/
def State.peerRoute (s : State) (pkg : Nat) : Option Nat := if s.pkg = 0xFFF then none else s.peerPort pkg

/-- SCOPE of an atomic bound for another package, its tval as R337 gives it. -/
def peerScope {α : Type} (t : Target) : M α :=
  fault .scope (BitVec.ofNat 64 ((t.base.extractLsb' 96 16).toNat + (t.base.extractLsb' 112 12).toNat * 2 ^ 16))

/-- An atomic that another package performs: it leaves, and stays in flight until its answer or its refusal returns. -/
def remoteAtomic (opc : BitVec 12) (t : Target) (n : Nat) (value expect : Word) : M (List Byte) := do
  let x ← me
  let s ← get
  let pkg := (t.base.extractLsb' 112 12).toNat
  match x.status with
  | .flight (.peer r none) => flight (.peer r none)
  | .flight (.peer _ (some (refusal, v))) =>
    match refusal with
    | none => return leBytes n v.toNat
    | some .wrongPackage => peerScope t
    | some .noTarget => spaceFault t.addr
    | some .suspended => fault .preempt (BitVec.ofNat 64 t.addr)
  | _ =>
    match s.peerRoute pkg with
    | none => peerScope t
    | some _ =>
      stop fun s =>
        let p : Sent := .atomic pkg x.company.toNat (t.base.extractLsb' 96 32) t.addr opc n value expect s.fresh
        let s : State := { s with outbox := s.outbox ++ [p], fresh := s.fresh + 1 }
        s.enterFlight (.peer (s.fresh - 1) none)

/-! ## One atomic (R347) -/

/-- What an atomic of w bits makes of the old value, the operand and, for ACAS, the expected value. -/
abbrev AtomicOp := Nat → Int → Int → Int → Option Int

/-- The pseudocode of R347; TY = 0 means `zero`, and only ACAS reads D. -/
def atomic (opc : BitVec 12) (zero : Nat × Bool) (readD : Bool) (op : AtomicOp) (f : Fields) : M Unit := do
  let (w, sg) := tyInfo f.md.ty zero
  let n := w / 8
  let t ← mOperand f f.a n
  checkAlign t.addr n
  let v ← srcInt f.b w sg
  let d ← if readD then srcInt f.d w sg else pure 0
  let update (old : List Byte) : Option (List Byte) :=
    (op w (wordInt w sg (BitVec.ofNat 64 (leValue old))) v d).map fun x => leBytes n (x % 2 ^ w).toNat
  let h := howOf f true true t.scope
  let old ← atomicMem t h n update (do
    let d ← remoteAtomic opc t n (intWord w sg v) (intWord w sg d)
    if h.release then setMe fun x => if x.task then x.bump else x
    return d)
  writeInt f.d w sg (wordInt w sg (BitVec.ofNat 64 (leValue old)))

/-- Signed or unsigned minimum. -/
def atomicMin : AtomicOp := fun _ old v _ => some (if v < old then v else old)

/-- Signed or unsigned maximum. -/
def atomicMax : AtomicOp := fun _ old v _ => some (if old < v then v else old)

/-- A bitwise operation. -/
def atomicBits (g : Word → Word → Word) : AtomicOp := fun _ old v _ =>
  some (g (BitVec.ofInt 64 old) (BitVec.ofInt 64 v)).toNat

/-- A floating operation on FP32 patterns, subnormals kept, SAT taken as 0 (R347). -/
def atomicFloat (g : Num → Num → Num) : AtomicOp := fun _ old v _ =>
  some (roundFloat fp32 .rne false (g (decodeFloat fp32 old.toNat) (decodeFloat fp32 v.toNat)))

/-- AADD. -/
def execAadd (f : Fields) (s : State) : Host.Outcome State Fault Refusal :=
  instr (.aadd f) (atomic 0x205 (64, true) false fun _ old v _ => some (old + v)) (s := s)
/-- AMIN. -/
def execAmin (f : Fields) (s : State) : Host.Outcome State Fault Refusal :=
  instr (.amin f) (atomic 0x206 (64, true) false atomicMin) (s := s)
/-- AMAX. -/
def execAmax (f : Fields) (s : State) : Host.Outcome State Fault Refusal :=
  instr (.amax f) (atomic 0x207 (64, true) false atomicMax) (s := s)
/-- AMINN. -/
def execAminn (f : Fields) (s : State) : Host.Outcome State Fault Refusal :=
  instr (.aminn f) (atomic 0x208 (64, false) false atomicMin) (s := s)
/-- AMAXN. -/
def execAmaxn (f : Fields) (s : State) : Host.Outcome State Fault Refusal :=
  instr (.amaxn f) (atomic 0x209 (64, false) false atomicMax) (s := s)
/-- AAND. -/
def execAand (f : Fields) (s : State) : Host.Outcome State Fault Refusal :=
  instr (.aand f) (atomic 0x20A (64, true) false (atomicBits fun a b => a &&& b)) (s := s)
/-- AOR. -/
def execAor (f : Fields) (s : State) : Host.Outcome State Fault Refusal :=
  instr (.aor f) (atomic 0x20B (64, true) false (atomicBits fun a b => a ||| b)) (s := s)
/-- AXOR. -/
def execAxor (f : Fields) (s : State) : Host.Outcome State Fault Refusal :=
  instr (.axor f) (atomic 0x20C (64, true) false (atomicBits fun a b => a ^^^ b)) (s := s)
/-- ASWP. -/
def execAswp (f : Fields) (s : State) : Host.Outcome State Fault Refusal :=
  instr (.aswp f) (atomic 0x20D (64, true) false fun _ _ v _ => some v) (s := s)
/-- ACAS. -/
def execAcas (f : Fields) (s : State) : Host.Outcome State Fault Refusal :=
  instr (.acas f) (atomic 0x20E (64, true) true fun _ old v d => if old = d then some v else none) (s := s)
/-- AFADD: FP32, RNE (R346). -/
def execAfadd (f : Fields) (s : State) : Host.Outcome State Fault Refusal :=
  instr (.afadd f) (atomic 0x20F (32, false) false (atomicFloat (Num.add .rne))) (s := s)
/-- AFMAX: maximum of IEEE 754-2019 (R346). -/
def execAfmax (f : Fields) (s : State) : Host.Outcome State Fault Refusal :=
  instr (.afmax f) (atomic 0x210 (32, false) false (atomicFloat Num.max)) (s := s)

end Sys2Proof.Machine
end

