-- ==== Sys2Proof/Machine/Integer.lean ====
section
/-! DEFINITION. Moves, scalar integers, logic, shifts, bit fields, comparison, addresses and coordinates (R308 to R321). -/

namespace Sys2Proof.Machine

/-- What TY = 0 means in the classes any and signed (R301). -/
def asI64 : Nat × Bool := (64, true)
/-- What TY = 0 means in the class unsigned (R301). -/
def asN64 : Nat × Bool := (64, false)

/-- A one-source integer instruction: width, signedness and the value a give v (R311). -/
def intOp1 (zero : Nat × Bool) (op : Nat → Bool → Int → Int) (f : Fields) : M Unit := do
  let (w, sg) := tyInfo f.md.ty zero
  let a ← srcInt f.a w sg
  writeInt f.d w sg (op w sg a)

/-- A two-source integer instruction (R311, R312). -/
def intOp2 (zero : Nat × Bool) (op : Nat → Bool → Int → Int → Int) (f : Fields) : M Unit := do
  let (w, sg) := tyInfo f.md.ty zero
  let a ← srcInt f.a w sg
  let b ← srcInt f.b w sg
  writeInt f.d w sg (op w sg a b)

/-- A two-source instruction on w-bit patterns (R313). -/
def bitOp2 (op : Nat → Nat → Nat → Nat) (f : Fields) : M Unit := do
  let (w, sg) := tyInfo f.md.ty asI64
  let a ← src64 f.a
  let b ← src64 f.b
  writeInt f.d w sg (op w (a.toNat % 2 ^ w) (b.toNat % 2 ^ w))

/-- A shift: width, the pattern u and the unsigned 64-bit amount s (R313). -/
def shiftOp (op : Nat → Nat → Nat → Int) (f : Fields) : M Unit := do
  let (w, sg) := tyInfo f.md.ty asI64
  let a ← src64 f.a
  let b ← src64 f.b
  writeInt f.d w sg (op w (a.toNat % 2 ^ w) b.toNat)

/-- A one-source instruction on a w-bit pattern (R314). -/
def bitOp1 (op : Nat → Nat → Nat) (f : Fields) : M Unit := do
  let (w, sg) := tyInfo f.md.ty asI64
  let a ← src64 f.a
  writeInt f.d w sg (op w (a.toNat % 2 ^ w))

/-! ## Moves (R309, R310) -/

/-- MOV. -/
def execMov (f : Fields) (s : State) : Host.Outcome State Fault Refusal :=
  instr (.mov f) (fun f =>
    if f.md.ty = .none then do writeVec f.d (← srcVec f.a)
    else intOp1 asI64 (fun _ _ a => a) f) (s := s)

/-- MOVI. -/
def execMovi (f : Fields) (s : State) : Host.Outcome State Fault Refusal :=
  instr (.movi f) (fun f => match f.a with
    | .wide v => writeInt f.d 64 true v.toInt
    | _ => pure ()) (s := s)

/-- MOVH. -/
def execMovh (f : Fields) (s : State) : Host.Outcome State Fault Refusal :=
  instr (.movh f) (fun f => do
    let old ← src64 f.d
    match f.a with
    | .wide v => writeWord f.d (v ++ old.extractLsb' 0 16)
    | _ => pure ()) (s := s)

/-! ## Arithmetic (R311, R312) -/

/-- ADD. -/
def execAdd (f : Fields) (s : State) : Host.Outcome State Fault Refusal :=
  instr (.add f) (intOp2 asI64 fun _ _ a b => a + b) (s := s)

/-- SUB. -/
def execSub (f : Fields) (s : State) : Host.Outcome State Fault Refusal :=
  instr (.sub f) (intOp2 asI64 fun _ _ a b => a - b) (s := s)

/-- NEG. -/
def execNeg (f : Fields) (s : State) : Host.Outcome State Fault Refusal :=
  instr (.neg f) (intOp1 asI64 fun _ _ a => -a) (s := s)

/-- ABS. -/
def execAbs (f : Fields) (s : State) : Host.Outcome State Fault Refusal :=
  instr (.abs f) (intOp1 asI64 fun _ _ a => a.natAbs) (s := s)

/-- MUL. -/
def execMul (f : Fields) (s : State) : Host.Outcome State Fault Refusal :=
  instr (.mul f) (intOp2 asI64 fun _ _ a b => a * b) (s := s)

/-- MULH. -/
def execMulh (f : Fields) (s : State) : Host.Outcome State Fault Refusal :=
  instr (.mulh f) (intOp2 asI64 fun w _ a b => (a * b) / 2 ^ w) (s := s)

/-- MULHN. -/
def execMulhn (f : Fields) (s : State) : Host.Outcome State Fault Refusal :=
  instr (.mulhn f) (intOp2 asN64 fun w _ a b => (a * b) / 2 ^ w) (s := s)

/-- MADD. -/
def execMadd (f : Fields) (s : State) : Host.Outcome State Fault Refusal :=
  instr (.madd f) (fun f => do
    let (w, sg) := tyInfo f.md.ty asI64
    let d ← srcInt f.d w sg
    let a ← srcInt f.a w sg
    let b ← srcInt f.b w sg
    writeInt f.d w sg (d + a * b)) (s := s)

/-- DIV. -/
def execDiv (f : Fields) (s : State) : Host.Outcome State Fault Refusal :=
  instr (.div f) (intOp2 asI64 fun _ _ a b => if b = 0 then -1 else a.tdiv b) (s := s)

/-- DIVN. -/
def execDivn (f : Fields) (s : State) : Host.Outcome State Fault Refusal :=
  instr (.divn f) (intOp2 asN64 fun _ _ a b => if b = 0 then -1 else a.tdiv b) (s := s)

/-- REM. -/
def execRem (f : Fields) (s : State) : Host.Outcome State Fault Refusal :=
  instr (.rem f) (intOp2 asI64 fun _ _ a b => if b = 0 then a else a - b * a.tdiv b) (s := s)

/-- REMN. -/
def execRemn (f : Fields) (s : State) : Host.Outcome State Fault Refusal :=
  instr (.remn f) (intOp2 asN64 fun _ _ a b => if b = 0 then a else a - b * a.tdiv b) (s := s)

/-- MIN. -/
def execMin (f : Fields) (s : State) : Host.Outcome State Fault Refusal :=
  instr (.min f) (intOp2 asI64 fun _ _ a b => Min.min a b) (s := s)

/-- MAX. -/
def execMax (f : Fields) (s : State) : Host.Outcome State Fault Refusal :=
  instr (.max f) (intOp2 asI64 fun _ _ a b => Max.max a b) (s := s)

/-- MINN. -/
def execMinn (f : Fields) (s : State) : Host.Outcome State Fault Refusal :=
  instr (.minn f) (intOp2 asN64 fun _ _ a b => Min.min a b) (s := s)

/-- MAXN. -/
def execMaxn (f : Fields) (s : State) : Host.Outcome State Fault Refusal :=
  instr (.maxn f) (intOp2 asN64 fun _ _ a b => Max.max a b) (s := s)

/-- ADDS. -/
def execAdds (f : Fields) (s : State) : Host.Outcome State Fault Refusal :=
  instr (.adds f) (intOp2 asI64 fun w sg a b => clampInt w sg (a + b)) (s := s)

/-- SUBS. -/
def execSubs (f : Fields) (s : State) : Host.Outcome State Fault Refusal :=
  instr (.subs f) (intOp2 asI64 fun w sg a b => clampInt w sg (a - b)) (s := s)

/-! ## Logic and shifts (R313) -/

/-- AND. -/
def execAnd (f : Fields) (s : State) : Host.Outcome State Fault Refusal :=
  instr (.and f) (bitOp2 fun _ u y => u &&& y) (s := s)

/-- OR. -/
def execOr (f : Fields) (s : State) : Host.Outcome State Fault Refusal :=
  instr (.or f) (bitOp2 fun _ u y => u ||| y) (s := s)

/-- XOR. -/
def execXor (f : Fields) (s : State) : Host.Outcome State Fault Refusal :=
  instr (.xor f) (bitOp2 fun _ u y => u ^^^ y) (s := s)

/-- ANDN. -/
def execAndn (f : Fields) (s : State) : Host.Outcome State Fault Refusal :=
  instr (.andn f) (bitOp2 fun w u y => u &&& (2 ^ w - 1 - y)) (s := s)

/-- ORN. -/
def execOrn (f : Fields) (s : State) : Host.Outcome State Fault Refusal :=
  instr (.orn f) (bitOp2 fun w u y => u ||| (2 ^ w - 1 - y)) (s := s)

/-- SHL. -/
def execShl (f : Fields) (s : State) : Host.Outcome State Fault Refusal :=
  instr (.shl f) (shiftOp fun w u n => if w ≤ n then 0 else u * 2 ^ n) (s := s)

/-- SHR. -/
def execShr (f : Fields) (s : State) : Host.Outcome State Fault Refusal :=
  instr (.shr f) (shiftOp fun w u n => if w ≤ n then 0 else u / 2 ^ n) (s := s)

/-- SRA. -/
def execSra (f : Fields) (s : State) : Host.Outcome State Fault Refusal :=
  instr (.sra f) (shiftOp fun w u n => signedOf w u / 2 ^ (Min.min n (w - 1))) (s := s)

/-- ROL. -/
def execRol (f : Fields) (s : State) : Host.Outcome State Fault Refusal :=
  instr (.rol f) (shiftOp fun w u n => u * 2 ^ (n % w) + u / 2 ^ (w - n % w)) (s := s)

/-- ROR. -/
def execRor (f : Fields) (s : State) : Host.Outcome State Fault Refusal :=
  instr (.ror f) (shiftOp fun w u n => u / 2 ^ (n % w) + u % 2 ^ (n % w) * 2 ^ (w - n % w)) (s := s)

/-! ## Single-operand bit instructions (R314) -/

/-- One bits among the low w. -/
def onesIn (w u : Nat) : Nat := (List.range w).countP fun i => u.testBit i

/-- POPC. -/
def execPopc (f : Fields) (s : State) : Host.Outcome State Fault Refusal :=
  instr (.popc f) (bitOp1 onesIn) (s := s)

/-- CLZ. -/
def execClz (f : Fields) (s : State) : Host.Outcome State Fault Refusal :=
  instr (.clz f) (bitOp1 fun w u => if u = 0 then w else w - 1 - Nat.log2 u) (s := s)

/-- CTZ. -/
def execCtz (f : Fields) (s : State) : Host.Outcome State Fault Refusal :=
  instr (.ctz f) (bitOp1 fun w u => ((List.range w).find? fun i => u.testBit i).getD w) (s := s)

/-- The value whose n pieces of k bits are those of u in reverse order. -/
def revPieces (k n u : Nat) : Nat := (List.range n).foldl (fun acc i => acc * 2 ^ k + u / 2 ^ (k * i) % 2 ^ k) 0

/-- BREV. -/
def execBrev (f : Fields) (s : State) : Host.Outcome State Fault Refusal :=
  instr (.brev f) (bitOp1 fun w u => revPieces 1 w u) (s := s)

/-- BSWAP. -/
def execBswap (f : Fields) (s : State) : Host.Outcome State Fault Refusal :=
  instr (.bswap f) (bitOp1 fun w u => revPieces 8 (w / 8) u) (s := s)

/-! ## Fields (R315) -/

/-- The field a control word names in w bits: its lowest bit and its length, 0 where it is empty. -/
def bitField (w : Nat) (c : Word) : Nat × Nat :=
  let pos := c.toNat % 256
  let len := c.toNat / 256 % 256
  if len = 0 ∨ w ≤ pos then (pos, 0) else (pos, Min.min (pos + len) w - pos)

/-- BFX. -/
def execBfx (f : Fields) (s : State) : Host.Outcome State Fault Refusal :=
  instr (.bfx f) (fun f => do
    let (w, sg) := tyInfo f.md.ty asI64
    let a ← src64 f.a
    let (pos, l) := bitField w (← src64 f.b)
    let v := a.toNat % 2 ^ w / 2 ^ pos % 2 ^ l
    writeInt f.d w sg (if l = 0 then 0 else if sg then signedOf l v else v)) (s := s)

/-- BFI. -/
def execBfi (f : Fields) (s : State) : Host.Outcome State Fault Refusal :=
  instr (.bfi f) (fun f => do
    let (w, sg) := tyInfo f.md.ty asI64
    let d ← src64 f.d
    let a ← src64 f.a
    let (pos, l) := bitField w (← src64 f.b)
    let u := d.toNat % 2 ^ w
    writeInt f.d w sg (u / 2 ^ (pos + l) * 2 ^ (pos + l) + a.toNat % 2 ^ l * 2 ^ pos + u % 2 ^ pos : Nat)) (s := s)

/-- SEXT and ZEXT: the low n bits of A extended to 64. -/
def extendOp (sg : Bool) (f : Fields) : M Unit := do
  let a ← src64 f.a
  let n := (← src64 f.b).toNat
  writeInt f.d 64 true (if n = 0 then 0 else if 64 ≤ n then a.toNat else wordInt n sg a)

/-- SEXT. -/
def execSext (f : Fields) (s : State) : Host.Outcome State Fault Refusal := instr (.sext f) (extendOp true) (s := s)

/-- ZEXT. -/
def execZext (f : Fields) (s : State) : Host.Outcome State Fault Refusal := instr (.zext f) (extendOp false) (s := s)

/-- SEL. -/
def execSel (f : Fields) (s : State) : Host.Outcome State Fault Refusal :=
  instr (.sel f) (fun f => do
    let (w, sg) := tyInfo f.md.ty asI64
    let m ← src64 f.d
    let a ← src64 f.a
    let b ← src64 f.b
    writeInt f.d w sg (((m &&& a) ||| (~~~m &&& b)).toNat % 2 ^ w : Nat)) (s := s)

/-! ## Comparison (R316) -/

/-- CMP. -/
def execCmp (f : Fields) (s : State) : Host.Outcome State Fault Refusal :=
  instr (.cmp f) (fun f => do
    let (w, sg) := tyInfo f.md.ty asI64
    let a ← srcInt f.a w sg
    let b ← srcInt f.b w sg
    writePred f.d (boolWord (a < b))) (s := s)

/-- TST. -/
def execTst (f : Fields) (s : State) : Host.Outcome State Fault Refusal :=
  instr (.tst f) (fun f => do
    let (w, _) := tyInfo f.md.ty asI64
    let a ← src64 f.a
    let b ← src64 f.b
    writePred f.d (boolWord ((a.toNat % 2 ^ w) &&& (b.toNat % 2 ^ w) != 0))) (s := s)

/-! ## Addresses and coordinates (R318 to R321) -/

/-- LEA. -/
def execLea (f : Fields) (s : State) : Host.Outcome State Fault Refusal :=
  instr (.lea f) (fun f => do
    let n := if f.md.ty = .none then 1 else (tyInfo f.md.ty asI64).1 / 8
    let t ← mOperand f f.a n
    writeInt f.d 64 false t.addr) (s := s)

/-- RECT. -/
def execRect (f : Fields) (s : State) : Host.Outcome State Fault Refusal :=
  instr (.rect f) (fun f => do
    let a ← src64 f.a
    let b ← src64 f.b
    writePred f.d (boolWord (inRect (a.setWidth 32) (b.setWidth 16)))) (s := s)

/-- The distance word of two coordinates (R320). -/
def distWord (a b : Coord) : Word :=
  if coordValid a && coordValid b then BitVec.ofNat 64 (hops a b + if cDie a = cDie b then 0 else 2 ^ 16)
  else 0xFFFFFFFFFFFFFFFF

/-- CDIST. -/
def execCdist (f : Fields) (s : State) : Host.Outcome State Fault Refusal :=
  instr (.cdist f) (fun f => do
    let a ← src64 f.a
    let b ← src64 f.b
    writeWord f.d (distWord (a.setWidth 16) (b.setWidth 16))) (s := s)

/-- HOME. -/
def execHome (f : Fields) (s : State) : Host.Outcome State Fault Refusal :=
  instr (.home f) (fun f => do
    let va := (← src64 f.a).toNat
    let l ← translateVa va false false
    let x ← me
    let pa := leafAddr l.entry l.level va
    let hc := homeOf l.entry pa va
    writeWord f.d (if noHome l.entry then 0x20000
      else BitVec.ofNat 64 ((clusterCoord hc).toNat + if hc = clusterOf x.core then 2 ^ 16 else 0))) (s := s)

end Sys2Proof.Machine
end

