-- ==== Sys2Proof/Machine/Bits.lean ====
section
/-! DEFINITION. Bit instructions (R417). -/

namespace Sys2Proof.Machine

/-- The carry-less product of two w-bit patterns. -/
def clProduct (w a b : Nat) : Nat := (List.range w).foldl (fun (p : Nat) i => if b.testBit i then p ^^^ (a * 2 ^ i) else p) 0

/-- The positions of the one bits of a mask among the low w, lowest first. -/
def onePlaces (w b : Nat) : List Nat := (List.range w).filter fun i => b.testBit i

/-- The sum of the bits that a list of moves sets: from a bit of a to a bit of the result. -/
def moveBits (a : Nat) (l : List (Nat × Nat)) : Nat := l.foldl (fun (v : Nat) e => if a.testBit e.1 then v + 2 ^ e.2 else v) 0

/-- A two-source bit instruction: width and the two unsigned sources give the result. -/
def bitInstr (op : Nat → Nat → Nat → Nat) (f : Fields) : M Unit := intOp2 asN64 (fun w _ a b => op w a.toNat b.toNat) f

/-- CLMUL. -/
def execClmul (f : Fields) (s : State) : Host.Outcome State Fault Refusal :=
  instr (.clmul f) (bitInstr fun w a b => clProduct w a b % 2 ^ w) (s := s)

/-- CLMULH. -/
def execClmulh (f : Fields) (s : State) : Host.Outcome State Fault Refusal :=
  instr (.clmulh f) (bitInstr fun w a b => clProduct w a b / 2 ^ w) (s := s)

/-- BDEP. -/
def execBdep (f : Fields) (s : State) : Host.Outcome State Fault Refusal :=
  instr (.bdep f) (bitInstr fun w a b => moveBits a ((onePlaces w b).zipIdx.map fun e => (e.2, e.1))) (s := s)

/-- BEXT. -/
def execBext (f : Fields) (s : State) : Host.Outcome State Fault Refusal :=
  instr (.bext f) (bitInstr fun w a b => moveBits a ((onePlaces w b).zipIdx.map fun e => (e.1, e.2))) (s := s)

end Sys2Proof.Machine
end

