-- ==== Sys2Proof/Machine/Predicate.lean ====
section
/-! DEFINITION. Predicate instructions (R322). -/

namespace Sys2Proof.Machine

/-- A predicate from two predicates. -/
def predOp2 (op : Word → Word → Word) (f : Fields) : M Unit := do
  let x ← readPred f.a
  let y ← readPred f.b
  writePred f.d (op x y)

/-- The low n bits of a predicate, n taken from field B and at most 64. -/
def predLow (f : Fields) : M (Nat × Nat) := do
  let x ← readPred f.a
  let n := Nat.min (← src64 f.b).toNat 64
  return (n, x.toNat % 2 ^ n)

/-- PMOV. -/
def execPmov (f : Fields) (s : State) : Host.Outcome State Fault Refusal :=
  instr (.pmov f) (fun f => do writePred f.d (← readPred f.a)) (s := s)

/-- PAND. -/
def execPand (f : Fields) (s : State) : Host.Outcome State Fault Refusal := instr (.pand f) (predOp2 (· &&& ·)) (s := s)

/-- POR. -/
def execPor (f : Fields) (s : State) : Host.Outcome State Fault Refusal := instr (.por f) (predOp2 (· ||| ·)) (s := s)

/-- PXOR. -/
def execPxor (f : Fields) (s : State) : Host.Outcome State Fault Refusal := instr (.pxor f) (predOp2 (· ^^^ ·)) (s := s)

/-- PANDN. -/
def execPandn (f : Fields) (s : State) : Host.Outcome State Fault Refusal :=
  instr (.pandn f) (predOp2 fun x y => x &&& ~~~y) (s := s)

/-- PANY. -/
def execPany (f : Fields) (s : State) : Host.Outcome State Fault Refusal :=
  instr (.pany f) (fun f => do
    let (_, v) ← predLow f
    writePred f.d (boolWord (v != 0))) (s := s)

/-- PALL. -/
def execPall (f : Fields) (s : State) : Host.Outcome State Fault Refusal :=
  instr (.pall f) (fun f => do
    let (n, v) ← predLow f
    writePred f.d (boolWord (v == 2 ^ n - 1))) (s := s)

/-- PCNT. -/
def execPcnt (f : Fields) (s : State) : Host.Outcome State Fault Refusal :=
  instr (.pcnt f) (fun f => do writeInt f.d 64 false (onesIn 64 (← readPred f.a).toNat)) (s := s)

/-- PFROMG. -/
def execPfromg (f : Fields) (s : State) : Host.Outcome State Fault Refusal :=
  instr (.pfromg f) (fun f => do writePred f.d (← src64 f.a)) (s := s)

/-- PTOG. -/
def execPtog (f : Fields) (s : State) : Host.Outcome State Fault Refusal :=
  instr (.ptog f) (fun f => do writeWord f.d (← readPred f.a)) (s := s)

end Sys2Proof.Machine
end

