-- ==== Sys2Proof/Machine/Control.lean ====
section
/-! DEFINITION. Branches, loops, cues, scheduling and the end of a task (R221, R323 to R325, R330 to R333). -/

namespace Sys2Proof.Machine

/-- NOP. -/
def execNop (f : Fields) (s : State) : Host.Outcome State Fault Refusal := instr (.nop f) (fun _ => pure ()) (s := s)

/-- YIELD: its slot passes its next turn, once even under the yield hint (R330). -/
def execYield (f : Fields) (s : State) : Host.Outcome State Fault Refusal :=
  instr (.yield f) (fun _ => setMe fun x => { x with yielded := true }) (s := s)

/-- HBEAT; no effect in the control context (R233, R307). -/
def execHbeat (f : Fields) (s : State) : Host.Outcome State Fault Refusal :=
  instr (.hbeat f) (fun _ => setMe fun x => if x.task then { x with hb := 0 } else x) (s := s)

/-- A tile unit whose binding task has gone is unbound once its queue is empty (R402). -/
def State.unbindTile (s : State) (core : Coord) : State :=
  match (s.coreAt core).tile.bound with
  | none => s
  | some k =>
    if (s.ctxs.look k).isNone && (s.engQueue core 4).isEmpty then
      s.updCore core fun c => { c with tile := { c.tile with bound := none } }
    else s

/-- EXIT retires a task: its slot stays in the company's holdings, free, and its queue ends stay bound (R221). -/
def State.retireTask (s : State) (k : Nat) : State :=
  let x := s.ctx k
  let s := s.trace x.core (gtidPnum x.gtid) 4 x.gtid 0 0
  let mine (e : QEnd) : Bool := match e with
    | .task j _ => j == k
    | _ => false
  let left : QEnd := .exited x.company.toNat
  let s := { s with queues := s.queues.map fun (e : Nat × Queue) =>
    (e.1, { e.2 with prod := if mine e.2.prod then left else e.2.prod, cons := if mine e.2.cons then left else e.2.cons }) }
  let s := s.withdraw k
  let s := { s with ctxs := s.ctxs.del k }
  (s.unbindTile x.core).redecide (clusterOf x.core)

/-- EXIT. -/
def execExit (f : Fields) (s : State) : Host.Outcome State Fault Refusal :=
  instr (.exit f) (fun _ => stop fun s =>
    if (s.ctx s.cur).task then s.retireTask s.cur else s.haltControl (s.ctx s.cur).core 0x003) (s := s)

/-! ## Branches and loops (R323, R324) -/

/-- A PC-relative target (R323). -/
def relTarget (pc : Pc) (v : BitVec 21) : Pc := pc + v.signExtend 32

/-- BR. -/
def execBr (f : Fields) (s : State) : Host.Outcome State Fault Refusal :=
  instr (.br f) (fun f => do
    let pc ← here
    match f.a with
    | .i v => jump (relTarget pc v)
    | _ => pure ()) (s := s)

/-- BRX. -/
def execBrx (f : Fields) (s : State) : Host.Outcome State Fault Refusal :=
  instr (.brx f) (fun f => do
    let pc ← here
    let i ← src64 f.a
    let n ← src64 f.b
    jump (pc + 1 + BitVec.ofNat 32 (Nat.min i.toNat n.toNat))) (s := s)

/-- CALL. -/
def execCall (f : Fields) (s : State) : Host.Outcome State Fault Refusal :=
  instr (.call f) (fun f => do
    let pc ← here
    let t ← match f.a with
      | .i v => pure (relTarget pc v)
      | o => do pure ((← src64 o).setWidth 32)
    writeWord f.d ((pc + 1).setWidth 64)
    jump t) (s := s)

/-- RET. -/
def execRet (f : Fields) (s : State) : Host.Outcome State Fault Refusal :=
  instr (.ret f) (fun f => do jump ((← src64 f.a).setWidth 32)) (s := s)

/-- LOOP. -/
def execLoop (f : Fields) (s : State) : Host.Outcome State Fault Refusal :=
  instr (.loop f) (fun f => do
    let pc ← here
    let c := (← src64 f.d) - 1
    writeWord f.d c
    match f.a with
    | .i v => if c ≠ 0 then jump (relTarget pc v)
    | _ => pure ()) (s := s)

/-- BQC (R325). -/
def execBqc (f : Fields) (s : State) : Host.Outcome State Fault Refusal :=
  instr (.bqc f) (fun f => do
    let pc ← here
    match f.d, f.a, f.b with
    | .i k, .q r, .i off =>
      let (n, q) ← consumerOf r 0
      waitHeld false
      waitTldaq n
      let h ← headEntry q
      if h.fmark then entryFault r h 0
      else if h.kind = 0 then pure ()
      else if h.kind.val = k.toNat then
        takeEntries r n 1 q
        jump (relTarget pc off)
      else if k.toNat < h.kind.val then jump (relTarget pc off)
      else entryFault r h 0
    | _, _, _ => pure ()) (s := s)

/-! ## Time and events (R331 to R333) -/

/-- The instruction in flight has taken its 7 cycles (R216). -/
def State.sevenCycles (s : State) (x : Ctx) : Bool := x.readyAt ≤ s.cycle + 1

/-- A SLEEP or TWAIT issues: it stays in flight for 7 cycles at least (R331, R333). -/
def timed {α : Type} (f : Flight) : M α :=
  stop fun s => (s.enterFlight f).updCtx s.cur fun x => { x with readyAt := s.cycle + 8 }

/-- SLEEP. -/
def execSleep (f : Fields) (s : State) : Host.Outcome State Fault Refusal :=
  instr (.sleep f) (fun f => do
    let n := (← src64 f.a).toNat % 2 ^ 32
    let s ← get
    let x ← me
    match x.status with
    | .flight (.sleep start until_ ends) =>
      let stay := flight (.sleep start until_ ends)
      let code := (ends.getD 0).val
      if !s.sevenCycles x then stay
      else
        let replays := s.modeOf (gtidPnum x.gtid) (gtidLaunch x.gtid) == 2
        if !replays && ends.isNone && s.time < until_ then stay
        else
          match ← logPoint 6 (cDie x.core) 31 (code + s.time * 4) with
          | none => writeWord f.d (BitVec.ofNat 64 code)
          | some v =>
            if code = 2 then writeWord f.d 2
            else if s.time < v / 4 then stay
            else writeWord f.d (BitVec.ofNat 64 (v % 4))
    | _ => timed (.sleep s.time (s.time + n) none)) (s := s)

/-- A core that an instruction names as its target lies in the pitch, or SCOPE (R19). -/
def checkScope (c : Coord) : M Unit := do
  let s ← get
  let x ← me
  if coordValid c && (s.part (s.pnumOf x)).pitch.getLsbD (clusterOf c) then pure ()
  else fault .scope (c.setWidth 64)

/-- EVENT. -/
def execEvent (f : Fields) (s : State) : Host.Outcome State Fault Refusal :=
  instr (.event f) (fun f => do
    let c : Coord := (← src64 f.a).setWidth 16
    checkScope c
    modify fun s => s.send (.event c)) (s := s)

/-- TWAIT. -/
def execTwait (f : Fields) (s : State) : Host.Outcome State Fault Refusal :=
  instr (.twait f) (fun f => do
    let d := (← src64 f.a).toNat
    let s ← get
    let x ← me
    match x.status with
    | .flight (.twait start deadline) =>
      let stay := flight (.twait start deadline)
      if !s.sevenCycles x then stay
      else
        let replays := s.modeOf (gtidPnum x.gtid) (gtidLaunch x.gtid) == 2
        if !replays && s.time < deadline then stay
        else
          match ← logPoint 6 (cDie x.core) 31 s.time with
          | none => writeWord f.d (BitVec.ofNat 64 s.time)
          | some v => if s.time < v then stay else writeWord f.d (BitVec.ofNat 64 v)
    | _ => timed (.twait s.time d)) (s := s)

end Sys2Proof.Machine
end

