-- ==== Sys2Proof/Machine/Enqueue.lean ====
section
/-! DEFINITION. Engine queues: handles, enqueues, and the accesses of an operation to its spaces (R46, R192, R337 to R342, R407). -/

namespace Sys2Proof.Machine

/-- The handle word of an operation (R340). -/
def handleWord (core : Coord) (qsel : Nat) (id : BitVec 32) : Word :=
  BitVec.ofNat 64 (id.toNat + qsel * 2 ^ 32 + core.toNat * 2 ^ 48)

/-- The handle word of an operation. -/
def EngOp.handle (o : EngOp) : Word := handleWord o.core o.qsel o.id

/-- Depth of an engine queue (R342, R401). -/
def engDepth (qsel : Nat) : Nat := if qsel < 4 then 16 else if qsel = 4 then 8 else if qsel = 5 then 32 else 8

/-- The destination of a handle: a pending register (R339, R340). -/
def writeHandle (d : Operand) (h : Word) : M Unit :=
  match d with
  | .g r _ => setMe fun x => { x.setG r (h.setWidth 256) with ft := x.ft.set r 1 }
  | _ => pure ()

/-- The target on another package that an operation sends to: its core and its package (R357, R373). -/
def OpBody.peer : OpBody → Option (Coord × Nat)
  | .copy _ dspc _ _ _ remote _ =>
    if dspc = 1 && remote.getLsbD 29 && remote.getLsbD 28 then some (remote.extractLsb' 0 16, (remote.extractLsb' 16 12).toNat) else none
  | .message _ _ _ _ core _ pkg _ => pkg.map fun p => (core, p.toNat)
  | _ => none

/-- The tval of SCOPE for a target on another package (R337). -/
def peerTval (t : Coord × Nat) : Word := BitVec.ofNat 64 (t.1.toNat + t.2 * 2 ^ 16)

/-- What an operation for another package resolves to when it is issued with no route to it (R517). -/
def State.unrouted (s : State) (b : OpBody) : Option OpResult :=
  match b.peer with
  | none => none
  | some t => if (s.peerRoute t.2).isNone then some (.faulted .scope (peerTval t)) else none

/-- An engine enqueue: a release, which waits for room and for held stores; the operation's number (R184, R201, R342). -/
def enqueueOp (qsel : Nat) (body : OpBody) : M Nat := do
  waitHeld true
  let s ← get
  let x ← me
  if engDepth qsel ≤ (s.engQueue x.core qsel).length then waitOn .engine
  let id := BitVec.ofNat 32 ((s.coreAt x.core).opIds.getD qsel 0)
  let op : EngOp :=
    { core := x.core, qsel, id, key := s.cur, gtid := x.gtid, pnum := s.pnumOf x, cl := clusterOf x.home, company := x.company.toNat,
      fmt := x.fmt, carried := x.carried, cnt := x.cnt, mark := x.mark, home := x.home, body, done := 0, flying := 0,
      dropped := false, refused := false, taken := [], result := s.unrouted body, exportTo := none }
  let n := s.fresh
  modify fun s => { s with ops := s.ops.put n op, fresh := n + 1 }
  setCore fun c => { c with opIds := c.opIds.put qsel ((id.toNat + 1) % 2 ^ 32) }
  setMe Ctx.bump
  return n

/-- Enqueues an operation and writes its handle. -/
def enqueue (d : Operand) (qsel : Nat) (body : OpBody) : M Unit := do
  let n ← enqueueOp qsel body
  let s ← get
  match s.ops.look n with
  | some o => writeHandle d o.handle
  | none => pure ()

/-! ## A 256-bit descriptor -/

/-- The register of a descriptor operand. -/
def descOf (o : Operand) : M Vec := do
  match o with
  | .g r _ => return (← me).g[r]
  | _ => return 0

/-- The code of a space (R373). -/
def spaceCode (sp : Space) : Fin 4 :=
  match sp with
  | .g => 0
  | .s => 1
  | .l => 2

/-- The target selector of an `.s` operand, its SCOPE and XLATE_PERM faults checked (R337). -/
def sourceSel (t : Target) : M (BitVec 32) := do
  if t.space = .s then
    let _ ← sCompany t false
  return t.base.extractLsb' 96 32

end Sys2Proof.Machine
end

