-- ==== Sys2Proof/Machine/Copy.lean ====
section
/-! DEFINITION. Copy-engine instructions and the shape cache (R372 to R376, R532, R533). -/

namespace Sys2Proof.Machine

/-- The fields of a copy operand: its source or pattern, its control word and its remote target (R373). -/
structure CopyWord where
  first : Word
  ctl : Word
  remote : BitVec 32
  deriving DecidableEq, Repr

/-- Reads a copy operand; a reserved bit or a source space of 3 faults with the tval of R270 for a wider operand. -/
def copyWord (o : Operand) : M CopyWord := do
  let v ← descOf o
  let c : CopyWord := { first := laneOf v 0, ctl := laneOf v 1, remote := v.extractLsb' 128 32 }
  if c.ctl.extractLsb' 29 35 ≠ 0 ∨ c.ctl.extractLsb' 24 2 = (3 : BitVec 2) then fault .operandForm c.first
  return c

/-- LEN of a control word. -/
def CopyWord.len (c : CopyWord) : Nat := (c.ctl.extractLsb' 0 24).toNat
/-- SSPC of a control word. -/
def CopyWord.sspc (c : CopyWord) : Fin 4 := (c.ctl.extractLsb' 24 2 : BitVec 2).toFin
/-- CH of a control word. -/
def CopyWord.channel (c : CopyWord) : Nat := (c.ctl.extractLsb' 26 2).toNat
/-- SNA of a control word. -/
def CopyWord.sna (c : CopyWord) : Bool := c.ctl.getLsbD 28

/-- A remote target names a valid core, and on this package one of the pitch (R19, R337). -/
def checkRemote (sel : BitVec 32) : M Unit := do
  if sel.getLsbD 29 then
    let core : Coord := sel.extractLsb' 0 16
    if sel.getLsbD 28 then (if coordValid core then pure () else fault .scope (core.setWidth 64)) else checkScope core

/-- A copy with one run. -/
def oneRun (src dst len : Nat) : CopyShape :=
  { src, dst, len, rows := 1, planes := 1, srcRow := 0, srcPlane := 0, dstRow := 0, dstPlane := 0 }

/-- Counts an operation of the copy engine (R482). -/
def countCopy : M Unit := do
  let x ← me
  modify fun s => s.countCore x.core 8 0

/-- CPY and CFILL. -/
def plainCopy (fill : Bool) (f : Fields) : M Unit := do
  let t ← mOperand f f.a 1
  let c ← copyWord f.b
  if t.space = .s then checkRemote c.remote
  let body : OpBody := .copy c.sspc (spaceCode t.space) c.sna f.md.na (if fill then some c.first else none) c.remote
    (oneRun c.first.toNat t.addr c.len)
  enqueue f.d c.channel body
  countCopy

/-- CPY. -/
def execCpy (f : Fields) (s : State) : Host.Outcome State Fault Refusal := instr (.cpy f) (plainCopy false) (s := s)

/-- CFILL. -/
def execCfill (f : Fields) (s : State) : Host.Outcome State Fault Refusal := instr (.cfill f) (plainCopy true) (s := s)

/-! ## CPYS (R375, R376) -/

/-- The shape cache gives a record, most recently used first (R376). -/
def Core.useShape (c : Core) (va : Nat) (r : BitVec 512) : Core :=
  { c with shapes := ((va, r) :: c.shapes.filter fun (e : Nat × BitVec 512) => e.1 != va).take 8 }

/-- The record at an address: the cache's, or 64 bytes of memory read as one plain load, whose allocation NA selects, performed after every
earlier access of the task, held ones too (R372, R376, R532). -/
def shapeRecord (f : Fields) (va : Nat) : M (BitVec 512) := do
  let c ← myCore
  match c.shapes.find? fun (e : Nat × BitVec 512) => e.1 == va with
  | some (_, r) =>
    setCore fun c => c.useShape va r
    return r
  | none =>
    let h : How := { write := false, atomic := false, acquire := false, release := false, na := f.md.na, ar := false, mig := f.h.mig, scope := 0 }
    waitHeld true
    let r := BitVec.ofNat 512 (leValue (← gRead h false false va [(0, va, 64)]))
    setCore fun c => c.useShape va r
    return r

/-- Word i of a record. -/
def recWord (r : BitVec 512) (i : Nat) : Word := r.extractLsb' (64 * i) 64

/-- A signed half of a record's word. -/
def recStride (w : Word) (high : Bool) : Int := (w.extractLsb' (if high then 32 else 0) 32).toInt

/-- The operation of a captured record (R375). -/
def shapeBody (va : Nat) (sna : Bool) (r : BitVec 512) : OpBody :=
  let s := recWord r 0
  let d := recWord r 1
  let n := recWord r 2
  let p := recWord r 3
  if s.extractLsb' 56 2 = (3 : BitVec 2) ∨ d.extractLsb' 56 2 = (3 : BitVec 2) ∨ s.extractLsb' 58 6 ≠ 0 ∨ d.extractLsb' 58 6 ≠ 0 ∨
      p.extractLsb' 32 32 ≠ 0 ∨ recWord r 6 ≠ 0 ∨ recWord r 7 ≠ 0 then .badShape va
  else
    .copy (s.extractLsb' 56 2 : BitVec 2).toFin (d.extractLsb' 56 2 : BitVec 2).toFin sna false none 0
      { src := (s.extractLsb' 0 56).toNat, dst := (d.extractLsb' 0 56).toNat, len := (n.extractLsb' 0 32).toNat,
        rows := (n.extractLsb' 32 32).toNat, planes := (p.extractLsb' 0 32).toNat, srcRow := recStride (recWord r 4) false,
        srcPlane := recStride (recWord r 4) true, dstRow := recStride (recWord r 5) false, dstPlane := recStride (recWord r 5) true }

/-- What a CPYS that stops behind its captured record leaves. Where it waits, or stays in flight, its load has performed once and for all:
the record, the load's effects and the cache's use stay, and only the PC is that of its issue; otherwise nothing of it stays (R376). -/
def State.keepShape (issued loaded : State) (r : BitVec 512) (enter : State → State) : State :=
  let s := enter issued
  let kept := enter (loaded.updCtx loaded.cur fun x => { x with pc := (issued.ctx issued.cur).pc, shape := some r })
  match (s.ctx s.cur).status with
  | .waiting _ => kept
  | .flight _ => kept
  | _ => s

/-- The record that a CPYS captured when it issued (R376). -/
def capturedRecord (f : Fields) (va : Nat) : M (Option (BitVec 512) × BitVec 512) := do
  let x ← me
  match x.shape with
  | some r => return (none, r)
  | none =>
    let r ← shapeRecord f va
    return (some r, r)

/-- An action that stops keeps a record that its instruction has captured (R376). -/
def keeping (r : Option (BitVec 512)) (m : M Unit) : M Unit :=
  match r with
  | none => m
  | some r => fun loaded =>
    match m loaded with
    | .ok e => .ok e
    | .error enter => .error fun issued => issued.keepShape loaded r enter

/-- CPYS. -/
def execCpys (f : Fields) (s : State) : Host.Outcome State Fault Refusal :=
  instr (.cpys f) (fun f => do
    let t ← mOperand f f.a 64
    let w ← src64 f.b
    if w.extractLsb' 3 61 ≠ 0 then fault .operandForm w
    checkAlign t.addr 64
    let (new, r) ← capturedRecord f t.addr
    keeping new (enqueue f.d (w.extractLsb' 0 2).toNat (shapeBody t.addr (w.getLsbD 2) r))
    countCopy) (s := s)

/-- CPYQ: its entries carry the tag that the latch holds at its enqueue (R141, R373). With offsets of the window written and not published it
neither faults nor waits (log entry 107). -/
def execCpyq (f : Fields) (s : State) : Host.Outcome State Fault Refusal :=
  instr (.cpyq f) (fun f => do
    let c ← copyWord f.b
    match f.a with
    | .q r =>
      let (n, q) ← producerOf r 0
      if c.len % (if q.wide then 32 else 8) ≠ 0 then fault .operandForm c.ctl
      let s ← get
      let x ← me
      let tag := if q.tagged then some (s.pushTag x) else none
      enqueue f.d c.channel (.toQueue c.sspc c.sna c.first.toNat c.len r n tag)
      countCopy
    | _ => pure ()) (s := s)

/-- SRFENCE (R376). -/
def execSrfence (f : Fields) (s : State) : Host.Outcome State Fault Refusal :=
  instr (.srfence f) (fun f => do
    let a := (← src64 f.a).toNat
    setCore fun c => { c with shapes := if a = 0 then [] else c.shapes.filter fun (e : Nat × BitVec 512) => e.1 != a }) (s := s)

end Sys2Proof.Machine
end

