-- ==== Sys2Proof/Machine/Tasks.lean ====
section
/-! DEFINITION. Tasks and the box office: SPAWN, MIGRATE, CLAIM, ACQ, ACQT, REL and BOXQ (R213, R219, R220, R240 to R261, R369 to R371,
R536, R537). -/

namespace Sys2Proof.Machine

/-! ## Targets -/

/-- The core of a coordinate field, 0xFFFF naming the current one (R244, R369, R370). -/
def coreField (w : Word) (at_ : Nat) : M Coord := do
  let c : Coord := w.extractLsb' at_ 16
  if c = 0xFFFF then return (← me).core else return c

/-- NO_CLAIM with the target coordinate (R370). -/
def noClaim {α : Type} (c : Coord) : M α := fault .noClaim (c.setWidth 64)

/-! ## Requests (R251 to R254) -/

/-- Status code of a refusal (R248). -/
def BoxAns.code : BoxAns → Nat
  | .granted => 0
  | .notSafe => 1
  | _ => 2

/-- A slot on a core of a cluster for the executing task's group: the slot, or the status of a refusal (R220, R253, R254). -/
def takeSlot (cl : Nat) (core : Coord) (waits : Bool) : M (Except Nat Nat) := do
  let s ← get
  let x ← me
  let n := x.company.toNat
  match s.myReq cl (.slot core) with
  | some r =>
    match r.phase with
    | .granted slot _ _ =>
      modify fun s => s.dropReqs cl
      return .ok slot
    | .done w =>
      modify fun s => s.dropReqs cl
      return .error w.toNat
    | _ => waitOn (reqWait waits)
  | none =>
    match s.heldSlot cl n core with
    | some i => return .ok i
    | none =>
      if s.boxBusy cl || s.detoured then
        stop fun s => ({ s with detours := s.detours.filter (· != s.cur) }.addReq cl n (.slot core) waits .fresh).enterWait (reqWait waits)
      else
        match s.admitSlot cl n core with
        | (_, some i, s') =>
          set s'
          return .ok i
        | (a, none, s') =>
          if waits then
            stop fun s =>
              let r := s.admitSlot cl n core
              (r.2.2.addReq cl n (.slot core) true (.refused (r.1 == .notSafe))).enterWait .box
          else
            set s'
            return .error a.code

/-! ## SPAWN (R213, R219, R220, R369) -/

/-- The number of a core in a task index (R213). -/
def coreNumber (c : Coord) : Nat := cDie c * 256 + cRow c * 16 + cCol c

/-- The next task index that a core gives for a launch (R213); a parked child's is never 0 (R367). -/
def State.nextIndex (s : State) (core : Coord) (key : Nat) (parked : Bool) : Nat × State :=
  let k := (s.coreAt core).created.getD key 0
  let k := if parked && coreNumber core = 0 && k % 8192 = 0 then k + 1 else k
  (coreNumber core * 8192 + k % 8192, s.updCore core fun c => { c with created := c.created.put key ((k + 1) % 8192) })

/-- A GTID (R212). -/
def makeGtid (pnum launch index : Nat) : Word := BitVec.ofNat 64 (index * 2 ^ 16 + launch * 2 ^ 40 + pnum * 2 ^ 58)

/-- A new task before its first instruction (R219, R222). -/
def newTask (gtid : Word) (home : Coord) (slot : Nat) (img : BitVec 16) (company : BitVec 4) (stage : Bool) (pc : Pc)
    (g : Vector Vec 16) : Ctx :=
  { Ctx.control home with task := true, g, pc, gtid, home, img, company, stage, slot := Fin.ofNat 16 slot, pinned := false,
                          arriving := true }

/-- Registers of a child: copies in the declared range, zero elsewhere (R219). -/
def childRegs (x : Ctx) (first count : Nat) : Vector Vec 16 :=
  Vector.ofFn fun (i : Fin 16) => if first ≤ i.val ∧ i.val < first + count then x.g[i] else 0

/-- Registers that SPAWN copies are read: a pending handle waits, a resolved one is observed (R304, R369). -/
def readRegs (first count : Nat) : M Unit := do
  let l := (List.finRange 16).filter fun i => first ≤ i.val && i.val < first + count
  l.forM fun r => waitHandle (.g r 0)
  l.forM readFuture

/-- A limit on the value of an operand that the state decides: on an immediate it is a check of the field, 1 for A and 2 for B, at step 4 of
R269 (R270). -/
def fieldLimit (which : Nat) (o : Operand) (bad : State → Word → Bool) : M Unit := do
  match o with
  | .i v => if bad (← get) (v.signExtend 64) then fault .operandForm (BitVec.ofNat 64 ((operandRaw o 0).toNat + which * 2 ^ 24))
  | _ => pure ()

/-- The entries of the executing task's image (R297). -/
def State.entries (s : State) : List Nat := ((s.images.look (s.ctx s.cur).img.toNat).map Image.entries).getD []

/-- ENTRY of a spawn word is at or above the image's NENTRY (R369). -/
def noEntry (s : State) (w : Word) : Bool := s.entries.length ≤ (w.extractLsb' 16 6).toNat

/-- Creates a child as SPAWN does, or gives the status of a refused slot (R367, R369). -/
def makeChild (w : Word) (parked : Bool) : M (Except Nat (Ctx × Coord)) := do
  let x ← me
  let s ← get
  let first := (w.extractLsb' 22 4).toNat
  let count := (w.extractLsb' 26 5).toNat
  let entry := (w.extractLsb' 16 6).toNat
  if w.extractLsb' 32 32 ≠ 0 ∨ 16 < count ∨ 16 < first + count ∨ noEntry s w then fault .operandForm w
  let core ← coreField w 0
  checkScope core
  let cl := clusterOf core
  match s.groupCompany? x cl with
  | none => noClaim core
  | some co =>
    readRegs first count
    waitHeld true
    match ← takeSlot cl core (!w.getLsbD 31) with
    | .error a => return .error a
    | .ok slot =>
      let x ← me
      let (index, s) := (← get).nextIndex core (launchKey (gtidPnum x.gtid) (gtidLaunch x.gtid)) parked
      set s
      let pc : Pc := BitVec.ofNat 32 (((s.images.look x.img.toNat).map Image.base).getD 0 + s.entries.getD entry 0)
      let child := newTask (makeGtid (gtidPnum x.gtid) (gtidLaunch x.gtid) index) core slot x.img x.company co.stage pc
        (childRegs x first count)
      setMe Ctx.bump
      return .ok ({ child.merge x.carried with status := if parked then .parked else .idle }, core)

/-- SPAWN. -/
def execSpawn (f : Fields) (s : State) : Host.Outcome State Fault Refusal :=
  instr (.spawn f) (fun f => do
    let w ← src64 f.a
    match ← makeChild w false with
    | .error a => writeWord f.d (BitVec.ofNat 64 a)
    | .ok (child, core) =>
      modify fun s => s.send (.spawn child core)
      writeWord f.d child.gtid) (check := fun f => fieldLimit 1 f.a noEntry) (s := s)

/-! ## MIGRATE (R223 to R225, R370) -/

/-- Why a migration is refused before any slot is sought (R370). -/
def State.migrateCode (s : State) (core : Coord) : Nat :=
  let x := s.ctx s.cur
  if x.pinned then 1
  else if x.pendingHandle then 2
  else if s.held.any fun h => h.2.key == s.cur then 3
  else if cDie core ≠ cDie x.core then 5
  else if (s.groupCompany? x (clusterOf core)).isNone then 6
  else 0

/-- A slot for a migration: within the task's own cluster only one that its company already holds free (R254). -/
def migrateSlot (core : Coord) (waits : Bool) : M (Except Nat Nat) := do
  let s ← get
  let x ← me
  if clusterOf core = clusterOf x.core then
    match s.heldSlot (clusterOf core) x.company.toNat core with
    | some i => return .ok i
    | none => if waits then waitOn .box else return .error 2
  else takeSlot (clusterOf core) core waits

/-- MIGRATE. -/
def execMigrate (f : Fields) (s : State) : Host.Outcome State Fault Refusal :=
  instr (.migrate f) (fun f => do
    let w ← src64 f.a
    if w.extractLsb' 17 47 ≠ 0 then fault .operandForm w
    let nowait := w.getLsbD 16
    let core ← coreField w 0
    checkScope core
    let x ← me
    let done (code : Nat) : M Unit := do
      setMe fun x => { x with streak := none }
      writeWord f.d (BitVec.ofNat 64 code)
    if core = x.core then done 0
    else
      let code := (← get).migrateCode core
      if code ≠ 0 then
        if nowait then done code
        else if code = 6 then noClaim core
        else fault .migrateDenied (BitVec.ofNat 64 code)
      else if !x.asyncs.isEmpty then stop fun s => (s.withdraw s.cur).updCtx s.cur fun x => { x.settle with status := .idle }
      else
        match ← migrateSlot core (!nowait) with
        | .error _ => done 4
        | .ok slot =>
          done 0
          let s' ← get
          stop fun _ => (s'.finish f.h).depart s'.cur core slot) (s := s)

/-! ## Claims and holdings (R242 to R249) -/

/-- The core that a box-office word names: on the task's die and in its pitch (R242). -/
def boxCore (w : Word) (at_ : Nat) : M Coord := do
  let c ← coreField w at_
  let s ← get
  let x ← me
  if coordValid c && cDie c == cDie x.core && (s.part (s.pnumOf x)).pitch.getLsbD (clusterOf c) then return c
  else fault .scope (c.setWidth 64)

/-- The claim of a claim vector (R244). -/
def claimOf (w : Word) : Triple :=
  { slots := (w.extractLsb' 0 7).toNat, banks := (w.extractLsb' 8 6).toNat, tiles := (w.extractLsb' 16 5).toNat }

/-- A company with a claim and no holdings (R245). -/
def Company.fresh (pnum launch : Nat) (stage : Bool) (claim : Triple) : Company :=
  { pnum, launch, stage, claim, slots := [], tiles := [], susp := false, busy := false, reason := 0, cgrb := 0, stopping := false,
    savedBanks := [], savedTiles := [], savedSlots := [], savedLocals := [], savedUnits := [], resuming := false }

/-- Sets a claim in a cluster and gives its status (R245, R536). -/
def State.setClaim (s : State) (cl n pnum launch : Nat) (claim : Triple) : Nat × State :=
  let c := s.clusterAt cl
  let test (c : Cluster) : Bool :=
    (c.holdings n).le claim && c.safe (fun i => ((c.companies.look i).map Company.claim).getD .zero) c.holdings
  match c.companies.look n with
  | some co =>
    if !co.inGroup pnum launch then (2, s)
    else
      let c' : Cluster := { c with companies := c.companies.put n { co with claim } }
      if test c' then (0, (s.setCluster cl c').redecide cl) else (1, s)
  | none =>
    if 16 ≤ c.companies.length then (2, s)
    else
      let c' : Cluster := { c with companies := c.companies.put n (Company.fresh pnum launch false claim) }
      if test c' then
        let s := (s.setCluster cl c').redecide cl
        (0, { s with irqs := s.irqs ++ [.companyCreated cl n] })
      else (1, s)

/-- CLAIM. -/
def execClaim (f : Fields) (s : State) : Host.Outcome State Fault Refusal :=
  instr (.claim f) (fun f => do
    let w ← src64 f.a
    let t := claimOf w
    if 120 < t.slots ∨ 32 < t.banks ∨ 16 < t.tiles then fault .operandForm w
    let core ← boxCore w 32
    let x ← me
    let (a, s) := (← get).setClaim (clusterOf core) x.company.toNat (gtidPnum x.gtid) (gtidLaunch x.gtid) t
    set s
    writeWord f.d (BitVec.ofNat 64 a)) (s := s)

/-! ## ACQ and ACQT (R247 to R253) -/

/-- The resources of a request word (R247). -/
def requestOf (w : Word) : Triple :=
  { slots := (w.extractLsb' 0 4).toNat, banks := (w.extractLsb' 8 6).toNat, tiles := (w.extractLsb' 16 3).toNat }

/-- The mode of the banks of a request (R247). -/
def requestMode (w : Word) : BankMode := if w.extractLsb' 14 2 = (1 : BitVec 2) then .scratch else .fifo

/-- OPERAND_FORM of a request word (R247). DESIGN CHOICE (log entry 128): a CORE that is no valid coordinate is taken by its COL, so that a request
for macros with a COL of 0 or 3 modulo 4 has this fault, and not SCOPE. -/
def requestBad (w : Word) (core : Coord) : Bool :=
  let q := requestOf w
  let mode := (w.extractLsb' 14 2).toNat
  32 < q.banks || 4 < q.tiles || (0 < q.banks && (mode == 0 || mode == 3)) || (0 < q.tiles && !isTile core)

/-- An immediate request word asks for macros on a stream core (R247). -/
def macrosOnStream (s : State) (w : Word) : Bool :=
  let core : Coord := w.extractLsb' 32 16
  0 < (requestOf w).tiles && !isTile (if core = 0xFFFF then (s.ctx s.cur).core else core)

/-- The result word of a grant (R248). -/
def grantWord (slot : Nat) (tiles : BitVec 4) (lbanks : BitVec 32) : Word :=
  BitVec.ofNat 64 (slot * 2 ^ 8 + tiles.toNat * 2 ^ 12 + lbanks.toNat * 2 ^ 16)

/-- Every bank of a grant has been switched (R251). -/
def Cluster.switched (c : Cluster) (n : Nat) (lbanks : BitVec 32) : Bool :=
  (c.banksOf n).all fun b => !lbanks.getLsbD (c.bankAt b).lbank || (c.bankAt b).next.isNone

/-- A request is decided now: its result word, or the request stays at the box office and the instruction with it. -/
def decideNow (cl n : Nat) (w : Word) (core : Coord) (waits : Bool) : M Word := do
  let s ← get
  let q := requestOf w
  let a := (s.clusterAt cl).boxCheck n q core false
  let count (s : State) : State := s.countBox cl a
  match a with
  | .exceeded => fault .claimExceeded w
  | .granted =>
    if q.banks = 0 then
      let (g, s) := (count s).boxGrant cl n q core (requestMode w)
      set s
      return grantWord g.slot g.tiles g.lbanks
    else
      stop fun s =>
        let (g, s) := (count s).boxGrant cl n q core (requestMode w)
        (s.addReq cl n (.acq w) waits (.granted g.slot g.tiles g.lbanks)).enterWait (reqWait waits)
  | _ =>
    if waits then stop fun s => ((count s).addReq cl n (.acq w) waits (.refused (a == .notSafe))).enterWait .box
    else
      modify count
      return BitVec.ofNat 64 a.code

/-- A request of ACQ or ACQT: its result word when it completes (R250 to R253). -/
def acquire (w : Word) (waits : Bool) : M Word := do
  let core ← coreField w 32
  if requestBad w core then fault .operandForm w
  let core ← boxCore w 32
  let x ← me
  let s ← get
  let cl := clusterOf core
  let n := x.company.toNat
  match s.myReq cl (.acq w) with
  | some r =>
    match r.phase with
    | .granted slot tiles lbanks =>
      if (s.clusterAt cl).switched n lbanks then
        modify fun s => s.dropReqs cl
        return grantWord slot tiles lbanks
      else waitOn (reqWait waits)
    | .done v =>
      modify fun s => s.dropReqs cl
      return v
    | _ => waitOn (reqWait waits)
  | none =>
    if (s.groupCompany? x cl).isNone then noClaim core
    else if requestOf w = .zero then return 0
    else if s.boxBusy cl || s.detoured then
      if (s.clusterAt cl).boxCheck n (requestOf w) core false = .exceeded then fault .claimExceeded w
      else
        stop fun s => ({ s with detours := s.detours.filter (· != s.cur) }.addReq cl n (.acq w) waits .fresh).enterWait (reqWait waits)
    else decideNow cl n w core waits

/-- ACQ. -/
def execAcq (f : Fields) (s : State) : Host.Outcome State Fault Refusal :=
  instr (.acq f) (fun f => do
    let w ← src64 f.a
    let v ← acquire w true
    writeWord f.d v) (check := fun f => fieldLimit 1 f.a macrosOnStream) (s := s)

/-- ACQT. -/
def execAcqt (f : Fields) (s : State) : Host.Outcome State Fault Refusal :=
  instr (.acqt f) (fun f => do
    let w ← src64 f.a
    let v ← acquire w false
    writePred f.b (boolWord (v &&& 3 == 0))
    writeWord f.d v) (check := fun f => fieldLimit 1 f.a macrosOnStream) (s := s)

/-! ## REL (R255, R256) -/

/-- A FIFO bank holds the ring of a queue with a bound end (R255). -/
def State.ringBound (s : State) (cl n lbank : Nat) : Bool :=
  s.queues.any fun e =>
    let here := match e.2.place with
      | .ring a b c _ => a == cl && b == n && c == lbank
      | .bridge a b c _ => a == cl && b == n && c == lbank
      | _ => false
    here && (e.2.prod.isBound || e.2.cons.isBound)

/-- The named resources can be returned, by the company of the task's group, or by a task whose group has none there, which holds nothing
(R255). -/
def State.relOk (s : State) (cl n : Nat) (co : Option Company) (core : Coord) (slots tiles lbanks : List Nat) : Bool :=
  let c := s.clusterAt cl
  match co with
  | none => slots.isEmpty && tiles.isEmpty && lbanks.isEmpty
  | some co =>
    slots.all (fun i => i != 0 && co.slots.contains (core, i) && !s.slotBusy core i) &&
      tiles.all (fun i => co.tiles.contains (core, i)) &&
      lbanks.all fun l =>
        (c.banksOf n).any (fun b => (c.bankAt b).lbank == l) && !s.ringBound cl n l

/-- Returns resources. -/
def State.release (s : State) (cl n : Nat) (core : Coord) (slots tiles lbanks : List Nat) : State :=
  let s := s.updCompany cl n fun co =>
    { co with slots := co.slots.filter (fun e => !(e.1 == core && slots.contains e.2)),
              tiles := co.tiles.filter (fun e => !(e.1 == core && tiles.contains e.2)) }
  let s := tiles.foldl (fun (s : State) i => s.updCore core fun k => { k with tile := { k.tile with b := k.tile.b.del i } }) s
  let banks := ((s.clusterAt cl).banksOf n).filter fun b => lbanks.contains ((s.clusterAt cl).bankAt b).lbank
  (banks.foldl (fun (s : State) b => s.giveUpBank cl b) s).redecide cl

/-- The numbers of the bits that are set. -/
def bitList {w : Nat} (v : BitVec w) : List Nat := (List.range w).filter v.getLsbD

/-- REL: a release operation; it waits for the tile commands of the core that were enqueued before it issued, and then returns macros. DESIGN CHOICE (log entry 113): the tval of
its OPERAND_FORM is the low 64 bits of the release word, and the SCOPE of a bad CORE comes before it. -/
def execRel (f : Fields) (s : State) : Host.Outcome State Fault Refusal :=
  instr (.rel f) (fun f => do
    let v ← match f.a with
      | .g r _ => do pure ((← me).g[r])
      | _ => pure 0
    let w : Word := v.setWidth 64
    let core ← boxCore w 32
    let x ← me
    let s ← get
    let cl := clusterOf core
    let n := x.company.toNat
    let slots := bitList (w.extractLsb' 0 16)
    let tiles := bitList (w.extractLsb' 16 4)
    let lbanks := bitList (v.extractLsb' 64 32)
    if !s.relOk cl n (s.groupCompany? x cl) core slots tiles lbanks then fault .operandForm w
    waitHeld true
    if !tiles.isEmpty && (s.engQueue core 4).any fun e => e.1 < x.since.getD s.fresh then waitOn .engine
    modify fun s => s.release cl n core slots tiles lbanks
    setMe fun x => if x.task then x.bump else x) (s := s)

/-! ## BOXQ (R261) -/

/-- The four words of BOXQ, in one snapshot. DESIGN CHOICE (log entry 119): CORE of words 1 and 2 is 0, and the claim and holdings of a group
that has no company in the cluster read as 0. -/
def State.boxWords (s : State) (x : Ctx) (core : Coord) : Vec :=
  let cl := clusterOf core
  let c := s.clusterAt cl
  let freeSlots := ((clusterCores cl).map fun k => (c.freeSlots k).length).sum
  let freeTiles := ((clusterCores cl).map fun k => (c.freeMacros k).length).sum
  let pool : Triple := { slots := freeSlots, banks := c.freeBanks.length, tiles := freeTiles }
  let co := s.groupCompany? x cl
  let claim := (co.map Company.claim).getD .zero
  let holds := if co.isSome then c.holdings x.company.toNat else .zero
  BitVec.ofNat 256 (pool.word (clusterCoord cl).toNat + claim.word 0 * 2 ^ 64 + holds.word 0 * 2 ^ 128 +
    ((c.freeSlots core).length + (c.freeMacros core).length * 2 ^ 4) * 2 ^ 192)

/-- BOXQ. -/
def execBoxq (f : Fields) (s : State) : Host.Outcome State Fault Refusal :=
  instr (.boxq f) (fun f => do
    let w ← src64 f.a
    let core ← boxCore w 0
    writeVec f.d ((← get).boxWords (← me) core)) (s := s)

end Sys2Proof.Machine
end

