-- ==== Sys2Proof/Machine/Futures.lean ====
section
/-! DEFINITION. Futures in registers and future cells in memory (R339, R341, R363 to R368). -/

namespace Sys2Proof.Machine

/-! ## Handles in registers (R364) -/

/-- The register of a handle operand. -/
def handleReg (o : Operand) : Fin 16 :=
  match o with
  | .g r _ => r
  | _ => 0

/-- FWAIT. -/
def execFwait (f : Fields) (s : State) : Host.Outcome State Fault Refusal :=
  instr (.fwait f) (fun f => do
    let r := handleReg f.a
    if (← me).ft[r] = 1 then waitOn .future
    readFuture r) (s := s)

/-- FTEST. -/
def execFtest (f : Fields) (s : State) : Host.Outcome State Fault Refusal :=
  instr (.ftest f) (fun f => do
    let r := handleReg f.a
    let t := (← me).ft[r]
    if t = 1 then writePred f.d 0
    else
      observe r
      writePred f.d (if t = 0 then 1 else 3)) (s := s)

/-- The pending operation that a handle word names. -/
def State.opOf (s : State) (h : Word) : Option (Nat × EngOp) := s.ops.find? fun e => e.2.handle == h && e.2.result.isNone

/-- FCANCEL: an operation of this core, not a join, performs nothing more and resolves CANCELLED. -/
def execFcancel (f : Fields) (s : State) : Host.Outcome State Fault Refusal :=
  instr (.fcancel f) (fun f => do
    let r := handleReg f.a
    let x ← me
    if x.ft[r] = 1 then
      match (← get).opOf ((x.g[r]).setWidth 64) with
      | some (n, o) =>
        if o.qsel ≠ 6 ∧ o.core = x.core then
          modify fun s => { s with ops := s.ops.put n { o with result := some .cancelled } }
      | none => pure ()) (s := s)

/-! ## Cells (R365, R366) -/

/-- A future cell. -/
structure Cell where
  fcode : Nat
  cont : Nat
  join : Nat
  state : Nat
  val : Nat
  deriving DecidableEq, Repr

/-- Reads a cell's 16 bytes. -/
def cellOf (d : List Byte) : Cell :=
  let s := leValue (d.take 8)
  { fcode := s % 2 ^ 32, cont := s / 2 ^ 32 % 2 ^ 24, join := s / 2 ^ 56 % 2 ^ 6, state := s / 2 ^ 62 % 4, val := leValue (d.drop 8) }

/-- The state word of a cell. -/
def Cell.word (c : Cell) : Nat := c.fcode + c.cont * 2 ^ 32 + c.join * 2 ^ 56 + c.state * 2 ^ 62

/-- The 16 bytes of a cell. -/
def Cell.bytes (c : Cell) : List Byte := leBytes 8 c.word ++ leBytes 8 c.val

/-- FRES: the cell after it, and whether its continuation starts; none where the cell is not PENDING. -/
def Cell.fres (c : Cell) (v : Nat) : Option (Cell × Bool) :=
  if c.state ≠ 0 then none
  else
    let c := { c with val := (c.val + v) % 2 ^ 64 }
    if c.join ≤ 1 then some ({ c with state := 1, join := 0 }, c.cont != 0) else some ({ c with join := c.join - 1 }, false)

/-- FFAIL. -/
def Cell.ffail (c : Cell) (code : Nat) : Option (Cell × Bool) :=
  if c.state ≠ 0 then none else some ({ c with state := 2, join := 0, fcode := code % 2 ^ 32 }, c.cont != 0)

/-- The write of a cancelled operation (R368). -/
def Cell.cancel (c : Cell) : Option (Cell × Bool) :=
  if c.state ≠ 0 then none else some ({ c with state := 3, join := 0 }, c.cont != 0)

/-- The core of a task index (R213, R366). -/
def indexCore (i : Nat) : Coord := mkCoord (i / 2 ^ 21 % 8) (i / 2 ^ 17 % 16) (i / 2 ^ 13 % 16)

/-- The cell of an operand: its address, aligned (R363). -/
def cellTarget (f : Fields) (o : Operand) : M Target := do
  let t ← mOperand f o 16
  checkAlign t.addr 16
  return t

/-- Cluster and record key of an address that the instruction has translated. -/
def placeKey (addr : Nat) : M (Nat × RelKey) := do
  let l ← translateVa addr true false
  let p : Place := { off := 0, va := addr, pa := leafAddr l.entry l.level addr, len := 16, leaf := l }
  return p.key

/-- How a cell operation accesses its cell: an atomic (R365). -/
def cellHow (f : Fields) (t : Target) (acquire release : Bool) : How :=
  { write := true, atomic := true, acquire, release, na := false, ar := false, mig := f.h.mig, scope := t.scope }

/-- Sends a start to the core of a task index (R366). -/
def sendStart (index : Nat) (k : Carried) : M Unit := modify fun s => s.send (.start (indexCore index) index (some k))

/-- A precise fault that the state of a cell raises at its home: what the access has counted stays counted (R482). -/
def cellFault {α : Type} (code : FaultCode) (tval : Word) : M α := do
  let t ← get
  stop fun s => ({ s with counts := t.counts, countAt := t.countAt } : State).faultHere code tval

/-- FRES, FFAIL and FEXPORT's update of its own: a release at the cell's home in one step, DOUBLE_RESOLVE where the cell is not
PENDING (R366, R368). One that never performs, its new translation having faulted, ends without an effect (R101, log entry 101). -/
def cellRelease (f : Fields) (t : Target) (op : Cell → Option (Cell × Bool)) : M Unit := do
  waitHeld true
  if !(← atomicLost) then
    let before ← me
    let old ← gAtomic (cellHow f t false true) t.addr 16 (fun d => (op (cellOf d)).map fun e => e.1.bytes) (cell := true)
    let c := cellOf old
    match op c with
    | none => cellFault .doubleResolve (BitVec.ofNat 64 c.word)
    | some (_, starts) =>
      if starts then
        let (cl, key) ← placeKey t.addr
        let s ← get
        let k := if before.task then (s.clusterAt cl).withRecord key (gtidPnum before.gtid) before.carried else before.carried
        sendStart c.cont k

/-- FINIT: a plain 16-byte write that performs in one step. -/
def execFinit (f : Fields) (s : State) : Host.Outcome State Fault Refusal :=
  instr (.finit f) (fun f => do
    let t ← cellTarget f f.d
    let c ← src64 f.a
    if c = 0 ∨ 63 < c.toNat then fault .operandForm c
    waitHeld false
    let cell : Cell := { fcode := 0, cont := 0, join := c.toNat, state := 0, val := 0 }
    let h : How := { write := true, atomic := false, acquire := false, release := false, na := false, ar := false, mig := f.h.mig, scope := t.scope }
    gWrite h false false t.addr cell.bytes) (s := s)

/-- FRES. -/
def execFres (f : Fields) (s : State) : Host.Outcome State Fault Refusal :=
  instr (.fres f) (fun f => do
    let t ← cellTarget f f.d
    let v ← src64 f.a
    cellRelease f t fun c => c.fres v.toNat) (s := s)

/-- FFAIL. -/
def execFfail (f : Fields) (s : State) : Host.Outcome State Fault Refusal :=
  instr (.ffail f) (fun f => do
    let t ← cellTarget f f.d
    let v ← src64 f.a
    cellRelease f t fun c => c.ffail v.toNat) (s := s)

/-- A task that finds a cell resolved merges what its release record holds, whatever the homes (R186, R187). -/
def mergeCell (cl : Nat) (key : RelKey) : M Unit := do
  let s ← get
  setMe fun x =>
    if !x.task then x
    else match (s.clusterAt cl).recordFor key x with
      | none => x
      | some r => (x.mergeCarrier r.carrier).acquireCells r r.cells.keys

/-- FWHEN: it parks a child and registers it at the cell, or starts it where the cell has resolved: the start carries the cell's release
record (R186, R187, R201, R366, R367). One that never performs, its new translation having faulted, discards the child, and D receives a free
value (R101, log entry 101). -/
def execFwhen (f : Fields) (s : State) : Host.Outcome State Fault Refusal :=
  instr (.fwhen f) (fun f => do
    let t ← cellTarget f f.a
    let w ← src64 f.b
    let before ← me
    match ← makeChild w true with
    | .error a => writeWord f.d (BitVec.ofNat 64 a)
    | .ok (child, core) =>
      if ← atomicLost then return ← writeWord f.d (BitVec.ofNat 64 (leValue (← lostAtomic 8)))
      let index := (gtidIndex child.gtid).toNat
      let old ← gAtomic (cellHow f t true false) t.addr 16 fun d =>
        let c := cellOf d
        if c.cont ≠ 0 then none else some { c with cont := index }.bytes
      let c := cellOf old
      if c.cont ≠ 0 then cellFault .operandForm (BitVec.ofNat 64 c.word)
      modify fun s => s.send (.spawn child core)
      if c.state ≠ 0 then
        let (cl, key) ← placeKey t.addr
        mergeCell cl key
        let s ← get
        sendStart index (if before.task then (s.clusterAt cl).withRecord key (gtidPnum before.gtid) before.carried else before.carried)
      writeWord f.d child.gtid) (check := fun f => fieldLimit 2 f.b noEntry) (s := s)

/-- FEXPORT (R368). -/
def execFexport (f : Fields) (s : State) : Host.Outcome State Fault Refusal :=
  instr (.fexport f) (fun f => do
    let t ← cellTarget f f.d
    let r := handleReg f.a
    let x ← me
    let h : Word := (x.g[r]).setWidth 64
    if x.ft[r] = 1 then
      match (← get).ops.find? fun e => e.2.handle == h with
      | some (n, o) =>
        if o.exportTo.isSome then fault .operandForm h
        else modify fun s => { s with ops := s.ops.put n { o with exportTo := some { va := t.addr, scope := t.scope } } }
      | none => pure ()
    else
      observe r
      if x.ft[r] = 2 then cellRelease f t fun c => c.ffail (h.toNat % 2 ^ 32)
      else if x.ft[r] = 3 then cellRelease f t Cell.cancel
      else if h.extractLsb' 62 2 = (1 : BitVec 2) then cellRelease f t fun c => c.fres (h.toNat % 2 ^ 32)
      else fault .operandForm h) (s := s)

end Sys2Proof.Machine
end

