-- ==== Sys2Proof/Machine/Operators.lean ====
section
/-! DEFINITION. Operators: numbering, ports, parameter registers, states and commands (R377, R418 to R424). -/

namespace Sys2Proof.Machine

/-- The number of a virtual operator. -/
def oprKey (cl : Nat) (tile vslot : Fin 4) : Nat := cl * 16 + tile.val * 4 + vslot.val

/-- Code of a kind (R418). -/
def OprKind.code : OprKind → Nat
  | .seq => 0 | .ref => 1 | .put => 2 | .dist => 3 | .collect => 4 | .fork => 5 | .join => 6 | .zip => 7 | .reduce => 8
  | .filter => 9 | .convert => 10 | .bridge => 11

/-- The kind of a code (R418). -/
def oprKindOf (c : Nat) : Option OprKind :=
  [OprKind.seq, .ref, .put, .dist, .collect, .fork, .join, .zip, .reduce, .filter, .convert, .bridge][c]?

/-- Code of STATE (R377, R421). -/
def OprState.code : OprState → Nat
  | .stopped => 0 | .running => 1 | .stalled => 2 | .faulted => 3

/-- Widths a port accepts (R418). -/
inductive PortWidth where
  | any | narrow | wide
  deriving DecidableEq, Repr

/-- A width is accepted. -/
def PortWidth.takes (p : PortWidth) (wide : Bool) : Bool :=
  match p with
  | .any => true
  | .narrow => !wide
  | .wide => wide

/-- The ports of a kind by their numbers: inputs from 0, outputs from 16 (R418, R446). -/
def OprKind.portWidth (k : OprKind) (port : Nat) : Option PortWidth :=
  match k, port with
  | .seq, 16 => some .narrow
  | .ref, 0 => some .narrow
  | .ref, 16 => some .any
  | .put, 0 => some .narrow
  | .put, 1 => some .any
  | .put, 16 => some .any
  | .dist, n => if n = 0 ∨ (16 ≤ n ∧ n < 32) then some .any else none
  | .collect, n => if n ≤ 16 then some .any else none
  | .fork, n => if n = 0 ∨ (16 ≤ n ∧ n < 20) then some .any else none
  | .join, n => if n < 4 ∨ n = 16 then some .any else none
  | .zip, 0 => some .narrow
  | .zip, 1 => some .narrow
  | .zip, 16 => some .wide
  | .reduce, 0 => some .narrow
  | .reduce, 16 => some .narrow
  | .filter, 0 => some .any
  | .filter, 16 => some .any
  | .convert, 0 => some .wide
  | .convert, 16 => some .wide
  | .bridge, 0 => some .any
  | .bridge, 16 => some .any
  | _, _ => none

/-! ## Parameter registers (R421, R422) -/

/-- Bits from lo up, w of them. -/
def bitsAt (lo w : Nat) : Word := BitVec.ofNat 64 ((2 ^ w - 1) * 2 ^ lo)

/-- Writable bits of a register that the kind's map defines; 0 for a read-only one, none for one it does not define. -/
def OprKind.pregMask (k : OprKind) (n : Nat) : Option Word :=
  if n < 4 then some 0
  else match k, n with
    | .seq, 8 => some (bitsAt 0 4)
    | .seq, 9 => some (bitsAt 0 64)
    | .seq, n => if 10 ≤ n ∧ n ≤ 16 then some (bitsAt 0 64) else none
    | .ref, 8 => some (bitsAt 0 56)
    | .ref, 9 => some (bitsAt 0 5)
    | .ref, 10 => some (bitsAt 0 64)
    | .ref, 11 => some 0
    | .put, 8 => some (bitsAt 0 56)
    | .put, 9 => some (bitsAt 0 6)
    | .put, 10 => some (bitsAt 0 64)
    | .put, 11 => some 0
    | .dist, 8 => some (bitsAt 0 5 ||| bitsAt 8 5 ||| bitsAt 24 16 ||| bitsAt 40 4)
    | .dist, 32 => some (bitsAt 0 48)
    | .dist, 33 => some 0
    | .dist, 34 => some 0
    | .collect, 8 => some (bitsAt 0 5)
    | .collect, 9 => some 0
    | .fork, 8 => some (bitsAt 0 3)
    | .join, 8 => some (bitsAt 0 4)
    | .reduce, 8 => some (bitsAt 0 12)
    | .reduce, 32 => some 0
    | .filter, 8 => some (bitsAt 0 4)
    | .filter, 32 => some (bitsAt 0 64)
    | .filter, 33 => some 0
    | .convert, 8 => some (bitsAt 0 11)
    | .convert, 32 => some 0
    | .bridge, 8 => some (bitsAt 0 1 ||| bitsAt 16 16 ||| bitsAt 32 4)
    | _, _ => none

/-- Reset values of the kinds' own registers (R422). -/
def OprKind.pregReset (k : OprKind) (n : Nat) : Word :=
  match k, n with
  | .seq, 8 => 9
  | .seq, n => if 10 ≤ n ∧ n ≤ 16 then 1 else 0
  | .ref, 9 => 0xB
  | .ref, 10 => 8
  | .put, 9 => 0xB
  | .put, 10 => 8
  | .dist, 8 => 0x101
  | .dist, 32 => 64 + 4 * 2 ^ 16 + 64 * 2 ^ 32
  | .collect, 8 => 1
  | .fork, 8 => 2
  | .join, 8 => 3
  | .reduce, 8 => 0x40
  | _, _ => 0

/-- The writable part of a register. -/
def Opr.preg (o : Opr) (n : Nat) : Word := o.pregs.getD n (o.kind.pregReset n)

/-- Bits lo to lo + w - 1 of a register, as a number. -/
def Opr.field (o : Opr) (n lo w : Nat) : Nat := (o.preg n).toNat / 2 ^ lo % 2 ^ w

/-- The number of bits that are set. -/
def popCount {w : Nat} (v : BitVec w) : Nat := ((List.range w).filter v.getLsbD).length

/-- A value that the field ranges of R422 allow; others are refused (log entry 19). -/
def OprKind.pregOk (k : OprKind) (n : Nat) (v : Word) : Bool :=
  let f (lo w : Nat) : Nat := v.toNat / 2 ^ lo % 2 ^ w
  match k, n with
  | .ref, 9 => f 0 3 ≤ 4
  | .put, 9 => f 0 3 ≤ 4
  | .dist, 8 => 1 ≤ f 0 5 && f 0 5 ≤ f 8 5 && f 8 5 ≤ 16
  | .collect, 8 => f 0 5 ≤ 16
  | .fork, 8 => 2 ≤ f 0 3 && f 0 3 ≤ 4
  | .join, 8 => 2 ≤ popCount (v.extractLsb' 0 4)
  | .reduce, 8 => f 0 2 ≤ 2 && (f 2 4 == 0 || f 2 4 == 8) && 1 ≤ f 6 3
  | .filter, 8 => f 0 3 ≤ 5
  | .convert, 8 => [f 0 4, f 4 4].all fun c => c ≤ 8 && c != 5
  | _, _ => true

/-- Reads outstanding at a REF. -/
def Opr.outstanding (o : Opr) : Nat := (o.slots.filter fun s => !s.done).length

/-- The starting accumulator of a REDUCE (R432). -/
def Opr.accStart (o : Opr) : Word :=
  let op := o.field 8 0 2
  if o.field 8 2 4 = 0 then (if op = 0 then 0 else if op = 1 then 0x7F800000 else 0xFF800000)
  else (if op = 0 then 0 else if op = 1 then 0x7FFFFFFF else 0x80000000)

/-- The accumulator of a REDUCE: the starting one before the first entry of a group (R432). -/
def Opr.accNow (o : Opr) : Word := if o.nth = 0 then o.accStart else o.acc

/-- The value of a register as OPGET reads it. -/
def Opr.read (o : Opr) (n : Nat) : Word :=
  match n with
  | 0 => BitVec.ofNat 64 (o.kind.code + o.fold.val * 2 ^ 4 + o.state.code * 2 ^ 6 + o.company * 2 ^ 8)
  | 1 => BitVec.ofNat 64 (min o.items (2 ^ 64 - 1))
  | 2 => BitVec.ofNat 64 (min o.ostall 0xFFFFFFFF + min o.istall 0xFFFFFFFF * 2 ^ 32)
  | 3 => BitVec.ofNat 64 (o.code + o.va * 2 ^ 8)
  | n =>
    match o.kind, n with
    | .ref, 11 => BitVec.ofNat 64 (o.outstanding + min o.nfault 0xFFFFFFFF * 2 ^ 32)
    | .put, 11 => BitVec.ofNat 64 (min o.nfault 0xFFFFFFFF * 2 ^ 32)
    | .dist, 33 => BitVec.ofNat 64 (o.live.toNat + o.tagNext.toNat * 2 ^ 40)
    | .dist, 34 =>
      BitVec.ofNat 64 (min o.steals 0xFFFF + min o.grows 0xFFFF * 2 ^ 16 + min o.shrinks 0xFFFF * 2 ^ 32 + min o.refused 0xFFFF * 2 ^ 48)
    | .collect, 9 => BitVec.ofNat 64 (o.next.toNat + min o.short 0xFFFF * 2 ^ 24 + min o.stray 0xFFFF * 2 ^ 40 + min o.dropc 0xFF * 2 ^ 56)
    | .reduce, 32 => o.accNow
    | .filter, 33 => o.drops
    | .convert, 32 => o.amax.setWidth 64
    | _, _ => o.preg n

/-- OPGET's effect on what it reads: AMAX is cleared (R434). -/
def Opr.afterRead (o : Opr) (n : Nat) : Opr := if o.kind = .convert ∧ n = 32 then { o with amax := 0 } else o

/-- What an OPSET makes of an operator: none where it faults OPERAND_FORM (R377, R422). -/
def Opr.write (o : Opr) (n : Nat) (v : Word) : Option Opr :=
  match o.kind.pregMask n with
  | none => none
  | some m =>
    if m = 0 then some o
    else if n < 32 ∧ o.state ≠ .stopped then none
    else if o.kind.pregOk n (v &&& m) then some { o with pregs := o.pregs.put n (v &&& m) }
    else some o

/-! ## States (R423) -/

/-- OPCTL START: a stalled REF retries its faulting translation first (R423, R429). DESIGN CHOICE (log entry 126): given to a running operator
whose STOP waits for its item boundary, it cancels that STOP. -/
def Opr.start (o : Opr) : Opr :=
  match o.state with
  | .stopped => { o with state := .running, stopping := false }
  | .stalled => { o with state := .running, stopping := false, retrying := o.kind == .ref }
  | .running => { o with stopping := false }
  | .faulted => o

/-- OPCTL STOP at the next item boundary: within an item of SEQ it waits for the item's last entry, and at a REF for what it has taken to be
pushed; elsewhere an operator between actions is at one (R377, R423). -/
def Opr.stop (o : Opr) : Opr :=
  match o.state with
  | .running => if o.seqOut.isEmpty && o.slots.isEmpty then { o with state := .stopped } else { o with stopping := true }
  | .stalled => { o with state := .stopped }
  | _ => o

/-- The status of OPCTL (R377). -/
def Opr.status (o : Opr) (flag : Bool) : Word :=
  BitVec.ofNat 64 (o.state.code + (if flag then 2 ^ 7 else 0) + o.items % 2 ^ 24 * 2 ^ 8)

end Sys2Proof.Machine
end

