-- ==== Sys2Proof/Machine/OperatorInstr.lean ====
section
/-! DEFINITION. OPSET, OPGET and OPCTL (R377, R423). -/

namespace Sys2Proof.Machine

/-- The operator of a selector, configured for the task's launch, or SCOPE (R377). -/
def selected (w : Word) : M (Nat × Opr) := do
  if w.extractLsb' 26 38 ≠ 0 then fault .operandForm w
  let x ← me
  let s ← get
  let c : Coord := if w.extractLsb' 0 16 = (0xFFFF : BitVec 16) then x.core else w.extractLsb' 0 16
  checkScope c
  let k := oprKey (clusterOf c) (w.extractLsb' 16 2 : BitVec 2).toFin (w.extractLsb' 18 2 : BitVec 2).toFin
  match s.oprs.look k with
  | some o => if o.pnum = gtidPnum x.gtid ∧ o.launch = gtidLaunch x.gtid then return (k, o) else fault .scope (c.setWidth 64)
  | none => fault .scope (c.setWidth 64)

/-- PREG of a selector. -/
def pregOf (w : Word) : Nat := (w.extractLsb' 20 6).toNat

/-- OPSET. -/
def execOpset (f : Fields) (s : State) : Host.Outcome State Fault Refusal :=
  instr (.opset f) (fun f => do
    let w ← src64 f.a
    let v ← src64 f.b
    let (k, o) ← selected w
    match o.write (pregOf w) v with
    | none => fault .operandForm w
    | some o => modify fun s => { s with oprs := s.oprs.put k o }) (s := s)

/-- OPGET. -/
def execOpget (f : Fields) (s : State) : Host.Outcome State Fault Refusal :=
  instr (.opget f) (fun f => do
    let w ← src64 f.a
    let (k, o) ← selected w
    if (o.kind.pregMask (pregOf w)).isNone then fault .operandForm w
    modify fun s => { s with oprs := s.oprs.put k (o.afterRead (pregOf w)) }
    writeWord f.d (o.read (pregOf w))) (s := s)

/-- SKIPHEAD: removes the head of an input port of a stopped operator; gives bit 7 of the status (R377). -/
def State.skipHead (s : State) (o : Opr) (port : Nat) : Bool × State :=
  if o.state ≠ .stopped ∨ (o.kind.portWidth port).isNone then (true, s)
  else
    match o.ins.look port with
    | none => (false, s)
    | some n => (false, s.updQueue n Queue.drop1)

/-- Applies a command of OPCTL to the operator of a selector and writes its status. What a REF translates after START or RESET walks anew
(R423, R429). -/
def oprCommand (command : Nat) (f : Fields) (w : Word) : M Unit := do
  let (k, o) ← selected w
  let put (o : Opr) : M Unit := do
    modify fun s => { s with oprs := s.oprs.put k o }
    writeWord f.d (o.status false)
  match command with
  | 0 => do
    modify fun s => s.forgetFaults k
    put o.start
  | 1 => put o.stop
  | 2 => put o
  | 3 => do
    modify fun s => s.forgetFaults k
    put o.reset
  | _ =>
    let (flag, s) := (← get).skipHead o (pregOf w % 16)
    set s
    writeWord f.d (o.status flag)

/-- OPCTL with a command of its word. -/
def opctlRow (command : Nat) (f : Fields) : M Unit := do oprCommand command f (← src64 f.a)

/-- OPCTL START, and every OPCTL whose command comes from a register or a queue. -/
def execOpctlStart (f : Fields) (s : State) : Host.Outcome State Fault Refusal :=
  instr (.opctlStart f) (fun f => do
    let w ← src64 f.a
    let v ← src64 f.b
    if 4 < v.toNat then fault .operandForm v
    oprCommand v.toNat f w) (s := s)

/-- OPCTL STOP. -/
def execOpctlStop (f : Fields) (s : State) : Host.Outcome State Fault Refusal := instr (.opctlStop f) (opctlRow 1) (s := s)

/-- OPCTL STATUS. -/
def execOpctlStatus (f : Fields) (s : State) : Host.Outcome State Fault Refusal := instr (.opctlStatus f) (opctlRow 2) (s := s)

/-- OPCTL RESET. -/
def execOpctlReset (f : Fields) (s : State) : Host.Outcome State Fault Refusal := instr (.opctlReset f) (opctlRow 3) (s := s)

/-- OPCTL SKIPHEAD. -/
def execOpctlSkiphead (f : Fields) (s : State) : Host.Outcome State Fault Refusal := instr (.opctlSkiphead f) (opctlRow 4) (s := s)

end Sys2Proof.Machine
end

