-- ==== Sys2Proof/Machine/QueueInstr.lean ====
section
/-! DEFINITION. Queue instructions (R141 to R145, R159 to R163, R358 to R362). -/

namespace Sys2Proof.Machine

/-! ## QBIND (R143 to R145, R359) -/

/-- Placement of a queue whose consumer end a task binds: on the core, a bridge, or a ring; none where storage is refused. -/
def State.placeFor (s : State) (q : Queue) (x : Ctx) : Option QPlace :=
  let onCore := match q.prod with
    | .task k _ => (s.ctx k).core == x.core
    | _ => false
  if onCore && q.coreRange then
    let units := q.depth * (if q.wide then 4 else 1)
    if s.unitsUsed x.core + units ≤ Config.queueSlotUnits then some (.core x.core) else none
  else
    let cl := clusterOf x.home
    let n := x.company.toNat
    (s.ringPlace cl n q).map fun e => if q.bridged then .bridge cl n e.1 e.2 else .ring cl n e.1 e.2

/-- The consumer end of a queue is bound: its storage is fixed and its producer has credits (R149, R359). -/
def Queue.bindCons (q : Queue) (k : Nat) (r : Fin 16) (place : QPlace) : Queue :=
  { q with place, cons := .task k r, credits := { q with place }.capacity, discards := false }

/-- An end of a queue is an operator port of another die (R420). -/
def QEnd.acrossDies (e : QEnd) (c : Coord) : Bool :=
  match e with
  | .port o _ => o / 384 != cDie c
  | _ => false

/-- Binds an end to a register of the executing task and gives the status of R359.
DESIGN CHOICE (log entry 115): a queue of an operator of another die has its storage refused at either end.
DESIGN CHOICE (log entry 129): an end that another register of the same task holds gives status 2, as one that another task holds. -/
def bindEnd (r : Fin 16) (qnum : Nat) (prod : Bool) : M Nat := do
  let x ← me
  let s ← get
  let bindReg (n : Nat) : M Unit :=
    setMe fun x => { x with qregs := x.qregs.set r { QReg.unbound with bound := some (n, prod) }, pinned := x.pinned || x.task }
  if x.qregs[r].bound.isSome then return 1
  else
    match (s.launches.look (launchKey (gtidPnum x.gtid) (gtidLaunch x.gtid))).bind fun l => l.queues.look qnum with
    | none => return 4
    | some n =>
      match s.queue? n with
      | none => return 4
      | some q =>
        if (if prod then q.prod else q.cons).isBound then return 2
        else if (if prod then q.cons else q.prod).acrossDies x.core then return 3
        else if prod then
          modify fun s => s.updQueue n fun q => { q with prod := .task s.cur r }
          bindReg n
          return 0
        else
          let clear : State := s.updQueue n fun q => { q with place := .unplaced }
          match clear.placeFor q x with
          | none => return 3
          | some place =>
            modify fun s => s.updQueue n fun q => q.bindCons s.cur r place
            bindReg n
            return 0

/-- QBIND. -/
def execQbind (f : Fields) (s : State) : Host.Outcome State Fault Refusal :=
  instr (.qbind f) (fun f => do
    let w ← src64 f.b
    if w &&& ~~~0x1FFF ≠ 0 then fault .operandForm w
    match f.a with
    | .q r =>
      let status ← bindEnd r (w.extractLsb' 0 12).toNat (w.getLsbD 12)
      writeWord f.d (BitVec.ofNat 64 status)
    | _ => pure ()) (s := s)

/-- QFREE. -/
def execQfree (f : Fields) (s : State) : Host.Outcome State Fault Refusal :=
  instr (.qfree f) (fun f => do
    match f.a with
    | .q r =>
      let x ← me
      match x.qregs[r].bound with
      | none => fault .qunbound (queueTval r false 0 false 0 0)
      | some (n, prod) =>
        if prod then waitCpyq n else waitTldaq n
        modify fun s => s.freeEnd n prod
        setMe fun x => { x with qregs := x.qregs.set r .unbound }
    | _ => pure ()) (s := s)

/-- The value of a count immediate. -/
def immNat (o : Operand) : Nat :=
  match o with
  | .i v => v.toNat
  | _ => 0

/-- QADV: any entry with KIND other than 0 among its n faults QCUE, a fault marker too (R158, R159). -/
def execQadv (f : Fields) (s : State) : Host.Outcome State Fault Refusal :=
  instr (.qadv f) (fun f => do
    match f.a with
    | .q r =>
      let n := immNat f.b
      let (i, q) ← consumerOf r 0
      waitHeld false
      waitTldaq i
      let v := q.view.take n
      if v.length < n then waitOn .queue
      match v.find? fun e => e.kind != 0 with
      | some e => fault .qcue (queueTval r false e.kind.val e.fmark 0 0)
      | none => takeEntries r i n q
    | _ => pure ()) (s := s)

/-- The window buffer after n offsets have been published (R160). -/
def QReg.publish (q : QReg) (n : Nat) : QReg :=
  let kept : Tbl Vec := q.window.filter fun (e : Nat × Vec) => n ≤ e.1
  { q with window := kept.map fun (e : Nat × Vec) => (e.1 - n, e.2), wpend := q.wpend - n }

/-- QCOM (R160). -/
def execQcom (f : Fields) (s : State) : Host.Outcome State Fault Refusal :=
  instr (.qcom f) (fun f => do
    match f.d with
    | .q r =>
      let n := immNat f.a
      let (i, _) ← pushReady r n false
      let b := (← me).qregs[r]
      pushEntries i ((List.range n).map fun k => (b.window.getD k 0, 0))
      setMe fun x => { x with qregs := x.qregs.set r (b.publish n) }
    | _ => pure ()) (s := s)

/-- QWAIT. -/
def execQwait (f : Fields) (s : State) : Host.Outcome State Fault Refusal :=
  instr (.qwait f) (fun f => do
    match f.a with
    | .q r =>
      let n := immNat f.b
      let x ← me
      match x.qregs[r].bound with
      | some (_, true) =>
        let (_, q) ← producerOf r 0
        match x.qregs[r].fenced with
        | some c => fault .neighbourFenced (queueTval r false 0 false c.toNat 0)
        | none => if q.credits < n then waitOn .credit
      | _ =>
        let (_, q) ← consumerOf r 0
        if q.view.length < n then waitOn .queue
    | _ => pure ()) (s := s)

/-- The payload that QCUE pushes (R361). -/
def cuePayload (o : Operand) : M Vec := do
  match o with
  | .g r lane => let v := (← me).g[r]; return if lane = 0 then v else (laneOf v lane.val).setWidth 256
  | .i v => return (v.signExtend 64).setWidth 256
  | o => srcVec o

/-- QCUE. -/
def execQcue (f : Fields) (s : State) : Host.Outcome State Fault Refusal :=
  instr (.qcue f) (fun f => do
    match f.d with
    | .q r =>
      let v ← cuePayload f.a
      pushQ r v (Fin.ofNat 8 (immNat f.b))
    | _ => pure ()) (s := s)

/-- Sideband of an entry (R139). -/
def Entry.sideband (e : Entry) : Nat := e.kind.val + if e.fmark then 8 else 0

/-- QSKIP: it removes the head entry of any kind, the fault marker included (R362). -/
def execQskip (f : Fields) (s : State) : Host.Outcome State Fault Refusal :=
  instr (.qskip f) (fun f => do
    match f.a with
    | .q r =>
      let (n, q) ← consumerOf r 0
      waitHeld false
      waitTldaq n
      let e ← headEntry q
      acquireQueue n
      let x ← me
      modify fun s => (s.updQueue n Queue.drop1).countCore x.core 6 1
      writeVec f.d e.payload
      writePred f.b (BitVec.ofNat 64 (e.sideband + e.tag.toNat * 2 ^ 8))
    | _ => pure ()) (s := s)

/-- Code of a placement (R162). -/
def QPlace.code : QPlace → Nat
  | .core _ => 0
  | .ring .. => 1
  | .bridge .. => 2
  | .unplaced => 3

/-- The queue status word of a register (R162). -/
def State.queueWord (s : State) (b : QReg) : Word :=
  match b.bound with
  | none => 0
  | some (n, prod) =>
    match s.queue? n with
    | none => 0
    | some q =>
      let count := if prod then q.credits else q.view.length
      let head := if prod then none else q.view.head?
      BitVec.ofNat 64 (min count 0xFFFFFF + b.latch * 2 ^ 24 + 2 ^ 48 + (if prod then 2 ^ 49 else 0) + (if q.wide then 2 ^ 50 else 0) +
        (if q.tagged then 2 ^ 51 else 0) + q.place.code * 2 ^ 52 + (if b.fenced.isSome then 2 ^ 54 else 0) +
        (head.map fun e => e.kind.val * 2 ^ 55 + if e.fmark then 2 ^ 58 else 0).getD 0 + (if prod then b.wpend * 2 ^ 59 else 0))

/-- QLEN. -/
def execQlen (f : Fields) (s : State) : Host.Outcome State Fault Refusal :=
  instr (.qlen f) (fun f => do
    match f.a with
    | .q r => writeWord f.d ((← get).queueWord (← me).qregs[r])
    | _ => pure ()) (s := s)

end Sys2Proof.Machine
end

