-- ==== Sys2Proof/Machine/Sync.lean ====
section
/-! DEFINITION. Fences, joins, line operations and probes, barriers, messages and mailboxes (R165 to R168, R183, R349 to R357). -/

namespace Sys2Proof.Machine

/-- FENCE: its earlier accesses have completed; held stores perform before any later access (R183, R350). -/
def execFence (f : Fields) (s : State) : Host.Outcome State Fault Refusal :=
  instr (.fence f) (fun _ => modify fun s =>
    { s with held := s.held.map fun (h : Nat × HeldStore) => if h.2.key = s.cur then (h.1, { h.2 with fence := true }) else h }) (s := s)

/-- An FJOIN mask selects an operation's engine queue (R351). -/
def maskSelects (mask : Word) (qsel : Nat) : Bool := qsel ≤ 5 && mask.getLsbD qsel

/-- The operator stream that a queue register feeds, with the entries pushed so far (R192, R351); a queue between tasks is none. -/
def State.streamOf (s : State) (q : QReg) : Option (Nat × Nat) :=
  match q.bound with
  | some (n, true) =>
    match s.queue? n with
    | none => none
    | some q => match q.cons with
      | .port .. => some (n, q.pushed)
      | _ => none
  | _ => none

/-- FJOIN: it joins the operations now in the queues it selects, and the entries pushed so far to the operator streams it selects
(R194, R351). -/
def execFjoin (f : Fields) (s : State) : Host.Outcome State Fault Refusal :=
  instr (.fjoin f) (fun f => do
    let mask ← src64 f.a
    if mask &&& ~~~0xFFFF003F ≠ 0 then fault .operandForm mask
    let s ← get
    let x ← me
    let ops := (s.ops.filter fun e => e.2.core == x.core && maskSelects mask e.2.qsel).map Prod.fst
    let streams := x.qregs.toList.zipIdx.filterMap fun e => if mask.getLsbD (16 + e.2) then s.streamOf e.1 else none
    enqueue f.d 6 (.join ops streams mask)) (s := s)

/-! ## Lines (R352) -/

/-- PREF under its leaf: the line is allocated at its home if its policy does so on a miss (R85). -/
def State.prefLine (s : State) (l : Leaf) (pnum va : Nat) : State :=
  let pa := leafAddr l.entry l.level va
  let home := homeOf l.entry pa va
  if noHome l.entry || (s.lineAt pa).isSome || !s.allocates l.entry home false then s else s.ensureLine l.entry home pa false pnum va

/-- PREF: never a fault, and nothing to wait for; a miss walks, and the line follows the leaf (R43, R352). DESIGN CHOICE (log entry 127): it
brings the task nothing, and neither updates its streak nor obeys MIG (R77). -/
def execPref (f : Fields) (s : State) : Host.Outcome State Fault Refusal :=
  instr (.pref f) (fun f => do
    let t ← mOperand f f.a 1
    let x ← me
    let s ← get
    let pnum := s.pnumOf x
    let cache := clusterOf x.core
    match s.engineTranslate (.pref t.addr cache) cache pnum t.addr false with
    | (.fault .., _) => pure ()
    | (.miss, _) => modify fun s => s.engineMiss (.pref t.addr cache) cache pnum t.addr false
    | (.leaf l, s) => set (s.prefLine l pnum t.addr)) (s := s)

/-- A dirty line at its home is written back to its tier and is clean (R352). -/
def State.cleanLine (s : State) (line : Nat) : State :=
  match s.lines.look line with
  | none => s
  | some l =>
    let s := s.acceptWriteback l.home line
    if l.dirty && !l.poison then
      let s := (s.setTier (line * 64) ((List.range 64).map (lineByte l.data))).countCluster l.home 3 3
      { s with lines := s.lines.put line { l with dirty := false } }
    else s

/-- CLWB and CLINV: translated as a write and ordered as a store to the line; a poisoned line faults as for a store (R478). DESIGN CHOICE (log
entry 127): neither moves data to the task, so neither updates the streak nor obeys MIG (R77). -/
def lineOp (inval : Bool) (f : Fields) : M Unit := do
  let t ← mOperand f f.a 1
  waitHeld false
  let ps ← placesOf [(0, t.addr, 1)] true
  let s ← get
  let keep ← keepAccess
  if ps.any (s.behindHeld s.cur) then stop fun s => (keep s).enterFlight (.home true)
  if let some p := ps.find? fun p => p.homed && s.poisoned p.pa then accessFault .sramEcc (BitVec.ofNat 64 p.pa)
  ps.forM fun p => modify fun s =>
    if !p.homed then s
    else
      let s := (s.cleanLine (p.pa / 64)).acceptWriteback p.home (p.pa / 64)
      if inval && !s.poisoned p.pa then { s with lines := s.lines.del (p.pa / 64) } else s

/-- CLWB. -/
def execClwb (f : Fields) (s : State) : Host.Outcome State Fault Refusal := instr (.clwb f) (lineOp false) (s := s)

/-- CLINV. -/
def execClinv (f : Fields) (s : State) : Host.Outcome State Fault Refusal := instr (.clinv f) (lineOp true) (s := s)

/-! ## PROBE (R353) -/

/-- The word of PROBE. -/
def probeWord (code reason : Nat) (res dirty : Bool) (tier policy : Nat) (home : Coord) : Word :=
  BitVec.ofNat 64 (code + reason * 2 ^ 8 + (if res then 2 ^ 10 else 0) + (if dirty then 2 ^ 11 else 0) + tier * 2 ^ 12 +
    policy * 2 ^ 14 + home.toNat * 2 ^ 16)

/-- The fault that a stopped check would raise: it shows in the trap of the state that the check leaves. -/
def State.probeFault (s : State) (m : M Unit) : Option (FaultCode × Word) :=
  match m.run s with
  | .ok _ => none
  | .error enter =>
    match (((enter (s.updCtx s.cur fun x => { x with task := true })).ctx s.cur)).status with
    | .trapped t _ => some (t.code, t.tval)
    | _ => some (.sramEcc, 0)

/-- What PROBE finds under a leaf: the fault that a load would meet at the home or target, or none, and the line there. -/
def State.probeLeaf (s : State) (l : Leaf) (va : Nat) : Word :=
  let pa := leafAddr l.entry l.level va
  let p : Place := { off := 0, va, pa, len := 1, leaf := l }
  let h : How := { write := false, atomic := false, acquire := false, release := false, na := false, ar := false, mig := .stay, scope := 0 }
  let (code, reason) : Nat × Nat := match s.probeFault (checkPlaces h false [p]) with
    | none => (0, 0)
    | some (c, v) => (c.num, if c = FaultCode.xlatePerm then (v.extractLsb' 58 2).toNat else 0)
  if noHome l.entry then probeWord code reason false false (leafTier l.entry) (leafPolicy l.entry) 0
  else
    let line := s.lineAt pa
    probeWord code reason line.isSome (line.any Line.dirty) (leafTier l.entry) (leafPolicy l.entry)
      (clusterCoord (homeOf l.entry pa va))

/-- What a load in another space would raise, without raising it. -/
def probeSpace (t : Target) : M Unit :=
  match t.space with
  | .l => do let _ ← lReady false t.addr 1
  | .s => do
    match ← sCompany t false with
    | none => pure ()
    | some (cl, c) =>
      let _ ← sReady cl c t.addr 1 t.addr
  | .g => pure ()

/-- PROBE. -/
def execProbe (f : Fields) (s : State) : Host.Outcome State Fault Refusal :=
  instr (.probe f) (fun f => do
    let t ← mOperand f f.a 1
    let x ← me
    let s ← get
    let put (w : Word) : M Unit := writeWord f.d w
    match t.space with
    | .g =>
      if 2 ^ 56 ≤ t.addr then put (probeWord FaultCode.xlateMiss.num 0 false false 0 0 0)
      else
        match x.probed with
        | some (c, reason, _) => put (probeWord c.num (if c = .xlatePerm then reason else 0) false false 0 0 0)
        | none =>
          match x.leaves.find? fun l => l.vpn == t.addr / 2 ^ 16 with
          | some l => put (s.probeLeaf l t.addr)
          | none =>
            match tlbFind (s.clusterAt (clusterOf x.core)).tlb (s.pnumOf x) t.addr with
            | some l =>
              modify fun s => s.countCluster (clusterOf x.core) 5 0
              put (s.probeLeaf l t.addr)
            | none => stop fun s => s.miss s.cur t.addr false true
    | _ =>
      match s.probeFault (probeSpace t) with
      | none => put (probeWord 0 0 true false 0 0 0)
      | some (c, v) =>
        put (probeWord c.num (if c = .xlatePerm then (v.extractLsb' 58 2).toNat else 0) false false 0 0 0)) (s := s)

/-! ## Barriers (R354, R355) -/

/-- The barrier an operand names: its cluster and company, and its address, which is aligned (R337, R354). -/
def barrierOf (f : Fields) : M (Target × Nat × Nat) := do
  let t ← mOperand f f.a 16
  checkAlign t.addr 16
  match ← sCompany t false with
  | none => spaceFault t.addr
  | some (cl, c) => return (t, cl, c)

/-- The physical address of a barrier that is read at once (R338). -/
def barrierPa (t : Target) (cl c : Nat) : M Nat := do
  match ← sReady cl c t.addr 16 t.addr with
  | [p] => return p.2.1
  | _ => spaceFault t.addr

/-- BARI. -/
def execBari (f : Fields) (s : State) : Host.Outcome State Fault Refusal :=
  instr (.bari f) (fun f => do
    let (t, cl, c) ← barrierOf f
    let v ← src64 f.b
    if v = 0 ∨ 2 ^ 32 ≤ v.toNat then fault .operandForm v
    waitHeld false
    let pa ← barrierPa t cl c
    countScratch cl
    modify fun s =>
      let g := (s.barRead pa).gen
      s.setTier pa (leBytes 16 (v.toNat + (g + 1) % 256 * 2 ^ 96))) (s := s)

/-- The bank of a barrier in its cluster, if the company holds it. -/
def State.barrierBank (s : State) (cl c addr : Nat) : Option Nat :=
  (s.clusterAt cl).physBank c (scratchOf addr).1 .scratch

/-- The identity of a barrier that stands at an address now. -/
def State.barrierId (s : State) (cl c addr : Nat) : Option BarId :=
  let (lb, off) := scratchOf addr
  (s.barrierBank cl c addr).map fun b => { cl, company := c, lbank := lb, off, gen := (s.barRead (bankPa cl b off)).gen }

/-- Ends a BARA with its episode: the mark names this barrier and episode (R200). -/
def barrierMark (cl c addr : Nat) (e : Word) : M Unit := do
  let s ← get
  match s.barrierId cl c addr with
  | none => pure ()
  | some id => setMe fun x => if x.task then { x with mark := some (id, e.toNat) } else x

/-- BARA: a release that performs in one step at the barrier, is diverted to the company's wings, or waits at the ingress. -/
def execBara (f : Fields) (s : State) : Host.Outcome State Fault Refusal :=
  instr (.bara f) (fun f => do
    let (t, cl, c) ← barrierOf f
    let (lb, off) := scratchOf t.addr
    if 2 ^ 21 < t.addr + 16 then spaceFault t.addr
    waitHeld true
    let s ← get
    let x ← me
    match x.landed with
    | some v =>
      if (s.clusterAt cl).ingress.any fun a => a.who == some s.cur then flight (.home true)
      if v ≠ 0xFFFFFFFFFFFFFFFF then barrierMark cl c t.addr v
      setMe fun x => if x.task then x.bump else x
      writeWord f.d v
    | none =>
      let id := s.barrierId cl c t.addr
      let cluster := s.clusterAt cl
      let arrival (token : Bool) (cur : Nat) : Arrival := .arrive c lb off t.scope x.home x.carried token (some cur)
      let diverts := (s.divertFor cl (arrival true s.cur)).isSome
      let dropped := cluster.discarded c lb
      if !diverts && !dropped && id.isNone then spaceFault t.addr
      logScratch cl c t.addr
      countScratch cl
      let token := diverts || (match x.mark, id with
        | some (m, _), some i => m != i
        | _, _ => true)
      let (fate, v, s') := (← get).land cl (arrival token s.cur)
      if fate = .held then stop fun s => ((s.countScratch cl).land cl (arrival token s.cur)).2.2.enterFlight (.home true)
      set s'
      if fate = .performed then barrierMark cl c t.addr v
      setMe fun x => if x.task then x.bump else x
      if fate = .dropped then
        let n := (← get).fresh
        modify fun s => { s with fresh := n + 1 }
        writeWord f.d (Config.droppedEpisode n)
      else writeWord f.d v) (s := s)

/-- The task knows the barrier's episode e as completed (R201). N saturates (R200): it never falls, neither for an older episode nor once
EPISODE has wrapped (log entry 117). -/
def Ctx.noteBarrier (x : Ctx) (id : BarId) (e : Nat) : Ctx := { x with know := mergeBar x.know (id, e) }

/-- A wait for episode e has completed (R355). -/
def episodeDone (episode e : Nat) : Bool :=
  let d := (episode + 2 ^ 32 - e) % 2 ^ 32
  1 ≤ d && d ≤ 2 ^ 31

/-- BARW: an acquire with scope. -/
def execBarw (f : Fields) (s : State) : Host.Outcome State Fault Refusal :=
  instr (.barw f) (fun f => do
    let (t, cl, c) ← barrierOf f
    let e := (← src64 f.b).toNat % 2 ^ 32
    waitHeld false
    let pa ← barrierPa t cl c
    let s ← get
    let w := s.barRead pa
    if !episodeDone w.episode e then waitOn .barrier
    logScratch cl c t.addr
    countScratch cl
    match s.barrierId cl c t.addr with
    | none => pure ()
    | some id =>
      setMe fun x =>
        if !x.task then x
        else
          let x := match (s.clusterAt cl).barriers.find? fun b => b.id == id && b.episode == e with
            | some b => if b.scopeBox.holds x.home && b.homeBox.meets (scopeBox t.scope) then x.mergeCarrier b.carrier else x
            | none => x
          x.noteBarrier id e) (s := s)

/-- BARS: a plain read. -/
def execBars (f : Fields) (s : State) : Host.Outcome State Fault Refusal :=
  instr (.bars f) (fun f => do
    let (t, cl, c) ← barrierOf f
    waitHeld false
    let pa ← barrierPa t cl c
    countScratch cl
    let w := (← get).barRead pa
    writeWord f.d (BitVec.ofNat 64 (w.arrived * 2 ^ 32 + w.episode))) (s := s)

/-! ## Messages and mailboxes (R356, R357) -/

/-- MSEND. -/
def execMsend (f : Fields) (s : State) : Host.Outcome State Fault Refusal :=
  instr (.msend f) (fun f => do
    let t ← mOperand f f.a 1
    let d ← descOf f.b
    let core : Coord := d.extractLsb' 0 16
    let xpkg := d.getLsbD 32
    if xpkg then (if coordValid core then pure () else fault .scope (core.setWidth 64))
    else checkScope core
    let sel ← sourceSel t
    let tag : BitVec 4 := d.extractLsb' 16 4
    enqueue f.d 5 (.message (spaceCode t.space) sel t.addr (d.extractLsb' 48 16).toNat core tag.toFin
      (if xpkg then some (d.extractLsb' 20 12) else none) (d.extractLsb' 64 21).toNat)) (s := s)

/-- The counter that a tag operand names. -/
def tagOf (o : Operand) : Fin 16 :=
  match o with
  | .i v => Fin.ofNat 16 v.toNat
  | _ => 0

/-- MWAIT: waiters on a counter are served in the order in which they began to wait (R168); one that takes nothing completes at once, and is
an acquire as any other (R186, R201). -/
def execMwait (f : Fields) (s : State) : Host.Outcome State Fault Refusal :=
  instr (.mwait f) (fun f => do
    let t := tagOf f.a
    let c := (← src64 f.b).toNat % 2 ^ 32
    let s ← get
    let x ← me
    let m := (← myCore).mail[t]
    if c = 0 then
      logLocal x.core t.val
      setMe fun x => if x.task then x.mergeCarrier m.carrier else x
      setCore fun k => { k with mail := k.mail.set t { m with carrier := .empty } }
    else
      waitHeld false
      let first := match m.waiters with
        | [] => true
        | k :: _ => k == s.cur
      if !(first && c ≤ m.count.toNat) then
        let m' : Mail := { m with waiters := if m.waiters.contains s.cur then m.waiters else m.waiters ++ [s.cur] }
        stop fun s => (s.updCore x.core fun k => { k with mail := k.mail.set t m' }).enterWait .mailbox
      logLocal x.core t.val
      setMe fun x => if x.task then x.mergeCarrier m.carrier else x
      let m' : Mail := { m with count := m.count - BitVec.ofNat 32 c, carrier := .empty, waiters := m.waiters.filter (· != s.cur) }
      setCore fun k => { k with mail := k.mail.set t m' }) (s := s)

/-- MCNT. -/
def execMcnt (f : Fields) (s : State) : Host.Outcome State Fault Refusal :=
  instr (.mcnt f) (fun f => do
    let t := tagOf f.a
    logLocal (← me).core t.val
    writeWord f.d ((← myCore).mail[t].count.setWidth 64)) (s := s)

/-- MSET: the owner is the company of the executing task's group in the counter's cluster (R167). -/
def execMset (f : Fields) (s : State) : Host.Outcome State Fault Refusal :=
  instr (.mset f) (fun f => do
    let t := tagOf f.a
    let v ← src64 f.b
    let x ← me
    logLocal x.core t.val
    setCore fun k =>
      let m := k.mail[t]
      let m' : Mail := { m with count := v.setWidth 32, company := x.company, owned := x.task, cleared := false }
      { k with mail := k.mail.set t m' }) (s := s)

end Sys2Proof.Machine
end

