-- ==== Sys2Proof/Machine/System.lean ====
section
/-! DEFINITION. Traps, handlers, special registers and marks (R283, R284, R326 to R329, R334, R458, R459). -/

namespace Sys2Proof.Machine

/-- TRAP completes, and then its trap is taken with %epc the next PC (R326). -/
def execTrap (f : Fields) (s : State) : Host.Outcome State Fault Refusal :=
  instr (.trap f) (fun f => do
    let v ← src64 f.a
    let x ← me
    if !x.task then fault .trap v
    else
      let s' ← get
      stop fun _ => (s'.finish f.h).takeFault s'.cur (trapAt .trap v x.pc)) (s := s)

/-- BKPT: taken at its own PC; a Q operand is read as a window at offset 0 (R326). -/
def execBkpt (f : Fields) (s : State) : Host.Outcome State Fault Refusal :=
  instr (.bkpt f) (fun f => do
    let v ← match f.a with
      | .q r => do pure ((← windowRead r 0).setWidth 64)
      | o => src64 o
    fault .bkpt v) (s := s)

/-- ACT of %cause (R458). -/
def Core.act (c : Core) : Nat := (c.cause.extractLsb' 16 2).toNat

/-- The record of a trap that is forwarded: its time is that of the fault (R459, R462). -/
def State.forwardRecord (s : State) (x : Ctx) (t : TrapRec) : FaultRec :=
  let async := t.code == .async
  { s.recordOf x (if async then t.inner else t.code.num) t.tval (if async then 0 else if t.code = .trap then t.epc - 1 else t.epc) with
    async, fwd := true, role := t.role, olnch := t.olnch, oindex := t.oindex, time := t.time, qsel := t.qsel, opid := t.opid }

/-- Service of a task ends with an action: resume, forward or kill (R327, R459). -/
def State.trapReturn (s : State) (core : Coord) (k act : Nat) : State :=
  let x := s.ctx k
  let c := s.coreAt core
  let epc : Pc := c.epc.setWidth 32
  let s := s.endService core
  match x.status with
  | .trapped t _ =>
    if act = 0 then s.resumeTask k epc (t.table && epc == t.epc)
    else if act = 1 then
      let s := s.faultRing (gtidPnum x.gtid) (s.forwardRecord x t)
      let s := s.setCtx k { x with status := .trapped t false }
      s.suspendGroup (gtidPnum x.gtid) (gtidLaunch x.gtid) x.company.toNat 2
    else s.killGroup (gtidPnum x.gtid) (gtidLaunch x.gtid) x.company.toNat t.code.num
  | _ => s

/-- TRET. -/
def execTret (f : Fields) (s : State) : Host.Outcome State Fault Refusal :=
  instr (.tret f) (fun _ => do
    let x ← me
    let c ← myCore
    match c.serving with
    | none => setCore fun c => { c with active := false }
    | some k => modify fun s => s.trapReturn x.core k c.act) (s := s)

/-- OVRET: the OVERLAY trap is taken again where the image or the boundary still does not fit (R327). -/
def execOvret (f : Fields) (s : State) : Host.Outcome State Fault Refusal :=
  instr (.ovret f) (fun _ => do
    let x ← me
    let c ← myCore
    match c.serving with
    | none => setCore fun c => { c with active := false }
    | some k =>
      modify fun s =>
        let epc : Pc := c.epc.setWidth 32
        let t := s.ctx k
        if t.img ≠ c.img ∨ c.xb.toNat ≤ epc.toNat then
          (s.endService x.core).takeTrap k (trapAt .overlay (overlayTval epc t.img) epc)
        else s.trapReturn x.core k 0) (s := s)

/-- ISYNC: the slot fetches anew, under the core's execute boundary (R268, R328). -/
def execIsync (f : Fields) (s : State) : Host.Outcome State Fault Refusal :=
  instr (.isync f) (fun _ => do
    let c ← myCore
    setMe fun x => { x with fetched := [], xb := c.xb }) (s := s)

/-! ## Special registers (R283, R284, R329) -/

/-- The task whose registers a context reads: itself, or the task whose trap the handler serves (R283). -/
def State.subject? (s : State) (x : Ctx) : Option Ctx :=
  if x.task then some x else ((s.coreAt x.core).serving).map s.ctx

/-- %rc of a task (R199). -/
def Ctx.rcWord (x : Ctx) : Word := x.rcCount.setWidth 64 ||| (if x.know.sat then 0x10000 else 0)

/-- The value of a special register (R283, R284). -/
def State.sreg (s : State) (x : Ctx) (r : SReg) : Word :=
  let c := s.coreAt x.core
  let ofTask (f : Ctx → Word) : Word := ((s.subject? x).map f).getD 0
  match r with
  | .gtid => ofTask Ctx.gtid
  | .coord => x.core.setWidth 64
  | .home => ofTask fun t => t.home.setWidth 64
  | .slot => ofTask fun t => BitVec.ofNat 64 t.slot.val
  | .company => ofTask fun t => t.company.setWidth 64 ||| (if t.stage then 16 else 0)
  | .fmt => ofTask fun t => t.fmt.setWidth 64
  | .xb => c.xb.setWidth 64
  | .ovl => c.ovl.setWidth 64
  | .time => BitVec.ofNat 64 s.time
  | .cycle => BitVec.ofNat 64 s.cycle
  | .rc => ofTask Ctx.rcWord
  | .hbint => (s.part (s.pnumOf x)).hbint.setWidth 64
  | .cause => c.cause
  | .epc => c.epc
  | .tval => c.tval

/-- GETS. -/
def execGets (f : Fields) (s : State) : Host.Outcome State Fault Refusal :=
  instr (.gets f) (fun f => do
    if f.a = .s .time then waitHeld false
    let s ← get
    let x ← me
    match f.a with
    | .s r =>
      let v := s.sreg x r
      if r = .time ∨ r = .cycle then
        match ← logPoint 6 (cDie x.core) (sregIndex r).val v.toNat with
        | none => writeWord f.d v
        | some w => writeWord f.d (BitVec.ofNat 64 w)
      else writeWord f.d v
    | _ => pure ()) (s := s)

/-- XB as it is stored (R267). -/
def storedXb (v : Word) : BitVec 14 := BitVec.ofNat 14 (Nat.min (v.toNat % 2 ^ 14) 8192)

/-- A write to a special register, to its writable fields and only where the context may write it (R283, R329, R458). -/
def State.setSreg (s : State) (x : Ctx) (r : SReg) (v : Word) : State :=
  let core := x.core
  let serving := (s.coreAt core).serving
  match r with
  | .fmt =>
    if x.task then s.updCtx s.cur fun y => { y with fmt := v.setWidth 7 }
    else match serving with
      | none => s
      | some k => (s.updCtx k fun y => { y with fmt := v.setWidth 7 }).updCtx s.cur fun y => { y with fmt := v.setWidth 7 }
  | .xb => if x.task then s else s.updCore core fun c => { c with xb := storedXb v }
  | .ovl => if x.task then s else s.updCore core fun c => { c with ovl := v.setWidth 14 }
  | .cause =>
    if x.task || serving.isNone then s
    else s.updCore core fun c => { c with cause := (c.cause &&& ~~~0x30000) ||| (v &&& 0x30000) }
  | .epc => if x.task || serving.isNone then s else s.updCore core fun c => { c with epc := (v.setWidth 32).setWidth 64 }
  | .tval => if x.task || serving.isNone then s else s.updCore core fun c => { c with tval := v }
  | _ => s

/-- SETS. -/
def execSets (f : Fields) (s : State) : Host.Outcome State Fault Refusal :=
  instr (.sets f) (fun f => do
    let v ← src64 f.a
    let x ← me
    match f.d with
    | .s r => modify fun s => s.setSreg x r v
    | _ => pure ()) (s := s)

/-! ## Marks for observers (R334, R491) -/

/-- A record of the executing context in the trace buffer of its core. DESIGN CHOICE (log entry 137): the GTID in a record of the control context,
which has none (R215), is 0. -/
def traceMark (ty : Nat) (v : Word) : M Unit := do
  let x ← me
  let pc ← here
  modify fun s => s.trace x.core (s.pnumOf x) ty x.gtid pc.toNat v

/-- TRACE. -/
def execTrace (f : Fields) (s : State) : Host.Outcome State Fault Refusal :=
  instr (.trace f) (fun f => do traceMark 9 (← src64 f.a)) (s := s)

/-- MARK. -/
def execMark (f : Fields) (s : State) : Host.Outcome State Fault Refusal :=
  instr (.mark f) (fun f => do
    let v ← src64 f.a
    traceMark 10 ((v.setWidth 32).setWidth 64)) (s := s)

/-- A word with an unassigned opcode faults ILLEGAL_OP on every core, whatever its guard (R269, R270, R272). -/
def execUnassignedOpcode (opc : BitVec 12) (hint : Byte) (s : State) : Host.Outcome State Fault Refusal :=
  .next (s.faultHere .illegalOp (DecErr.illegal opc hint).tval)

end Sys2Proof.Machine
end

