-- ==== Sys2Proof/Machine/Vector.lean ====
section
/-! DEFINITION. Vector instructions (R378 to R400), with the LUT4 table (R119 to R121). -/

namespace Sys2Proof.Machine

/-! ## %fmt (R106 to R109) -/

/-- FMT of %fmt. -/
def Ctx.fmtCode (x : Ctx) : Nat := (x.fmt.extractLsb' 0 4).toNat
/-- RND of %fmt. -/
def Ctx.rnd (x : Ctx) : Rnd := rndOf (x.fmt.extractLsb' 4 2)
/-- SAT of %fmt. -/
def Ctx.sat (x : Ctx) : Bool := x.fmt.getLsbD 6

/-- Set N of R382. -/
def fmtsN : List Nat := [0, 1, 2, 6, 7, 8]
/-- The formats that VCMP and VAMAX accept (R385, R399). -/
def fmtsCmp : List Nat := [0, 1, 2, 3, 4, 6, 7, 8]

/-- An instruction accepts the format it finds in %fmt, or faults OPERAND_FORM (R109, R378). DEDUCED (R270, R273, log entry 139): %fmt is
a register, so an instruction whose guard is false does not look. -/
def checkFmt (ok : List Nat) (f : Fields) : M Unit := do
  let x ← me
  if x.guard f.h && !ok.contains x.fmtCode then fault .operandForm (x.fmt.setWidth 64)

/-! ## Operands (R379) -/

/-- The bits that an immediate gives every element of a format. -/
def immElem (fmt : Nat) (sat : Bool) (v : BitVec 21) : Nat :=
  if fmt = 5 ∨ fmt = 9 ∨ fmt = 10 then v.toNat % 16 else encodeNum fmt .rne sat (numOfInt v.toInt 0 false)

/-- A register whose elements are all the same bits. -/
def splat (w x : Nat) : Vec := packWith w (256 / w) fun _ => x

/-- A vector source of an entry with an element format. -/
def vecSrc (fmt : Nat) (o : Operand) : M Vec := do
  match o with
  | .i v => return splat (fmtWidth fmt) (immElem fmt (← me).sat v)
  | _ => srcVec o

/-- A vector source of an entry without an element format. -/
def rawSrc (o : Operand) : M Vec := do
  match o with
  | .i v => return splat 64 (v.signExtend 64).toNat
  | _ => srcVec o

/-- The register that field D names, read as a source. -/
def oldD (o : Operand) : M Vec := do
  match o with
  | .g r _ => return (← me).g[r]
  | _ => return 0

/-! ## Arithmetic (R381 to R384) -/

/-- Element by element: D, A and B give the value that is rounded once into D. -/
def elemOp (op : Rnd → Num → Num → Num → Num) (two : Bool) (f : Fields) : M Unit := do
  let x ← me
  let fmt := x.fmtCode
  let d ← oldD f.d
  let a ← vecSrc fmt f.a
  let b ← if two then vecSrc fmt f.b else pure a
  writeVec f.d (packWith (fmtWidth fmt) (fmtCount fmt) fun i =>
    encodeNum fmt x.rnd x.sat (op x.rnd (elem fmt d i) (elem fmt a i) (elem fmt b i)))

/-- VADD. -/
def execVadd (f : Fields) (s : State) : Host.Outcome State Fault Refusal :=
  instr (.vadd f) (elemOp (fun r _ a b => a.add r b) true) (checkFmt fmtsN) (s := s)

/-- VSUB. -/
def execVsub (f : Fields) (s : State) : Host.Outcome State Fault Refusal :=
  instr (.vsub f) (elemOp (fun r _ a b => a.add r b.neg) true) (checkFmt fmtsN) (s := s)

/-- VMUL. -/
def execVmul (f : Fields) (s : State) : Host.Outcome State Fault Refusal :=
  instr (.vmul f) (elemOp (fun _ _ a b => a.mul b) true) (checkFmt fmtsN) (s := s)

/-- VFMA. -/
def execVfma (f : Fields) (s : State) : Host.Outcome State Fault Refusal :=
  instr (.vfma f) (elemOp (fun r d a b => d.add r (a.mul b)) true) (checkFmt fmtsN) (s := s)

/-- VMIN. -/
def execVmin (f : Fields) (s : State) : Host.Outcome State Fault Refusal :=
  instr (.vmin f) (elemOp (fun _ _ a b => a.min b) true) (checkFmt fmtsN) (s := s)

/-- VMAX. -/
def execVmax (f : Fields) (s : State) : Host.Outcome State Fault Refusal :=
  instr (.vmax f) (elemOp (fun _ _ a b => a.max b) true) (checkFmt fmtsN) (s := s)

/-- VABS. -/
def execVabs (f : Fields) (s : State) : Host.Outcome State Fault Refusal :=
  instr (.vabs f) (elemOp (fun _ _ a _ => a.abs) false) (checkFmt fmtsN) (s := s)

/-- VNEG. -/
def execVneg (f : Fields) (s : State) : Host.Outcome State Fault Refusal :=
  instr (.vneg f) (elemOp (fun _ _ a _ => a.neg) false) (checkFmt fmtsN) (s := s)

/-- VDIV. -/
def execVdiv (f : Fields) (s : State) : Host.Outcome State Fault Refusal :=
  instr (.vdiv f) (elemOp (fun _ _ a b => a.div b) true) (checkFmt [0]) (s := s)

/-- VSQRT. -/
def execVsqrt (f : Fields) (s : State) : Host.Outcome State Fault Refusal :=
  instr (.vsqrt f) (elemOp (fun _ _ a _ => a.sqrt) false) (checkFmt [0]) (s := s)

/-- VEXP2. -/
def execVexp2 (f : Fields) (s : State) : Host.Outcome State Fault Refusal :=
  instr (.vexp2 f) (elemOp (fun _ _ a _ => a.exp2) false) (checkFmt [0]) (s := s)

/-- VLOG2. -/
def execVlog2 (f : Fields) (s : State) : Host.Outcome State Fault Refusal :=
  instr (.vlog2 f) (elemOp (fun _ _ a _ => a.log2) false) (checkFmt [0]) (s := s)

/-! ## Comparison, selection and bit patterns (R385 to R388) -/

/-- VCMP. -/
def execVcmp (f : Fields) (s : State) : Host.Outcome State Fault Refusal :=
  instr (.vcmp f) (fun f => do
    let fmt := (← me).fmtCode
    let a ← vecSrc fmt f.a
    let b ← vecSrc fmt f.b
    writePred f.d (maskOf 64 ((List.range (fmtCount fmt)).filter fun i => (elem fmt a i).lt (elem fmt b i))))
    (checkFmt fmtsCmp) (s := s)

/-- VSEL. -/
def execVsel (f : Fields) (s : State) : Host.Outcome State Fault Refusal :=
  instr (.vsel f) (fun f => do
    let fmt := (← me).fmtCode
    let d ← oldD f.d
    let a ← vecSrc fmt f.a
    let p ← readPred f.b
    writeVec f.d (packWith (fmtWidth fmt) (fmtCount fmt) fun i => if p.getLsbD i then elemBits fmt a i else elemBits fmt d i))
    (checkFmt (List.range 12)) (s := s)

/-- All 256 bits of two sources. -/
def rawOp (op : Vec → Vec → Vec) (f : Fields) : M Unit := do
  let a ← rawSrc f.a
  let b ← rawSrc f.b
  writeVec f.d (op a b)

/-- VAND. -/
def execVand (f : Fields) (s : State) : Host.Outcome State Fault Refusal := instr (.vand f) (rawOp (· &&& ·)) (s := s)

/-- VOR. -/
def execVor (f : Fields) (s : State) : Host.Outcome State Fault Refusal := instr (.vor f) (rawOp (· ||| ·)) (s := s)

/-- VXOR. -/
def execVxor (f : Fields) (s : State) : Host.Outcome State Fault Refusal := instr (.vxor f) (rawOp (· ^^^ ·)) (s := s)

/-- A shift of w-bit elements: width, pattern and unsigned count; the count of an immediate is its 64-bit value. -/
def vecShift (op : Nat → Nat → Nat → Int) (f : Fields) : M Unit := do
  let fmt := (← me).fmtCode
  let w := fmtWidth fmt
  let a ← vecSrc fmt f.a
  let count : Nat → Nat ← match f.b with
    | .i v => pure fun _ => (v.signExtend 64).toNat
    | _ => do
      let b ← srcVec f.b
      pure (elemBits fmt b)
  writeVec f.d (packWith w (fmtCount fmt) fun i => (op w (elemBits fmt a i) (count i) % 2 ^ w).toNat)

/-- The formats of the shifts and of VPACK. -/
def fmtsInt : List Nat := [6, 7, 8]

/-- VSHL. -/
def execVshl (f : Fields) (s : State) : Host.Outcome State Fault Refusal :=
  instr (.vshl f) (vecShift fun w u c => if w ≤ c then 0 else u * 2 ^ c) (checkFmt fmtsInt) (s := s)

/-- VSHR. -/
def execVshr (f : Fields) (s : State) : Host.Outcome State Fault Refusal :=
  instr (.vshr f) (vecShift fun w u c => if w ≤ c then 0 else u / 2 ^ c) (checkFmt fmtsInt) (s := s)

/-- VSRA. -/
def execVsra (f : Fields) (s : State) : Host.Outcome State Fault Refusal :=
  instr (.vsra f) (vecShift fun w u c => signedOf w u / 2 ^ (Min.min c (w - 1))) (checkFmt fmtsInt) (s := s)

/-! ## Conversion and quantisation (R389 to R394) -/

/-- Format code of a type (R389, R390, R392). -/
def tyFmt (ty : Ty) : Nat :=
  match ty with
  | .f32 => 0 | .bf16 => 1 | .f16 => 2 | .e4m3 => 3 | .e5m2 => 4 | .i8 => 6 | .i16 => 7 | .i32 => 8 | _ => 0

/-- The immediate of an operand as an integer. -/
def immOf (o : Operand) : Int :=
  match o with
  | .i v => v.toInt
  | _ => 0

/-- The source formats of VCVT. -/
def fmtsCvt : List Nat := [0, 1, 2, 3, 4, 6, 7, 8]

/-- VCVT's format, and the limit on its part number, a check of field B whose bound %fmt gives (R270, R389). -/
def checkCvt (f : Fields) : M Unit := do
  checkFmt fmtsCvt f
  let x ← me
  if fmtsCvt.contains x.fmtCode then
    let ns := fmtCount x.fmtCode
    let nd := fmtCount (tyFmt f.md.ty)
    let p := immOf f.b
    if p < 0 ∨ max ns nd / min ns nd ≤ p.toNat then fault .operandForm (DecErr.form 0 2 (operandRaw f.b 0)).tval

/-- VCVT. -/
def execVcvt (f : Fields) (s : State) : Host.Outcome State Fault Refusal :=
  instr (.vcvt f) (fun f => do
    let x ← me
    let src := x.fmtCode
    let dst := tyFmt f.md.ty
    let ns := fmtCount src
    let nd := fmtCount dst
    let p := (immOf f.b).toNat
    let d ← oldD f.d
    let a ← vecSrc src f.a
    let conv (i : Nat) : Nat := convertNum src dst x.rnd x.sat (elem src a i)
    writeVec f.d (packWith (fmtWidth dst) nd fun i =>
      if nd ≤ ns then conv (p * nd + i)
      else if p * ns ≤ i ∧ i < p * ns + ns then conv (i - p * ns) else elemBits dst d i))
    checkCvt (s := s)

/-- A companion as VQNT writes it for FP4: the scale byte of each half (R390). -/
def fp4Scale (amax : Nat) : Nat :=
  match (decodeFloat fp32 amax).abs with
  | .nan => 0xFF
  | .inf _ => 254
  | .fin _ m e => if m = 0 then 0 else (min 254 (max 0 (floorLog2 m e - 2 + 127))).toNat

/-- The scale code of QN4 for an amax and a superblock scale (R390). -/
def qn4ScaleCode (amax s : Nat) : Nat :=
  match (decodeFloat fp32 amax).abs, decodeFloat fp32 s with
  | .nan, _ => 0
  | .inf _, .fin n m _ => if m = 0 ∨ n then 0 else 255
  | .fin _ m e, .fin n m' e' =>
    if m = 0 ∨ m' = 0 ∨ n then 0
    else
      let num := 256 * m * 2 ^ (e - e').toNat
      let den := m' * 2 ^ (e' - e).toNat
      min 255 (max 1 ((num + den - 1) / den))
  | _, _ => 0

/-- The companion that part 0 of VQNT makes of a scale request (R390). -/
def companionOf (qn4 : Bool) (request : Word) : Word :=
  let lo := (request.extractLsb' 0 32).toNat
  let hi := (request.extractLsb' 32 32).toNat
  if qn4 then BitVec.ofNat 64 (qn4ScaleCode lo hi + hi * 2 ^ 32) else BitVec.ofNat 64 (fp4Scale lo + fp4Scale hi * 2 ^ 8)

/-- Scale byte of element k of an FP4 register (R130). -/
def scaleByte (c : Word) (k : Nat) : Nat := (c.extractLsb' (8 * (k / 32)) 8).toNat

/-- The code of a value under a companion (R391). -/
def quantCode (qn4 : Bool) (r : Rnd) (c : Word) (k : Nat) (x : Num) : Nat :=
  if qn4 then qn4Encode (c.extractLsb' 32 32).toNat (c.extractLsb' 0 8).toNat x
  else
    let e := scaleByte c k
    if e = 255 ∨ x = .nan then 0 else roundFloat e2m1 r true (x.mul (.fin false 1 (127 - e)))

/-- The part number of VQNT and VDQ: the LANE of field B. -/
def partOf (o : Operand) : Nat :=
  match o with
  | .g _ lane => lane.val
  | _ => 0

/-- VQNT. -/
def execVqnt (f : Fields) (s : State) : Host.Outcome State Fault Refusal :=
  instr (.vqnt f) (fun f => do
    let x ← me
    let src := tyFmt f.md.ty
    let m := fmtCount src
    let p := partOf f.b
    let qn4 := x.fmtCode == 10
    let d ← oldD f.d
    let a ← vecSrc src f.a
    let b := (← oldD f.b).setWidth 64
    let c := if p = 0 then companionOf qn4 b else b
    writeVec f.d (packWith 4 64 fun k =>
      if p * m ≤ k ∧ k < p * m + m then quantCode qn4 x.rnd c k (elem src a (k - p * m)) else elemBits 5 d k)
    if p = 0 then writeVec f.b (c.setWidth 256))
    (checkFmt [5, 10]) (s := s)

/-- The value of 4-bit code k of a register under a companion (R116, R117, R120, R123). -/
def codeNum (fmt : Nat) (lut : BitVec 128) (c : Word) (a : Vec) (k : Nat) : Num :=
  let q := elemBits 5 a k
  match fmt with
  | 5 => fp4Num (scaleByte c k) q
  | 9 => numOfInt (lut.extractLsb' (8 * q) 8).toInt 0 false
  | 10 => decodeFloat fp32 (qn4Decode (c.extractLsb' 32 32).toNat (c.extractLsb' 0 8).toNat q)
  | _ => numOfInt (signedOf 4 q) 0 false

/-- VDQ. -/
def execVdq (f : Fields) (s : State) : Host.Outcome State Fault Refusal :=
  instr (.vdq f) (fun f => do
    let x ← me
    let lut := (← me).lut.getD (← myCore).lut
    let dst := tyFmt f.md.ty
    let m := fmtCount dst
    let a ← vecSrc x.fmtCode f.a
    let c := (← oldD f.b).setWidth 64
    writeVec f.d (packWith (fmtWidth dst) m fun i => encodeNum dst x.rnd x.sat (codeNum x.fmtCode lut c a (partOf f.b * m + i))))
    (checkFmt [5, 9, 10, 11]) (s := s)

/-- VLUT. -/
def execVlut (f : Fields) (s : State) : Host.Outcome State Fault Refusal :=
  instr (.vlut f) (fun f => do
    let a ← rawSrc f.a
    setCore fun c => { c with lut := a.extractLsb' 0 128 }) (s := s)

/-- VPACK. -/
def execVpack (f : Fields) (s : State) : Host.Outcome State Fault Refusal :=
  instr (.vpack f) (fun f => do
    let x ← me
    let fmt := x.fmtCode
    let n := fmtCount fmt
    let w := fmtWidth fmt
    let a ← vecSrc fmt f.a
    let b ← vecSrc fmt f.b
    writeVec f.d (packWith (w / 2) (2 * n) fun i =>
      fitInt (w / 2) x.sat (signedOf w (if i < n then elemBits fmt a i else elemBits fmt b (i - n)))))
    (checkFmt fmtsInt) (s := s)

/-- VUNPK. -/
def execVunpk (f : Fields) (s : State) : Host.Outcome State Fault Refusal :=
  instr (.vunpk f) (fun f => do
    let fmt := (← me).fmtCode
    let n := fmtCount fmt
    let w := fmtWidth fmt
    let p := (immOf f.b).toNat
    let a ← vecSrc fmt f.a
    writeVec f.d (packWith (2 * w) (n / 2) fun i => (signedOf w (elemBits fmt a (p * (n / 2) + i)) % 2 ^ (2 * w)).toNat))
    (checkFmt [6, 7, 11]) (s := s)

/-! ## Moving elements (R395 to R397) -/

/-- VSPLAT. -/
def execVsplat (f : Fields) (s : State) : Host.Outcome State Fault Refusal :=
  instr (.vsplat f) (fun f => do
    let w := fmtWidth (← me).fmtCode
    writeVec f.d (splat w ((← src64 f.a).toNat % 2 ^ w)))
    (checkFmt (List.range 12)) (s := s)

/-- Byte i of the control of VPERM; a register has none above 31, and the manual no value for it (log entry 20). -/
def permIndex (b : Vec) (i : Nat) : Nat :=
  if i < 32 then (b.extractLsb' (8 * i) 8).toNat else (Config.permByte b.toNat i).toNat

/-- VPERM. -/
def execVperm (f : Fields) (s : State) : Host.Outcome State Fault Refusal :=
  instr (.vperm f) (fun f => do
    let fmt := (← me).fmtCode
    let n := fmtCount fmt
    let a ← vecSrc fmt f.a
    let b ← srcVec f.b
    writeVec f.d (packWith (fmtWidth fmt) n fun i => if permIndex b i < n then elemBits fmt a (permIndex b i) else 0))
    (checkFmt (List.range 9)) (s := s)

/-- An integer format: INT8, INT16, INT32 and INT4 (R105). -/
def intFmt (fmt : Nat) : Bool := [6, 7, 8, 11].contains fmt

/-- VEXT. -/
def execVext (f : Fields) (s : State) : Host.Outcome State Fault Refusal :=
  instr (.vext f) (fun f => do
    let fmt := (← me).fmtCode
    let a ← srcVec f.a
    let k := (← src64 f.b).toNat
    let u := elemBits fmt a k
    writeInt f.d 64 false (if fmtCount fmt ≤ k then 0 else if intFmt fmt then signedOf (fmtWidth fmt) u else u))
    (checkFmt (List.range 12)) (s := s)

/-- VINS. -/
def execVins (f : Fields) (s : State) : Host.Outcome State Fault Refusal :=
  instr (.vins f) (fun f => do
    let fmt := (← me).fmtCode
    let d ← oldD f.d
    let a ← src64 f.a
    let k := (← src64 f.b).toNat
    writeVec f.d (if fmtCount fmt ≤ k then d else setBits (fmtWidth fmt) d k a.toNat))
    (checkFmt (List.range 12)) (s := s)

/-! ## Reductions and dot products (R398 to R400) -/

/-- One node of a reduction: a floating one is rounded to FP32 (R398). -/
def redNode (op : Nat) (fmt : Nat) (r : Rnd) (sat : Bool) (a b : Num) : Num :=
  let v := if op = 0 then a.add r b else if op = 1 then a.min b else a.max b
  if (floatOf fmt).isSome then decodeFloat fp32 (roundFloat fp32 r sat v) else v

/-- One level of the pairwise tree. -/
def redPairs (node : Num → Num → Num) (l : List Num) : List Num :=
  match l with
  | a :: b :: rest => node a b :: redPairs node rest
  | l => l

/-- The pairwise tree in lane order. -/
def redTree (node : Num → Num → Num) (fuel : Nat) (l : List Num) : List Num :=
  match fuel with
  | 0 => l
  | n + 1 => redTree node n (redPairs node l)

/-- VRED. -/
def execVred (f : Fields) (s : State) : Host.Outcome State Fault Refusal :=
  instr (.vred f) (fun f => do
    let x ← me
    let fmt := x.fmtCode
    let a ← vecSrc fmt f.a
    let v := redTree (redNode (immOf f.b).toNat fmt x.rnd x.sat) 6 ((List.range (fmtCount fmt)).map (elem fmt a))
    writeVec f.d (packWith (fmtWidth fmt) 1 fun _ => encodeNum fmt x.rnd x.sat ((v.head?).getD .nan)))
    (checkFmt fmtsN) (s := s)

/-- The prefixes of a scan after a first value. -/
def scanFrom (node : Num → Num → Num) (acc : Num) (l : List Num) : List Num :=
  match l with
  | [] => [acc]
  | a :: r => acc :: scanFrom node (node acc a) r

/-- VSCAN. -/
def execVscan (f : Fields) (s : State) : Host.Outcome State Fault Refusal :=
  instr (.vscan f) (fun f => do
    let x ← me
    let fmt := x.fmtCode
    let n := fmtCount fmt
    let a ← vecSrc fmt f.a
    let v := scanFrom (redNode (immOf f.b).toNat fmt x.rnd x.sat) (elem fmt a 0) (((List.range n).drop 1).map (elem fmt a))
    writeVec f.d (packWith (fmtWidth fmt) n fun i => encodeNum fmt x.rnd x.sat (v.getD i .nan)))
    (checkFmt fmtsN) (s := s)

/-- VAMAX. -/
def execVamax (f : Fields) (s : State) : Host.Outcome State Fault Refusal :=
  instr (.vamax f) (fun f => do
    let x ← me
    let fmt := x.fmtCode
    let a ← vecSrc fmt f.a
    let b : Nat ← match f.b with
      | .i v => pure (roundFloat fp32 .rne x.sat (numOfInt v.toInt 0 false))
      | _ => do
        let w ← src64 f.b
        pure (w.toNat % 2 ^ 32)
    writeInt f.d 64 false ((List.range (fmtCount fmt)).foldl (fun (acc : Nat) i => amaxBits x.sat acc (elem fmt a i)) b : Nat))
    (checkFmt fmtsCmp) (s := s)

/-- VDOT. -/
def execVdot (f : Fields) (s : State) : Host.Outcome State Fault Refusal :=
  instr (.vdot f) (fun f => do
    let x ← me
    let fmt := x.fmtCode
    let acc := if fmt = 6 then 8 else 0
    let g := fmtCount fmt / 8
    let d ← oldD f.d
    let a ← vecSrc fmt f.a
    let b ← vecSrc fmt f.b
    writeVec f.d (packWith 32 8 fun j =>
      encodeNum acc x.rnd x.sat ((List.range g).foldl (fun (t : Num) i =>
        t.add x.rnd ((elem fmt a (g * j + i)).mul (elem fmt b (g * j + i)))) (elem acc d j))))
    (checkFmt [1, 2, 3, 4, 6]) (s := s)

end Sys2Proof.Machine
end

