-- ==== Sys2Proof/Machine/Tile.lean ====
section
/-! DEFINITION. Tile instructions: binding the unit, descriptors and commands (R401 to R407, R409, R411, R413 to R416). The commands
perform by events of their own. -/

namespace Sys2Proof.Machine

/-- TILE_STATE of R406. -/
def tileTval (reason macro_ : Nat) : Word := BitVec.ofNat 64 (reason + macro_ * 2 ^ 4)

/-- The unit is unbound, or bound by the executing context (R402). -/
def checkUnit : M Unit := do
  let s ← get
  match (← myCore).tile.bound with
  | none => pure ()
  | some k => if k = s.cur then pure () else fault .tileState (tileTval 1 0)

/-- An unbound unit is bound to the executing context, which is pinned; row buffer and accumulators are cleared (R402). -/
def bindUnit : M Unit := do
  let s ← get
  match (← myCore).tile.bound with
  | some _ => pure ()
  | none =>
    setCore fun c => { c with tile := { c.tile with bound := some s.cur, row := .invalid, acc0 := [], acc1 := [] } }
    setMe fun x => { x with pinned := true }

/-- The executing context's company holds a macro of its core (R243). -/
def holdsMacro (q : Nat) : M Bool := do
  let s ← get
  let x ← me
  match s.company? (clusterOf x.home) x.company.toNat with
  | none => return false
  | some co => return x.task && co.tiles.contains (x.core, q)

/-- TILE_STATE with reason 2 for the lowest macro of a list that the company does not hold (R406). -/
def checkMacros (l : List Nat) : M Unit :=
  l.forM fun q => do if !(← holdsMacro q) then fault .tileState (tileTval 2 q)

/-! ## Descriptors (R407) -/

/-- STRIDE. -/
def descStride (d : Vec) : Int := (d.extractLsb' 0 32).toInt
/-- FMT. -/
def descFmt (d : Vec) : Nat := (d.extractLsb' 64 4).toNat
/-- ACC. -/
def descAcc (d : Vec) : Nat := (d.extractLsb' 68 1).toNat
/-- MACRO. -/
def descMacro (d : Vec) : Nat := (d.extractLsb' 69 2).toNat
/-- ROWS. -/
def descRows (d : Vec) : Nat := (d.extractLsb' 72 9).toNat
/-- SADDR. -/
def descScales (d : Vec) : Nat := (d.extractLsb' 128 64).toNat

/-- A descriptor that an entry accepts: TSTOR or not, its rows at most a number, MACRO used or not. -/
def descOk (store useMacro : Bool) (rows : Nat) (d : Vec) : Bool :=
  d.extractLsb' 32 32 == 0 && d.extractLsb' 71 1 == 0 && d.extractLsb' 81 47 == 0 && (store || descAcc d == 0) &&
    (useMacro || descMacro d == 0) && (if store then [0, 1, 2] else [1, 2, 3, 4, 5, 6]).contains (descFmt d) &&
    decide (1 ≤ descRows d) && decide (descRows d ≤ rows)

/-- Reads the descriptor in field B; OPERAND_FORM carries the tval of R270 for that field. -/
def tileDesc (store useMacro : Bool) (rows : Nat) (f : Fields) : M Vec := do
  let d ← descOf f.b
  if descOk store useMacro rows d then return d else fault .operandForm (DecErr.form 0 2 (operandRaw f.b 0)).tval

/-- A 16-bit format moves at even addresses (R407). -/
def checkEven (base : Nat) (d : Vec) : M Unit :=
  if fmtWidth (descFmt d) = 16 ∧ (base % 2 ≠ 0 ∨ descStride d % 2 ≠ 0) then fault .align (BitVec.ofNat 64 base) else pure ()

/-- A command that moves memory: its target and descriptor. -/
def tileMem (store useMacro : Bool) (rows : Nat) (f : Fields)
    (body : Fin 4 → Bool → Nat → Vec → BitVec 32 → OpBody) : M Unit := do
  checkUnit
  let d ← tileDesc store useMacro rows f
  let t ← mOperand f f.a 1
  let sel ← sourceSel t
  checkEven t.addr d
  if useMacro then checkMacros [descMacro d]
  bindUnit
  enqueue f.d 4 (body (spaceCode t.space) f.md.na t.addr d sel)

/-- TLDB. -/
def execTldb (f : Fields) (s : State) : Host.Outcome State Fault Refusal :=
  instr (.tldb f) (fun f => tileMem false true 256 f .tldb) (s := s)

/-- TLDA. -/
def execTlda (f : Fields) (s : State) : Host.Outcome State Fault Refusal :=
  instr (.tlda f) (fun f => tileMem false false 16 f .tlda) (s := s)

/-- TLDAQ. -/
def execTldaq (f : Fields) (s : State) : Host.Outcome State Fault Refusal :=
  instr (.tldaq f) (fun f => do
    checkUnit
    match f.a with
    | .q r =>
      let (n, q) ← consumerOf r 0
      if !q.wide then fault .operandForm (DecErr.form 0 1 (operandRaw f.a 0)).tval
      let d ← tileDesc false false 16 f
      bindUnit
      enqueue f.d 4 (.tldaq r n d)
    | _ => pure ()) (s := s)

/-- TSTOR; its operation keeps the %fmt read at issue (R108, R415). -/
def execTstor (f : Fields) (s : State) : Host.Outcome State Fault Refusal :=
  instr (.tstor f) (fun f => tileMem true false 16 f .tstor) (s := s)

/-! ## Commands with a control word (R411, R413, R414) -/

/-- Reads a control word whose bits from n up are zero. -/
def tileWord (n : Nat) (f : Fields) : M Word := do
  let w ← src64 f.a
  if w.toNat < 2 ^ n then return w else fault .operandForm w

/-- TMMA. -/
def execTmma (f : Fields) (s : State) : Host.Outcome State Fault Refusal :=
  instr (.tmma f) (fun f => do
    checkUnit
    let w ← tileWord 5 f
    if w.extractLsb' 0 4 = 0 then fault .operandForm w
    checkMacros ((List.range 4).filter fun q => w.getLsbD q)
    bindUnit
    enqueue f.d 4 (.tmma w)) (s := s)

/-- TZERO. -/
def execTzero (f : Fields) (s : State) : Host.Outcome State Fault Refusal :=
  instr (.tzero f) (fun f => do
    checkUnit
    let w ← tileWord 2 f
    bindUnit
    enqueue f.d 4 (.tzero w)) (s := s)

/-- The eight accumulators that a TGET names. -/
def Tile.group (t : Tile) (w : Word) : Vec :=
  let acc := if w.getLsbD 0 then t.acc1 else t.acc0
  let row := (w.extractLsb' 1 4).toNat
  let grp := (w.extractLsb' 5 5).toNat
  packWith 32 8 fun k => (acc.getD (row * 256 + 8 * grp + k) 0).toNat

/-- TGET: its read command waits behind every earlier command, and its instruction on it as a future. Only the command is kept while it
waits: a withdrawn TGET has taken nothing (R232, R414). -/
def execTget (f : Fields) (s : State) : Host.Outcome State Fault Refusal :=
  instr (.tget f) (fun f => do
    checkUnit
    let w ← tileWord 10 f
    bindUnit
    let s ← get
    match s.ops.find? fun e => e.2.key == s.cur && e.2.body.isTget with
    | some (n, o) =>
      if o.result.isNone then waitOn .future
      writeVec f.d ((← myCore).tile.group w)
      setMe Ctx.bump
      modify fun s => { s with ops := s.ops.del n }
    | none =>
      let _ ← enqueueOp 4 (.tget w)
      let s₂ ← get
      stop fun s =>
        let s := { s with ops := s₂.ops, fresh := s₂.fresh, cores := s₂.cores }
        (s.updCtx s.cur fun x => { x with pinned := true }).enterWait .future) (s := s)

/-- TSTAT. -/
def execTstat (f : Fields) (s : State) : Host.Outcome State Fault Refusal :=
  instr (.tstat f) (fun f => do
    let s ← get
    let x ← me
    let t := (← myCore).tile
    let q := s.engQueue x.core 4
    let held ← (List.range 4).filterM holdsMacro
    let busy := q.any fun e => e.2.done != 0 || e.2.flying != 0 || e.2.result.isSome
    let sum (l : List Nat) : Nat := l.foldl (fun (a : Nat) b => a + b) 0
    let mfmt := sum ((List.range 4).map fun i => (match t.b.look i with | some b => b.fmt | none => 6) * 2 ^ (16 + 4 * i))
    let mval := sum ((List.range 4).map fun i => match t.b.look i with
      | some b => if b.valid then 2 ^ (36 + i) else 0
      | none => 0)
    let row := if t.row.valid then 2 ^ 4 + t.row.fmt * 2 ^ 5 + t.row.rows * 2 ^ 9 else 0
    writeInt f.d 64 false (Nat.min q.length 8 + row + (if t.bound = some s.cur then 2 ^ 14 else 0) + (if busy then 2 ^ 15 else 0) +
      mfmt + sum (held.map fun i => 2 ^ (32 + i)) + mval : Nat)) (s := s)

end Sys2Proof.Machine
end

