-- ==== Sys2Proof/Machine/Reissue.lean ====
section
/-! DEFINITION. An instruction that waits or is in flight acts again (R216, R231, R232). -/

namespace Sys2Proof.Machine

/-- The meaning of an instruction word; an event has none. -/
def meaning (i : Instr) (s : State) : Option (Host.Outcome State Fault Refusal) :=
  match i with
  | .nop f => some (execNop f s)
  | .yield f => some (execYield f s)
  | .hbeat f => some (execHbeat f s)
  | .exit f => some (execExit f s)
  | .br f => some (execBr f s)
  | .brx f => some (execBrx f s)
  | .call f => some (execCall f s)
  | .ret f => some (execRet f s)
  | .loop f => some (execLoop f s)
  | .bqc f => some (execBqc f s)
  | .trap f => some (execTrap f s)
  | .tret f => some (execTret f s)
  | .gets f => some (execGets f s)
  | .sets f => some (execSets f s)
  | .ovret f => some (execOvret f s)
  | .isync f => some (execIsync f s)
  | .bkpt f => some (execBkpt f s)
  | .trace f => some (execTrace f s)
  | .mark f => some (execMark f s)
  | .sleep f => some (execSleep f s)
  | .event f => some (execEvent f s)
  | .twait f => some (execTwait f s)
  | .pmov f => some (execPmov f s)
  | .pand f => some (execPand f s)
  | .por f => some (execPor f s)
  | .pxor f => some (execPxor f s)
  | .pandn f => some (execPandn f s)
  | .pany f => some (execPany f s)
  | .pall f => some (execPall f s)
  | .pcnt f => some (execPcnt f s)
  | .pfromg f => some (execPfromg f s)
  | .ptog f => some (execPtog f s)
  | .mov f => some (execMov f s)
  | .movi f => some (execMovi f s)
  | .movh f => some (execMovh f s)
  | .add f => some (execAdd f s)
  | .sub f => some (execSub f s)
  | .neg f => some (execNeg f s)
  | .abs f => some (execAbs f s)
  | .mul f => some (execMul f s)
  | .mulh f => some (execMulh f s)
  | .mulhn f => some (execMulhn f s)
  | .madd f => some (execMadd f s)
  | .div f => some (execDiv f s)
  | .divn f => some (execDivn f s)
  | .rem f => some (execRem f s)
  | .remn f => some (execRemn f s)
  | .min f => some (execMin f s)
  | .max f => some (execMax f s)
  | .minn f => some (execMinn f s)
  | .maxn f => some (execMaxn f s)
  | .and f => some (execAnd f s)
  | .or f => some (execOr f s)
  | .xor f => some (execXor f s)
  | .andn f => some (execAndn f s)
  | .orn f => some (execOrn f s)
  | .shl f => some (execShl f s)
  | .shr f => some (execShr f s)
  | .sra f => some (execSra f s)
  | .rol f => some (execRol f s)
  | .ror f => some (execRor f s)
  | .popc f => some (execPopc f s)
  | .clz f => some (execClz f s)
  | .ctz f => some (execCtz f s)
  | .brev f => some (execBrev f s)
  | .bswap f => some (execBswap f s)
  | .bfx f => some (execBfx f s)
  | .bfi f => some (execBfi f s)
  | .sext f => some (execSext f s)
  | .zext f => some (execZext f s)
  | .sel f => some (execSel f s)
  | .cmp f => some (execCmp f s)
  | .tst f => some (execTst f s)
  | .lea f => some (execLea f s)
  | .adds f => some (execAdds f s)
  | .subs f => some (execSubs f s)
  | .rect f => some (execRect f s)
  | .cdist f => some (execCdist f s)
  | .home f => some (execHome f s)
  | .ld f => some (execLd f s)
  | .st f => some (execSt f s)
  | .ldv f => some (execLdv f s)
  | .stv f => some (execStv f s)
  | .ldvt f => some (execLdvt f s)
  | .aadd f => some (execAadd f s)
  | .amin f => some (execAmin f s)
  | .amax f => some (execAmax f s)
  | .aminn f => some (execAminn f s)
  | .amaxn f => some (execAmaxn f s)
  | .aand f => some (execAand f s)
  | .aor f => some (execAor f s)
  | .axor f => some (execAxor f s)
  | .aswp f => some (execAswp f s)
  | .acas f => some (execAcas f s)
  | .afadd f => some (execAfadd f s)
  | .afmax f => some (execAfmax f s)
  | .fence f => some (execFence f s)
  | .fjoin f => some (execFjoin f s)
  | .pref f => some (execPref f s)
  | .clwb f => some (execClwb f s)
  | .clinv f => some (execClinv f s)
  | .bari f => some (execBari f s)
  | .bara f => some (execBara f s)
  | .barw f => some (execBarw f s)
  | .bars f => some (execBars f s)
  | .msend f => some (execMsend f s)
  | .mwait f => some (execMwait f s)
  | .mcnt f => some (execMcnt f s)
  | .mset f => some (execMset f s)
  | .probe f => some (execProbe f s)
  | .qbind f => some (execQbind f s)
  | .qfree f => some (execQfree f s)
  | .qadv f => some (execQadv f s)
  | .qcom f => some (execQcom f s)
  | .qwait f => some (execQwait f s)
  | .qcue f => some (execQcue f s)
  | .qskip f => some (execQskip f s)
  | .qlen f => some (execQlen f s)
  | .fwait f => some (execFwait f s)
  | .ftest f => some (execFtest f s)
  | .fcancel f => some (execFcancel f s)
  | .fexport f => some (execFexport f s)
  | .finit f => some (execFinit f s)
  | .fres f => some (execFres f s)
  | .ffail f => some (execFfail f s)
  | .fwhen f => some (execFwhen f s)
  | .spawn f => some (execSpawn f s)
  | .migrate f => some (execMigrate f s)
  | .claim f => some (execClaim f s)
  | .acq f => some (execAcq f s)
  | .acqt f => some (execAcqt f s)
  | .rel f => some (execRel f s)
  | .boxq f => some (execBoxq f s)
  | .cpy f => some (execCpy f s)
  | .cpys f => some (execCpys f s)
  | .cfill f => some (execCfill f s)
  | .cpyq f => some (execCpyq f s)
  | .srfence f => some (execSrfence f s)
  | .opset f => some (execOpset f s)
  | .opget f => some (execOpget f s)
  | .opctlStart f => some (execOpctlStart f s)
  | .opctlStop f => some (execOpctlStop f s)
  | .opctlStatus f => some (execOpctlStatus f s)
  | .opctlReset f => some (execOpctlReset f s)
  | .opctlSkiphead f => some (execOpctlSkiphead f s)
  | .vadd f => some (execVadd f s)
  | .vsub f => some (execVsub f s)
  | .vmul f => some (execVmul f s)
  | .vfma f => some (execVfma f s)
  | .vmin f => some (execVmin f s)
  | .vmax f => some (execVmax f s)
  | .vabs f => some (execVabs f s)
  | .vneg f => some (execVneg f s)
  | .vdiv f => some (execVdiv f s)
  | .vsqrt f => some (execVsqrt f s)
  | .vexp2 f => some (execVexp2 f s)
  | .vlog2 f => some (execVlog2 f s)
  | .vcmp f => some (execVcmp f s)
  | .vsel f => some (execVsel f s)
  | .vand f => some (execVand f s)
  | .vor f => some (execVor f s)
  | .vxor f => some (execVxor f s)
  | .vshl f => some (execVshl f s)
  | .vshr f => some (execVshr f s)
  | .vsra f => some (execVsra f s)
  | .vcvt f => some (execVcvt f s)
  | .vqnt f => some (execVqnt f s)
  | .vdq f => some (execVdq f s)
  | .vlut f => some (execVlut f s)
  | .vsplat f => some (execVsplat f s)
  | .vperm f => some (execVperm f s)
  | .vext f => some (execVext f s)
  | .vins f => some (execVins f s)
  | .vred f => some (execVred f s)
  | .vamax f => some (execVamax f s)
  | .vdot f => some (execVdot f s)
  | .vscan f => some (execVscan f s)
  | .vpack f => some (execVpack f s)
  | .vunpk f => some (execVunpk f s)
  | .tldb f => some (execTldb f s)
  | .tlda f => some (execTlda f s)
  | .tldaq f => some (execTldaq f s)
  | .tmma f => some (execTmma f s)
  | .tzero f => some (execTzero f s)
  | .tget f => some (execTget f s)
  | .tstor f => some (execTstor f s)
  | .tstat f => some (execTstat f s)
  | .clmul f => some (execClmul f s)
  | .clmulh f => some (execClmulh f s)
  | .bdep f => some (execBdep f s)
  | .bext f => some (execBext f s)
  | _ => none

/-- The instruction of a context, issued before, acts again: it completes, faults, or waits as before. -/
def State.reissue (s : State) (k : Nat) : State :=
  let s' := { s with cur := k }
  match decode (s.ctx k).word with
  | .error _ => s
  | .ok i =>
    match meaning i s' with
    | some (.next t) => t
    | _ => s

/-- A context has gone on: it is gone, or its status or program counter has changed. -/
def State.moved (s t : State) (k : Nat) : Bool :=
  match t.ctxs.look k with
  | none => true
  | some y => y.status != (s.ctx k).status || y.pc != (s.ctx k).pc

end Sys2Proof.Machine
end

