-- ==== Sys2Proof/Machine/Traps.lean ====
section
/-! DEFINITION. What stops a task before its next instruction, trap service, waits that end, arrivals, heartbeats and fences
(R163, R216 to R237, R265, R266, R331 to R333, R456, R461, R495). -/

namespace Sys2Proof.Machine

/-! ## Before an instruction (R217, R225, R265, R461, R495) -/

/-- A breakpoint-table entry matches (R494, R495). -/
def BpEntry.hits (e : BpEntry) (x : Ctx) : Bool :=
  e.en && ((x.gtid ^^^ e.gtid) &&& e.gmask) == 0 && e.pc == x.pc &&
    (if e.cond = 0 then true
     else if e.cond = 1 then (x.pred e.pred).getLsbD 0
     else if e.cond = 2 then laneOf x.g[e.reg] 0 == e.value
     else false)

/-- The lowest-numbered entry that matches before the next instruction of a task (R495, R496). -/
def State.bpHit (s : State) (x : Ctx) : Option Nat :=
  if x.task && !x.skipBp then ((s.coreAt x.core).bps.zipIdx.find? fun e => e.1.hits x).map Prod.snd else none

/-- The next word has been fetched ahead (R268). -/
def Ctx.fetchedWord (x : Ctx) : Option InstrWord := (x.fetched.find? fun e => e.1 == x.pc).map Prod.snd

/-- The execute boundary under which a slot fetches: the core's as it was when the slot last executed ISYNC, or entered or left the control
context, or when its task came to it (R268, log entry 103). -/
def Ctx.boundary (x : Ctx) (c : Core) : BitVec 14 := if x.arriving then c.xb else x.xb

/-- The next instruction cannot be fetched: the image is another one on arrival, or the PC is not below %xb (R225, R265). -/
def State.overlaid (s : State) (x : Ctx) : Bool :=
  let c := s.coreAt x.core
  (x.task && x.arriving && x.img != c.img) || (x.fetchedWord.isNone && (x.boundary c).toNat ≤ x.pc.toNat)

/-- A slot's occupant may issue: no instruction in flight, no wait, not suspended, on a core that is not fenced (R216); a cluster in no
pitch runs no control context (R54). -/
def State.ready (s : State) (k : Nat) : Bool :=
  let x := s.ctx k
  let c := s.coreAt x.core
  x.status == .idle && x.readyAt ≤ s.cycle && !x.suspended && !c.fenced && (x.task || (c.active && !c.chalt && s.owner (clusterOf x.core) != 0))

/-- What comes before the next instruction of a task. -/
inductive Before where
  | nothing | breakpoint | overlay | async | pending
  deriving DecidableEq, Repr

/-- On arrival the checks of R225 come before an asynchronous record (R223); otherwise the records come first, then the trap that a
resume raises again (R474). -/
def State.before (s : State) (k : Nat) : Before :=
  let x := s.ctx k
  let bp := (s.bpHit x).isSome
  if x.arriving then
    if bp then .breakpoint else if s.overlaid x then .overlay else if x.asyncs.isEmpty then .nothing else .async
  else if !x.asyncs.isEmpty then .async
  else if x.pending.isSome then .pending
  else if bp then .breakpoint else if s.overlaid x then .overlay else .nothing

/-- The breakpoint table stops a task (R495). -/
def State.breakpointStop (s : State) (k : Nat) : State :=
  let x := s.ctx k
  match s.bpHit x with
  | none => s
  | some i => s.takeTrap k { trapAt .bkpt (BitVec.ofNat 64 (2 ^ 63 + i)) x.pc with table := true }

/-- The OVERLAY trap of a task; the control context halts (R225, R265, R266). -/
def State.overlayTrap (s : State) (k : Nat) : State :=
  let x := s.ctx k
  if x.task then (s.setCtx k { x with arriving := false }).takeTrap k (trapAt .overlay (overlayTval x.pc x.img) x.pc)
  else s.haltControl x.core (FaultCode.num .overlay)

/-- Fault code of a record (R455). -/
def recCode (r : FaultRec) : Nat := r.code

/-- The oldest undelivered record of a task raises ASYNC at its next PC (R461). -/
def State.deliverAsync (s : State) (k : Nat) : State :=
  let x := s.ctx k
  match x.asyncs with
  | [] => s
  | r :: rest =>
    (s.setCtx k { x with asyncs := rest }).takeTrap k
      { trapAt .async r.tval x.pc with inner := recCode r, role := r.role, olnch := r.olnch, oindex := r.oindex, time := r.time,
                                       qsel := r.qsel, opid := r.opid }

/-- The trap with which a task was suspended is raised again (R474). -/
def State.raisePending (s : State) (k : Nat) : State :=
  match (s.ctx k).pending with
  | none => s
  | some t => (s.updCtx k fun x => { x with pending := none }).takeTrap k t

/-- BREAKPOINT_TABLE_STOP. -/
def execBreakpointTableStop (k : Nat) (s : State) : Host.Outcome State Fault Refusal :=
  eventM (fun s => if s.ready k && s.before k == .breakpoint then s.breakpointStop k else s) s

/-- FETCH_OVERLAY_TRAP. -/
def execFetchOverlayTrap (k : Nat) (s : State) : Host.Outcome State Fault Refusal :=
  eventM (fun s => if s.ready k && s.before k == .overlay then s.overlayTrap k else s) s

/-- ASYNC_TRAP. -/
def execAsyncTrap (k : Nat) (s : State) : Host.Outcome State Fault Refusal :=
  eventM (fun s => if s.ready k && s.before k == .async then s.deliverAsync k else s) s

/-! ## Trap service (R266, R267, R456) -/

/-- The control context can begin to serve a trap. -/
def State.mayServe (s : State) (core : Coord) : Bool :=
  let c := s.coreAt core
  !c.active && !c.chalt && c.serving.isNone && (s.nextTrap core).isSome

/-- TRAP_SERVICE_START. -/
def execTrapServiceStart (core : Coord) (s : State) : Host.Outcome State Fault Refusal :=
  eventM (fun s =>
    match s.nextTrap core with
    | some k => if s.mayServe core then s.enterService core k else s
    | none => s) s

/-- The control context resumes at OVL. -/
def State.resumeControl (s : State) (core : Coord) : State :=
  let c := s.coreAt core
  if c.chalt then
    (s.setCore core { c with chalt := false, active := true }).updCtx core.toNat fun y =>
      { y.settle with core, pc := c.ovl.setWidth 32, status := .idle, fetched := [], readyAt := s.cycle, xb := c.xb }
  else s

/-- CONTROL_CONTEXT_RESUME. -/
def execControlContextResume (core : Coord) (s : State) : Host.Outcome State Fault Refusal := commandM (fun s => s.resumeControl core) s

/-! ## Waits and flights that end (R232, R331 to R333) -/

/-- A context whose instruction waits goes on once its condition holds. -/
def State.waitStep (s : State) (k : Nat) : State :=
  match (s.ctxs.look k).map Ctx.status with
  | some (.waiting _) => if s.moved (s.reissue k) k then s.reissue k else s
  | _ => s

/-- WAIT_COMPLETE. -/
def execWaitComplete (k : Nat) (s : State) : Host.Outcome State Fault Refusal := eventM (fun s => s.waitStep k) s

/-- A SLEEP in flight ends once it is due. -/
def State.sleepStep (s : State) (k : Nat) : State :=
  match (s.ctxs.look k).map Ctx.status with
  | some (.flight (.sleep ..)) => if s.moved (s.reissue k) k then s.reissue k else s
  | _ => s

/-- SLEEP_END. -/
def execSleepEnd (k : Nat) (s : State) : Host.Outcome State Fault Refusal := eventM (fun s => s.sleepStep k) s

/-- A TWAIT in flight ends at its deadline. -/
def State.twaitStep (s : State) (k : Nat) : State :=
  match (s.ctxs.look k).map Ctx.status with
  | some (.flight (.twait ..)) => if s.moved (s.reissue k) k then s.reissue k else s
  | _ => s

/-- TWAIT_DEADLINE. -/
def execTwaitDeadline (k : Nat) (s : State) : Host.Outcome State Fault Refusal := eventM (fun s => s.twaitStep k) s

/-- An EVENT ends every SLEEP in flight on a core (R332). -/
def State.wake (s : State) (core : Coord) : State :=
  s.ctxs.foldl (fun (s : State) (e : Nat × Ctx) =>
    match e.2.status with
    | .flight (.sleep ..) => if e.2.core = core then (s.endSleep e.1 1).sleepStep e.1 else s
    | _ => s) s

/-- EVENT_LANDING. -/
def execEventLanding (pkt : Nat) (s : State) : Host.Outcome State Fault Refusal :=
  eventM (fun s =>
    match s.pkts.look pkt with
    | some (.event core) => { s with pkts := s.pkts.del pkt }.wake core
    | _ => s) s

/-! ## Arrivals of tasks (R220, R225, R226, R367) -/

/-- A context packet arrives; the checks of R225 follow, unless the task was suspended in transit (R226). -/
def State.arriveTask (s : State) (k : Nat) : State :=
  let x := s.ctx k
  match x.status with
  | .transit src =>
    let s := s.countCore x.core 4 2
    let s := s.trace x.core (gtidPnum x.gtid) 5 x.gtid 0 (src.setWidth 64)
    let s := s.setCtx k { x with status := .idle, readyAt := s.cycle }
    if x.suspended then s
    else if (s.bpHit x).isSome then s.breakpointStop k
    else if x.img ≠ (s.coreAt x.core).img then s.overlayTrap k
    else s
  | _ => s

/-- MIGRATION_ARRIVAL. -/
def execMigrationArrival (k : Nat) (s : State) : Host.Outcome State Fault Refusal := eventM (fun s => s.arriveTask k) s

/-- The company of a task is suspended, or stops (R465). -/
def State.stopped (s : State) (x : Ctx) : Bool :=
  match s.company? (clusterOf x.home) x.company.toNat with
  | some co => co.susp || co.stopping
  | none => false

/-- A child comes into its slot; where its group has been killed there is no company to hold it (R220, R257). -/
def State.startTask (s : State) (child : Ctx) (core : Coord) : State :=
  match s.groupCompany? child (clusterOf core) with
  | none => s
  | some _ =>
    let k := s.fresh
    let s := s.trace core (gtidPnum child.gtid) 3 child.gtid child.pc.toNat (child.home.setWidth 64)
    { s with fresh := k + 1,
             ctxs := s.ctxs.put k { child with core, readyAt := s.cycle, suspended := s.stopped child } }

/-- SPAWN_ARRIVAL. -/
def execSpawnArrival (pkt : Nat) (s : State) : Host.Outcome State Fault Refusal :=
  eventM (fun s =>
    match s.pkts.look pkt with
    | some (.spawn child core) => { s with pkts := s.pkts.del pkt }.startTask child core
    | _ => s) s

/-- A parked child that a start message names. -/
def State.parkedChild (s : State) (core : Coord) (index : Nat) : Option Nat :=
  s.ctxs.findKey fun _ x => x.task && x.status == .parked && x.home == core && (gtidIndex x.gtid).toNat == index

/-- A spawn packet for a child is still under way. -/
def State.childComing (s : State) (index : Nat) : Bool :=
  s.pkts.any fun e => match e.2 with
    | .spawn child _ => (gtidIndex child.gtid).toNat == index
    | _ => false

/-- PARKED of a suspended task's record is cleared (R468). -/
def State.unpark (s : State) (k : Nat) : State :=
  let x := s.ctx k
  if !x.saved then s
  else
    match s.company? (clusterOf x.home) x.company.toNat with
    | none => s
    | some co =>
      match s.recordPa co x.gtid with
      | (none, s) => s
      | (some a, s) =>
        let (v, s) := s.greenRead co.pnum (a + 0x2B8)
        s.greenWrite co.pnum (a + 0x2B8) (v - v / 32 % 2 * 32)

/-- A start message reaches a parked child, which merges what it carries (R367). -/
def State.startChild (s : State) (pkt : Nat) : State :=
  match s.pkts.look pkt with
  | some (.start core index know) =>
    if s.childComing index then s
    else
      let s := { s with pkts := s.pkts.del pkt }
      match s.parkedChild core index with
      | none => s
      | some k => (s.updCtx k fun x =>
        let x := match know with
          | some c => x.merge c
          | none => x
        { x with status := .idle, readyAt := s.cycle }).unpark k
  | _ => s

/-- CONTINUATION_START. -/
def execContinuationStart (pkt : Nat) (s : State) : Host.Outcome State Fault Refusal := eventM (fun s => s.startChild pkt) s

/-! ## Heartbeats and fences (R163, R233 to R237, R524) -/

/-- A heartbeat timer counts: neither in an architectural wait, trapped, parked nor in transit, nor stopped for a suspension
(R233, R456). -/
def Ctx.beats (x : Ctx) : Bool :=
  x.task &&
    (match x.status with
     | .waiting w => !w.arch
     | .trapped .. => false
     | .parked => false
     | .transit _ => false
     | .idle => !x.suspended
     | .flight _ => true)

/-- A timer in ns (R9, R233). -/
def Ctx.hbTime (x : Ctx) : Nat := x.hb * 10 / 27

/-- The timer of a task has reached its interval (R234, R235). -/
def State.missed (s : State) (x : Ctx) : Bool :=
  let i := (s.part (gtidPnum x.gtid)).hbint.toNat
  x.beats && i != 0 && i * 1000 ≤ x.hbTime

/-- The core of a queue end that a task has bound. -/
def State.endCore (s : State) (e : QEnd) : Option Coord :=
  match e with
  | .task k _ => (s.ctxs.look k).map Ctx.core
  | _ => none

/-- FENCED is set in the register of a queue end that a task has bound. -/
def State.setFenced (s : State) (e : QEnd) (core : Coord) : State :=
  match e with
  | .task k r => s.updCtx k fun x => { x with qregs := x.qregs.set r { x.qregs[r] with fenced := some core } }
  | _ => s

/-- A queue with one end on a fenced core is marked at its other end (R163). -/
def State.markQueue (s : State) (core : Coord) (n : Nat) (q : Queue) : State :=
  let p := s.endCore q.prod == some core
  let c := s.endCore q.cons == some core
  if p && !c && q.cons.isBound then
    let s := s.updQueue n fun q => if q.marker.isSome then q else { q with marker := some (core, q.pushed) }
    s.setFenced q.cons core
  else if c && !p && q.prod.isBound then s.setFenced q.prod core
  else s

/-- The watchdog ladder starts, unless one runs (R524). -/
def State.startLadder (s : State) (fence : Bool) (pnum : Nat) : State :=
  if s.ladder.isSome then s
  else
    { s with ladder := some { fence, rung := 1, since := s.cycle }, rung := if s.rung < 1 then 1 else s.rung, ladderCause := fence,
             ladderPnum := BitVec.ofNat 6 pnum, irqs := s.irqs ++ [.watchdog] }

/-- A task holds a slot of a core and is not on its way to it. -/
def Ctx.onCore (x : Ctx) (core : Coord) : Bool :=
  x.task && x.core == core && (match x.status with
    | .transit _ => false
    | _ => true)

/-- A core is fenced (R235): nothing issues on it, its queues are marked, every company with a task on it is suspended, and the ladder
starts. -/
def State.fence (s : State) (core : Coord) (slot : Fin 16) (gtid : Word) (pnum : Nat) : State :=
  let s := s.updCore core fun c => { c with fenced := true, fslot := BitVec.ofNat 4 slot.val, multi := false, cfgtid := gtid }
  let s := s.trace core pnum 8 gtid 0 (BitVec.ofNat 64 slot.val)
  let s := s.queues.foldl (fun (s : State) (e : Nat × Queue) => s.markQueue core e.1 e.2) s
  let s := s.ctxs.foldl (fun (s : State) (e : Nat × Ctx) =>
    if e.2.onCore core then s.beginSuspend (clusterOf e.2.home) e.2.company.toNat 1 else s) s
  let s := { s with irqs := s.irqs ++ [Irq.fence core gtid] }
  s.startLadder true pnum

/-- A task misses its heartbeat: HEARTBEAT is recorded against it and its core is fenced; a further task only sets MULTI (R235, R236). -/
def State.heartbeat (s : State) (k : Nat) : State :=
  let x := s.ctx k
  let c := s.coreAt x.core
  if !s.missed x then s
  else if c.fenced then (if x.gtid = c.cfgtid then s else s.setCore x.core { c with multi := true })
  else
    let s := s.faultRing (gtidPnum x.gtid) (s.recordOf x (FaultCode.num .heartbeat) 0 x.pc)
    s.fence x.core x.slot x.gtid (gtidPnum x.gtid)

/-- HEARTBEAT_EXPIRY. -/
def execHeartbeatExpiry (k : Nat) (s : State) : Host.Outcome State Fault Refusal := eventM (fun s => s.heartbeat k) s

/-- FORCE_FENCE: SLOT and GTID read 0 (R236). -/
def execForceFence (core : Coord) (s : State) : Host.Outcome State Fault Refusal :=
  commandM (fun s => if (s.coreAt core).fenced then s else s.fence core 0 0 (s.owner (clusterOf core))) s

/-- A fence is lifted: the timers of the tasks on the core restart (R237). -/
def State.liftFence (s : State) (core : Coord) : State :=
  if (s.coreAt core).fenced then
    let s := s.updCore core fun c => { c with fenced := false }
    { s with ctxs := s.ctxs.map fun (e : Nat × Ctx) => (e.1, if e.2.onCore core && !s.away e.2 then { e.2 with hb := 0 } else e.2) }
  else s

/-- FENCE_LIFT. -/
def execFenceLift (core : Coord) (s : State) : Host.Outcome State Fault Refusal := commandM (fun s => s.liftFence core) s

end Sys2Proof.Machine
end

