-- ==== Sys2Proof/Machine/Walks.lean ====
section
/-! DEFINITION. Walkers, accesses that reach their homes, fills and write-backs, shootdowns, and the page-count unit
(R38 to R49, R65 to R71, R83, R95 to R102, R478). -/

namespace Sys2Proof.Machine

/-! ## Held stores (R101) -/

/-- An operation has one landing fewer to wait for. -/
def HeldStore.landed (h : HeldStore) (s : State) (r : Option OpResult) : State :=
  match h.by_ with
  | .op n => { s with ops := s.ops.upd n fun o => { o with flying := o.flying - 1, result := o.result <|> r } }
  | _ => s

/-- A fault that a held store meets on its retry: asynchronous for a task and an operator; it ends an operation, which raises it (R101,
R195, R461). The command processor's write is lost (R441). -/
def State.heldFault (s : State) (h : HeldStore) (code : FaultCode) (tval : Word) : State :=
  match h.by_ with
  | .ctx => s.asyncFault h.pnum h.cl h.company h.key { s.recordOf ((Ctx.control h.core)) code.num tval 0 with gtid := h.gtid }
  | .op _ => h.landed s (some (.faulted code tval))
  | .opr k launch _ =>
    if (s.oprs.look k).any fun o => o.pnum == h.pnum && o.launch == launch then s.raiseOpr k code tval h.va (code != .sramEcc) else s
  | .cp => s

/-- A held store reaches a code region that its kind may reach (R265). -/
def State.heldCopies (s : State) (h : HeldStore) : Bool :=
  match h.by_ with
  | .op n => (s.ops.look n).any EngOp.copies
  | .cp => true
  | _ => false

/-- A held store performs in the page that its new leaf gives; what it releases is lost once its launch has retired (R203). -/
def State.heldPerform (s : State) (h : HeldStore) (leaf : Leaf) : State :=
  let p := { placeUnder leaf h.va with len := h.data.length }
  match s.placeFault (s.heldCopies h) p true with
  | some (c, t) => s.heldFault h c t
  | none =>
    let s := if p.homed then s.ensureLine leaf.entry p.home p.pa h.na h.pnum h.va else s
    let s := match h.stamper with
      | some t => if p.homed && leafPolicy leaf.entry != 3 then
          s.stamp p.pa t { mask := byteMask (p.pa % 64) p.len, write := true, sync := h.sync } else s
      | none => s
    let s := h.landed (s.placeWrite p h.data) none
    match h.release with
    | none => s
    | some (k, scope, home) =>
      if (s.launches.look (launchKey h.pnum k.launch)).isSome then s.releaseAt p.key.1 p.key.2 h.pnum k scope home else s

/-- What a recording or a replay sees of a held store at its place, with the digest of its task as it stands, or stood when the task was
there last (R503, R504, log entry 104). -/
def State.heldEvent (s : State) (h : HeldStore) (leaf : Leaf) : LogEvent :=
  let pa := leafAddr leaf.entry leaf.level h.va
  { ty := 5, die := if noHome leaf.entry then cDie (BitVec.ofNat 16 (pa / 2 ^ 28)) else homeOf leaf.entry pa h.va / 24, gtid := h.gtid,
    digest := match s.issuer? h.key h.gtid with
      | some x => crc64 (x.digestBytes x.pc)
      | none => h.digest
    coord := h.core, arg := 0, value := pa / 64 % 2 ^ 46 }

/-- Writes of the command processor to one line, and those of an operator, perform in their order (R430). -/
def State.behindOwn (s : State) (n : Nat) (h : HeldStore) : Bool :=
  let earlier (f : HeldStore → Bool) : Bool := s.held.any fun e => e.1 < n && e.2.pnum == h.pnum && f e.2
  match h.by_ with
  | .cp => earlier fun e => e.by_ == .cp && e.va / 64 == h.va / 64
  | .opr k launch _ => earlier fun e => e.ofOpr k launch
  | _ => false

/-- A store that its retry has sent to a new home performs there, a synchronising one in the order of its launch's replay. -/
def State.heldStep (s : State) (n : Nat) : State :=
  match s.held.look n with
  | none => s
  | some h =>
    match h.ready with
    | none => s
    | some leaf =>
      let perform (s : State) : State := { s with held := s.held.del n }.heldPerform h leaf
      if s.behindOwn n h then s
      else if !h.sync then perform s
      else
        let e := s.heldEvent h leaf
        match s.logged (gtidPnum h.gtid) (gtidLaunch h.gtid) e with
        | (.go _, s) => perform s
        | (.wait, _) => s
        | (.diverge i, s) => perform (s.diverge (gtidPnum h.gtid) (gtidLaunch h.gtid) e i)

/-! ## What a walk returns (R43, R44, R101, R353) -/

/-- A held store has its new leaf: it is held again, at the home and under the leaf it has now, and does not hold back the shootdown that
retried it, or it is on its way to that home. -/
def State.storeLeaf (s : State) (n : Nat) (entry : Word) (level : Nat) : State :=
  match s.held.look n with
  | none => s
  | some h =>
    let leaf : Leaf := { vpn := h.va / 2 ^ 16, write := true, level, entry }
    match h.walking with
    | none => s
    | some cp =>
      if leafWb entry then
        { s with held := s.held.put n { h with leaf, home := homeOf entry (leafAddr entry level h.va) h.va, walking := none },
                 shootdowns := s.shootdowns.upd cp fun d => { d with heldAgain := d.heldAgain ++ [n] } }
      else { s with held := s.held.put n { h with walking := none, ready := some leaf } }

/-- A context whose instruction waits for a walk goes on with the leaf. -/
def State.ctxLeaf (s : State) (k pnum : Nat) (entry : Word) (level : Nat) (cached : Bool) : State :=
  match s.ctxs.look k with
  | none => s
  | some x =>
    match x.status with
    | .flight (.walk va write) =>
      let leaf : Leaf := { vpn := va / 2 ^ 16, write, level, entry }
      (if cached then s.tlbPut (clusterOf x.core) pnum leaf else s).setCtx k
        { x with leaves := x.leaves ++ [leaf], status := .flight (.home write) }
    | .flight (.retry _ va) =>
      s.setCtx k { x with leaves := [{ vpn := va / 2 ^ 16, write := true, level, entry }], status := .flight (.home true), arrived := true }
    | _ => s

/-- The cache of the cluster where an access is held takes the leaf of its retry, if the cluster lies in the pitch (R45, R55). -/
def State.takeLeaf (s : State) (cache pnum : Nat) (leaf : Leaf) : State := if s.owner cache = pnum then s.cachePut cache pnum leaf else s

/-- An exported update has its leaf. -/
def State.cellLeaf (s : State) (p : Nat) (leaf : Leaf) : State :=
  match s.pkts.look p with
  | some (.cell o r d none held) => { s with pkts := s.pkts.put p (.cell o r d (some leaf) held) }
  | _ => s

/-- A walk returns its leaf to a requester, whose translation cache takes it; PROBE enters it nowhere. -/
def State.leafTo (s : State) (w : Walk) (entry : Word) (level : Nat) (r : Requester) : State :=
  let leaf : Leaf := { vpn := w.va / 2 ^ 16, write := w.write, level, entry }
  match r with
  | .ctx k => s.ctxLeaf k w.pnum entry level true
  | .probe k => s.ctxLeaf k w.pnum entry level false
  | .op _ cache => s.cachePut cache w.pnum leaf
  | .opr _ cache => s.cachePut cache w.pnum leaf
  | .cell p cache => (s.takeLeaf cache w.pnum leaf).cellLeaf p leaf
  | .pref va cache => (s.cachePut cache w.pnum leaf).prefLine leaf w.pnum va
  | .store n cache => (s.takeLeaf cache w.pnum leaf).storeLeaf n entry level
  | .atomic k cache => (s.takeLeaf cache w.pnum leaf).ctxLeaf k w.pnum entry level false

/-- A walk returns its leaf to every requester (R43). -/
def State.walkReturn (s : State) (i : Nat) (entry : Word) (level : Nat) : State :=
  match s.walks.look i with
  | none => s
  | some w => w.requesters.foldl (fun (s : State) r => s.leafTo w entry level r) { s with walks := s.walks.del i }

/-- A requester that asks again keeps the fault for when it does. -/
def State.keepFault (s : State) (w : Walk) (code : FaultCode) (reason level : Nat) (r : Requester) : State :=
  { s with walkFaults := s.walkFaults ++ [{ who := r, vpn := w.va / 2 ^ 16, write := w.write, code, reason, level }] }

/-- A context whose instruction waits for a walk learns of its fault: a task instruction faults precisely, PROBE records it, and of an atomic
that was held the fault is asynchronous and the instruction ends unperformed (R44, R101, R353, log entry 101). -/
def State.ctxFault (s : State) (k : Nat) (code : FaultCode) (reason level : Nat) (probe : Bool) : State :=
  match s.ctxs.look k with
  | none => s
  | some x =>
    let s := s.countCluster (clusterOf x.core) 5 3
    match x.status with
    | .flight (.walk va write) =>
      if probe then s.setCtx k { x with probed := some (code, reason, level), status := .flight (.home write) }
      else s.takeFault k (trapAt code (walkTval code reason level va) x.pc)
    | .flight (.retry _ va) =>
      (s.setCtx k { x with probed := some (code, reason, level), status := .flight (.home true), arrived := true }).asyncFault
        (s.pnumOf x) (clusterOf x.core) x.company.toNat k (s.recordOf x code.num (walkTval code reason level va) 0)
    | _ => s

/-- A walk returns its fault to a requester (R44). -/
def State.faultTo (s : State) (w : Walk) (code : FaultCode) (reason level : Nat) (r : Requester) : State :=
  match r with
  | .ctx k => s.ctxFault k code reason level false
  | .probe k => s.ctxFault k code reason level true
  | .atomic k _ => s.ctxFault k code reason level false
  | .op n cache => if (s.ops.look n).isSome then (s.keepFault w code reason level r).countCluster (cacheCluster cache) 5 3 else s
  | .opr k cache => if (s.oprs.look k).isSome then (s.keepFault w code reason level r).countCluster (cacheCluster cache) 5 3 else s
  | .cell p cache => if (s.pkts.look p).isSome then (s.keepFault w code reason level r).countCluster (cacheCluster cache) 5 3 else s
  | .pref _ cache => s.countCluster (cacheCluster cache) 5 3
  | .store n cache =>
    let s := s.countCluster (cacheCluster cache) 5 3
    match s.held.look n with
    | none => s
    | some h => { s with held := s.held.del n }.heldFault h code (walkTval code reason level h.va)

/-- A walk that faults returns the fault to every requester it serves (R44). -/
def State.walkFault (s : State) (i : Nat) (code : FaultCode) (reason level : Nat) : State :=
  match s.walks.look i with
  | none => s
  | some w => w.requesters.foldl (fun (s : State) r => s.faultTo w code reason level r) { s with walks := s.walks.del i }

/-! ## Walkers (R38 to R43) -/

/-- Walks that run on a die. -/
def State.walksOn (s : State) (die : Nat) : Nat := (s.walks.filter fun (e : Nat × Walk) => e.2.die == die && e.2.started).length

/-- The walk that waits longest for a walker of a die. -/
def State.waitingWalk (s : State) (die : Nat) : Option Nat := s.walks.findKey fun _ w => w.die == die && !w.started

/-- A free walker takes the first waiting walk, unless nothing asks for it any more. -/
def State.startWalk (s : State) (die : Nat) : State :=
  match s.waitingWalk die with
  | none => s
  | some i =>
    match s.walks.look i with
    | none => s
    | some w =>
      if w.requesters.isEmpty then { s with walks := s.walks.del i }
      else if Config.walkersPerDie ≤ s.walksOn die then s
      else
        let p := s.part w.pnum
        if !tableOk p p.root then s.walkFault i .xlatePerm 2 3
        else { s with walks := s.walks.put i { w with started := true, base := p.root, level := 3, cas := none } }

/-- TRANSLATION_MISS. -/
def execTranslationMiss (die : Nat) (s : State) : Host.Outcome State Fault Refusal := eventM (fun s => s.startWalk die) s

/-- A walk serves PROBE alone, and sets nothing (R353). -/
def Walk.probes (w : Walk) : Bool :=
  w.requesters.all fun r => match r with
    | .probe _ => true
    | _ => false

/-- A running walk reads the entry of its level. -/
def State.walkRead (s : State) (i : Nat) : State :=
  match s.walks.look i with
  | none => s
  | some w =>
    if !w.started || w.cas.isSome then s
    else
      let a := entryAddr w.base w.level w.va
      if s.poisoned a then s.walkFault i .sramEcc 0 w.level
      else
        match walkEntry (s.part w.pnum) (s.entryAt a) w.level w.write with
        | .fault c r => s.walkFault i c r w.level
        | .descend b => { s with walks := s.walks.put i { w with base := b, level := w.level - 1 } }
        | .leaf e lacks =>
          if lacks && !w.probes then { s with walks := s.walks.put i { w with cas := some e } }
          else s.walkReturn i e w.level

/-- WALK_ENTRY_READ. -/
def execWalkEntryRead (i : Nat) (s : State) : Host.Outcome State Fault Refusal := eventM (fun s => s.walkRead i) s

/-- The compare-and-swap that sets A and D: where the entry has changed, the walk reads it again (R40). -/
def State.walkCas (s : State) (i : Nat) : State :=
  match s.walks.look i with
  | none => s
  | some w =>
    match w.cas with
    | none => s
    | some e =>
      let a := entryAddr w.base w.level w.va
      if s.entryAt a = e ∧ !s.poisoned a then
        let e' := setAD e w.write
        (s.homeWrite (physHome a) a (leBytes 8 e'.toNat)).walkReturn i e' w.level
      else { s with walks := s.walks.put i { w with cas := none } }

/-- WALK_AD_CAS_RESULT. -/
def execWalkAdCasResult (i : Nat) (s : State) : Host.Outcome State Fault Refusal := eventM (fun s => s.walkCas i) s

/-! ## Homes (R71, R83, R85) -/

/-- An access in flight has reached its home and acts there, or waits there as before (R71, R102); so does a store that is held no more.
-/
def State.homeStep (s : State) (k : Nat) : State :=
  match s.ctxs.look k with
  | none => s.heldStep k
  | some x =>
    match x.status with
    | .flight (.home _) =>
      let t := (s.setCtx k { x with arrived := true }).reissue k
      if s.moved t k then t else s
    | _ => s

/-- HOME_ACCESS_PERFORM. -/
def execHomeAccessPerform (k : Nat) (s : State) : Host.Outcome State Fault Refusal := eventM (fun s => s.homeStep k) s

/-- A home fills the line of an access that missed: into a bank with room, or in place of a victim, which leaves for the write-back
buffer if that has room. The access then performs (R68, R83, R85). -/
def State.missFill (s : State) (k bank : Nat) (victim : Option Nat) : State :=
  match s.ctxs.look k with
  | none => s
  | some x =>
    match x.status with
    | .flight (.fill pa leaf va) =>
      let home := homeOf leaf.entry pa va
      let go (s : State) : State := s.updCtx k fun x => { x with status := .flight (.home leaf.write), arrived := true }
      if (s.lineAt pa).isSome || !(s.clusterAt home).caches then go s
      else if !(s.clusterAt home).allocatable bank then s
      else if (s.linesIn home bank).length < Config.linesPerBank then go (s.fillLine home pa bank leaf.entry (s.pnumOf x) va)
      else
        match victim with
        | none => s
        | some v =>
          let dirty := ((s.lines.look v).map Line.dirty).getD false
          if !(s.linesIn home bank).contains v || (dirty && Config.writebackLines ≤ (s.clusterAt home).writebacks.length) then s
          else go ((s.evict v).fillLine home pa bank leaf.entry (s.pnumOf x) va)
    | _ => s

/-- HOME_MISS_FILL. -/
def execHomeMissFill (k bank : Nat) (victim : Option Nat) (s : State) : Host.Outcome State Fault Refusal :=
  eventM (fun s => s.missFill k bank victim) s

/-- The cluster in whose write-back buffer a line waits. -/
def State.writebackOf (s : State) (line : Nat) : Option Nat :=
  s.clusters.findKey fun _ c => c.writebacks.any fun e => e.1 == line

/-- A tier accepts a line of a write-back buffer (R83). -/
def State.takeWriteback (s : State) (line : Nat) : State :=
  match s.writebackOf line with
  | none => s
  | some cl => s.acceptWriteback cl line

/-- WRITEBACK_ACCEPT. -/
def execWritebackAccept (line : Nat) (s : State) : Host.Outcome State Fault Refusal := eventM (fun s => s.takeWriteback line) s

/-! ## The start of a shootdown (R45, R48, R49) -/

/-- A REF or PUT operator, which has a translation cache (R42). -/
def Opr.caches (o : Opr) : Bool := o.kind == .ref || o.kind == .put

/-- The translation cache of an operator's tile, which the operators of the tile share (R42). -/
def Opr.cache (o : Opr) : Nat := 192 + o.cl * 4 + o.tile.val

/-- The caches of a shootdown: clusters of the pitch, and any other that still holds an entry of the partition; the tiles of REF and PUT
operators, and any other tile that holds such an entry (R45, R49). -/
def State.sdCaches (s : State) (pnum : Nat) : List Nat :=
  let mine (t : TlbEntry) : Bool := t.pnum == pnum
  ((List.range Config.clusters).filter fun c => (s.part pnum).pitch.getLsbD c || (s.clusterAt c).tlb.any mine) ++
    ((s.oprs.filter fun (e : Nat × Opr) => e.2.caches && e.2.pnum == pnum).map (fun (e : Nat × Opr) => e.2.cache) ++
      (s.tileTlbs.filter fun (e : Nat × List TlbEntry) => e.2.any mine).map fun (e : Nat × List TlbEntry) => 192 + e.1).eraseDups

/-- A page of a walk lies in the range. -/
def Shootdown.coversWalk (d : Shootdown) (w : Walk) : Bool :=
  d.pnum == w.pnum && d.lo ≤ w.va / 2 ^ 16 && w.va / 2 ^ 16 ≤ d.hi

/-- A shootdown begins: outstanding walks of its range start again. -/
def State.beginShootdown (s : State) (d : Shootdown) : State :=
  let again (w : Walk) : Walk := if w.started && d.coversWalk w then { w with started := false, cas := none } else w
  { s with shootdowns := s.shootdowns.put d.cp d, walks := s.walks.map fun (e : Nat × Walk) => (e.1, again e.2) }

/-- The shootdown registers of a command-processor core. -/
def State.sdRegsOf (s : State) (cp : Nat) : SdRegs :=
  s.sdregs.getD cp { lo := 0, hi := 0, pnum := 0, busy := false, allva := false, done := false, err := false, client := none }

/-- The page number that XSDLO or XSDHI holds. -/
def sdVpn (w : Word) : Nat := (w.extractLsb' 16 40).toNat

/-- A write of XSDCTL (R48, R49). -/
def State.writeSdCtl (s : State) (cp : Nat) (v : Word) : State :=
  let r := s.sdRegsOf cp
  let pnum : BitVec 6 := v.extractLsb' 0 6
  let allva := v.getLsbD 10
  let r := { r with pnum, allva, done := r.done && !v.getLsbD 11, err := r.err && !v.getLsbD 12 }
  if !v.getLsbD 8 then { s with sdregs := s.sdregs.put cp r }
  else if r.busy || (!allva && sdVpn r.hi < sdVpn r.lo) || pnum = 0 || Config.partitions < pnum.toNat then
    { s with sdregs := s.sdregs.put cp { r with err := true } }
  else
    let d : Shootdown :=
      { cp, pnum := pnum.toNat, lo := if allva then 0 else sdVpn r.lo, hi := if allva then 2 ^ 40 - 1 else sdVpn r.hi,
        todo := s.sdCaches pnum.toNat, retries := [], waitsCtx := [], heldAgain := [] }
    { s with sdregs := s.sdregs.put cp { r with busy := true, client := none } }.beginShootdown d

/-- SHOOTDOWN_START: the write of XSDCTL with GO = 1. -/
def execShootdownStart (cp : Fin 4) (value : Word) (s : State) : Host.Outcome State Fault Refusal :=
  commandM (fun s => s.writeSdCtl cp.val (value ||| 0x100)) s

/-! ## Drop points (R46, R47, R101) -/

/-- Contexts of a cluster whose access in flight was given a covered leaf, with its page, and exported updates of the cluster that were. -/
def State.usedEntries (s : State) (d : Shootdown) (cl : Nat) : List (Nat × Nat) :=
  (s.ctxs.flatMap fun (e : Nat × Ctx) =>
    if clusterOf e.2.core = cl then (e.2.leaves.filter fun l => d.covers (s.pnumOf e.2) l).map fun l => (e.1, l.vpn) else []) ++
  s.pkts.flatMap fun (e : Nat × Packet) => match e.2 with
    | .cell o _ _ (some l) false => if clusterOf o.core = cl && d.covers o.pnum l then [(e.1, l.vpn)] else []
    | _ => []

/-- A translation cache drops the covered entries. -/
def State.dropEntries (s : State) (d : Shootdown) (cache : Nat) : State :=
  let used := if cache < 192 then s.usedEntries d cache else []
  let s := s.setCache cache ((s.cacheAt cache).filter fun t => !d.covers t.pnum t.leaf)
  { s with shootdowns := s.shootdowns.put d.cp { d with todo := d.todo.filter (· != cache), waitsCtx := d.waitsCtx ++ used } }

/-- A held store translates again for a shootdown, by a walk of its own (R101). -/
def State.retryStore (s : State) (d : Shootdown) (n : Nat) (h : HeldStore) : State :=
  { s with held := s.held.put n { h with walking := some d.cp } }.engineMiss (.store n h.home) h.home h.pnum h.va true

/-- An access held under a leaf is retried: every shootdown for which it counted waits until it has performed or been held again. -/
def State.retrying (s : State) (k pnum : Nat) (leaf : Leaf) : State :=
  let mark (d : Shootdown) : Shootdown :=
    { d with waitsCtx := d.waitsCtx.filter fun w => w.1 != k,
             retries := if d.covers pnum leaf && !d.heldAgain.contains k then k :: d.retries else d.retries }
  { s with shootdowns := s.shootdowns.map fun (e : Nat × Shootdown) => (e.1, mark e.2) }

/-- A held atomic translates again (R101, R185). -/
def State.retryAtomic (s : State) (k : Nat) : State :=
  let x := s.ctx k
  match x.status with
  | .flight (.held leaf va) =>
    let home := homeOf leaf.entry (leafAddr leaf.entry leaf.level va) va
    (s.retrying k (s.pnumOf x) leaf).setCtx k { x with leaves := [], status := .flight (.retry leaf va) }
      |>.engineMiss (.atomic k home) home (s.pnumOf x) va true
  | _ => s

/-- The home of an exported update that is held for a covered page, and counts for a shootdown. -/
def Shootdown.holdsCell (d : Shootdown) (p : Nat) (k : Packet) : Option Nat :=
  match k with
  | .cell o _ e (some l) true =>
    if d.covers o.pnum l && !d.heldAgain.contains p then some (homeOf l.entry (leafAddr l.entry l.level e.va) e.va) else none
  | _ => none

/-- A held update of a cell translates again. -/
def State.retryCell (s : State) (p : Nat) : State :=
  match s.pkts.look p with
  | some (.cell o r d (some l) true) =>
    let home := homeOf l.entry (leafAddr l.entry l.level d.va) d.va
    { s.retrying p o.pnum l with pkts := s.pkts.put p (.cell o r d none false) }.engineMiss (.cell p home) home o.pnum d.va true
  | _ => s

/-- A write of the command processor to a cell of a covered page is held, and counts for a shootdown. -/
def Shootdown.holdsWrite (d : Shootdown) (w : CellWrite) : Bool := d.covers w.pnum w.leaf && !d.heldAgain.contains w.num

/-- The home of the page under which a write to a cell is held. -/
def CellWrite.home (w : CellWrite) : Nat := homeOf w.leaf.entry (leafAddr w.leaf.entry w.leaf.level w.va) w.va

/-- A store held for a covered page that counts for a shootdown. -/
def Shootdown.holdsStore (d : Shootdown) (n : Nat) (h : HeldStore) : Bool := d.covers h.pnum h.leaf && !d.heldAgain.contains n

/-- An atomic held for a covered page that counts for a shootdown, at a cluster. -/
def State.heldAtomicAt (s : State) (d : Shootdown) (k : Nat) (x : Ctx) : Option Nat :=
  match x.status with
  | .flight (.held leaf va) =>
    if d.covers (s.pnumOf x) leaf && !d.heldAgain.contains k then some (homeOf leaf.entry (leafAddr leaf.entry leaf.level va) va) else none
  | _ => none

/-- Clusters in which accesses are held that count for a shootdown. -/
def State.holdPoints (s : State) (d : Shootdown) : List Nat :=
  ((s.held.filter fun (e : Nat × HeldStore) => d.holdsStore e.1 e.2 && e.2.walking.isNone && e.2.ready.isNone).map fun e => e.2.home) ++
    (s.ctxs.filterMap fun (e : Nat × Ctx) => s.heldAtomicAt d e.1 e.2) ++ (s.pkts.filterMap fun (e : Nat × Packet) => d.holdsCell e.1 e.2) ++
    (s.cellWrites.filter fun w => d.holdsWrite w && !w.again).map CellWrite.home

/-- The drop point of a cluster for the accesses held in it: each is retried once (R47, R101). -/
def State.dropHeld (s : State) (d : Shootdown) (cl : Nat) : State :=
  let stores := s.held.filter fun (e : Nat × HeldStore) =>
    e.2.home == cl && d.holdsStore e.1 e.2 && e.2.walking.isNone && e.2.ready.isNone
  let atomics := s.ctxs.filter fun (e : Nat × Ctx) => s.heldAtomicAt d e.1 e.2 == some cl
  let cells := s.pkts.filter fun (e : Nat × Packet) => d.holdsCell e.1 e.2 == some cl
  let s := stores.foldl (fun (s : State) (e : Nat × HeldStore) => s.retryStore d e.1 e.2) s
  let s := atomics.foldl (fun (s : State) (e : Nat × Ctx) => s.retryAtomic e.1) s
  let s := cells.foldl (fun (s : State) (e : Nat × Packet) => s.retryCell e.1) s
  { s with cellWrites := s.cellWrites.map fun w => if w.home = cl && d.holdsWrite w then { w with again := true } else w }

/-- A drop point: of a cluster's cache, of an operator tile's by 192 + its number, of the held accesses of a cluster by 10,000 + its number.
-/
def State.dropPoint (s : State) (cp cache : Nat) : State :=
  match s.shootdowns.look cp with
  | none => s
  | some d =>
    if 10000 ≤ cache then s.dropHeld d (cache - 10000)
    else if d.todo.contains cache then s.dropEntries d cache
    else s

/-- SHOOTDOWN_DROP_POINT. -/
def execShootdownDropPoint (cp : Fin 4) (cache : Nat) (s : State) : Host.Outcome State Fault Refusal :=
  eventM (fun s => s.dropPoint cp.val cache) s

/-! ## Completion (R45, R101) -/

/-- A context's access, or an exported update, no longer uses a dropped entry: it has performed, or is held. -/
def State.entryFree (s : State) (e : Nat × Nat) : Bool :=
  match s.ctxs.look e.1 with
  | none => match s.pkts.look e.1 with
    | some (.cell _ _ _ (some l) held) => held || l.vpn != e.2
    | _ => true
  | some x =>
    (match x.status with
     | .flight (.held ..) => true
     | _ => false) || !(x.leaves.any fun l => l.vpn == e.2)

/-- A context's atomic, or an exported update, that translates again has performed, or has been held again. -/
def State.retried (s : State) (d : Shootdown) (k : Nat) : Bool :=
  match s.ctxs.look k with
  | none => match s.pkts.look k with
    | some (.cell _ _ _ none _) => false
    | some (.cell o _ _ (some l) held) => held || !d.covers o.pnum l
    | _ => true
  | some x =>
    match x.status with
    | .flight (.retry ..) => false
    | .flight (.held ..) => true
    | _ => !(x.leaves.any fun l => d.covers (s.pnumOf x) l)

/-- A shootdown may complete. -/
def State.sdComplete (s : State) (d : Shootdown) : Bool :=
  d.todo.isEmpty && d.waitsCtx.all s.entryFree && d.retries.all (s.retried d) && !(s.held.any fun (e : Nat × HeldStore) => d.holdsStore e.1 e.2) &&
    !(s.ctxs.any fun (e : Nat × Ctx) => (s.heldAtomicAt d e.1 e.2).isSome) &&
    !(s.pkts.any fun (e : Nat × Packet) => (d.holdsCell e.1 e.2).isSome) && !s.cellWrites.any d.holdsWrite

/-- A shootdown completes: DONE is set and raises the interrupt (R48). -/
def State.endShootdown (s : State) (cp : Nat) : State :=
  match s.shootdowns.look cp with
  | none => s
  | some d =>
    if s.sdComplete d then
      { s with shootdowns := s.shootdowns.del cp, sdregs := s.sdregs.put cp { s.sdRegsOf cp with busy := false, done := true },
               irqs := s.irqs ++ [.shootdown cp] }
    else s

/-- SHOOTDOWN_COMPLETE. -/
def execShootdownComplete (cp : Fin 4) (s : State) : Host.Outcome State Fault Refusal := eventM (fun s => s.endShootdown cp.val) s

/-! ## The page-count unit (R95 to R98) -/

/-- Address that PCBASE or PCRING gives. -/
def pcAddr (w : Word) : Nat := (w.extractLsb' 6 46).toNat * 64

/-- A counter has reached its threshold (R98). -/
def State.notify (s : State) (p : Part) (r : PageReport) : State :=
  let ring := p.pc.getD 3 0
  let logsz := (ring.extractLsb' 52 4).toNat
  if 4 ≤ logsz then
    (s.ringAppend true (pcAddr ring) logsz 16 fun tail => [r.vpn + r.tier * 2 ^ 40 + tail % 2 ^ 16 * 2 ^ 48, s.time]).2
  else s

/-- One report (R95, R96). -/
def State.pageReport (s : State) : State :=
  match s.reports with
  | [] => s
  | r :: rest =>
    let s := { s with reports := rest }
    let p := s.part r.pnum
    let base := p.pc.getD 0 0
    let win := p.pc.getD 1 0
    let vpn0 := (win.extractLsb' 0 40).toNat
    if base.getLsbD 63 && vpn0 ≤ r.vpn && r.vpn - vpn0 < (win.extractLsb' 40 24).toNat then
      let a := pcAddr base + (r.vpn - vpn0) * 4
      let (old, s) := s.physRead true a 4
      let s := s.physWrite true a 4 (min (old + 1) 0xFFFFFFFF)
      if old + 1 = ((p.pc.getD 2 0).extractLsb' 0 32).toNat then s.notify p r else s
    else { s with discardedReports := s.discardedReports + 1 }

/-- PAGE_COUNT_REPORT. -/
def execPageCountReport (s : State) : Host.Outcome State Fault Refusal := eventM (fun s => s.pageReport) s

end Sys2Proof.Machine
end

