-- ==== Sys2Proof/Machine/BoxEvents.lean ====
section
/-! DEFINITION. Decisions of a box office, bank switches and DISCARD entries (R64 to R66, R249 to R259, R466). -/

namespace Sys2Proof.Machine

/-! ## Deciding a request (R250 to R254) -/

/-- The core of a request word, 0xFFFF naming the one on which the requesting context runs (R247). -/
def State.reqCore (s : State) (k : Nat) (w : Word) : Coord :=
  let c : Coord := w.extractLsb' 32 16
  if c = 0xFFFF then (s.ctx k).core else c

/-- Puts a request in another phase. -/
def State.setReq (s : State) (cl : Nat) (r : BoxReq) (p : BoxPhase) : State :=
  s.updCluster cl fun c => { c with reqs := c.reqs.map fun q => if q == r then { r with phase := p, redecide := false } else q }

/-- A refused request waits, or ends with its status (R252). -/
def State.refuseReq (s : State) (cl : Nat) (r : BoxReq) (a : BoxAns) : State :=
  s.setReq cl r (if r.waits then .refused (a == .notSafe) else .done (BitVec.ofNat 64 a.code))

/-- Decides an ACQ or ACQT. One that has come to exceed its claim leaves the list, and its instruction faults when it acts again (R252). -/
def State.decideAcq (s : State) (cl : Nat) (r : BoxReq) (w : Word) : State :=
  let q := requestOf w
  let core := s.reqCore r.key w
  let a := (s.clusterAt cl).boxCheck r.company q core false
  let s := s.countBox cl a
  match a with
  | .granted =>
    let (g, s) := s.boxGrant cl r.company q core (requestMode w)
    s.setReq cl r (.granted g.slot g.tiles g.lbanks)
  | .exceeded => s.updCluster cl fun c => { c with reqs := c.reqs.filter fun q => q != r }
  | a => s.refuseReq cl r a

/-- Decides a request for a slot: a free one that the company holds, or one that the test admits (R254). -/
def State.decideSlot (s : State) (cl : Nat) (r : BoxReq) (core : Coord) : State :=
  match s.admitSlot cl r.company core with
  | (_, some i, s) => s.setReq cl r (.granted i 0 0)
  | (a, none, s) => s.refuseReq cl r a

/-- Decides a request for a slot on any of the cores of a cluster that have an extension (R79, R227, R254). -/
def State.decideAnySlot (s : State) (cl : Nat) (r : BoxReq) (first : Nat) (e : Ext) : State :=
  match s.slotAmong cl r.company (slotCores cl first e) .unavailable with
  | (_, some (c, i), s) => s.setReq cl r (.placed c i)
  | (a, none, s) => s.refuseReq cl r a

/-! ## Re-acquiring what was reassigned (R259, R466) -/

/-- What a suspended company asks for. -/
def Company.savedTriple (c : Company) : Triple :=
  { slots := c.savedSlots.length, banks := c.savedBanks.length, tiles := c.savedTiles.length }

/-- Cores of which a company has reassigned slots. -/
def Company.savedCores (c : Company) : List Coord := (c.savedSlots.map Prod.fst).eraseDups

/-- A core has the slots that are to be restored together. -/
def Cluster.roomFor (c : Cluster) (x : Coord) (taken : List (Coord × Nat)) (n : Nat) : Bool :=
  n ≤ ((c.freeSlots x).filter fun i => !taken.contains (x, i)).length

/-- The slots of one core again: the same numbers where they are free, else the lowest free ones. -/
def Cluster.slotsFor (c : Cluster) (x : Coord) (taken : List (Coord × Nat)) (old : List (Coord × Nat)) : List ((Coord × Nat) × (Coord × Nat)) :=
  let free := (c.freeSlots x).filter fun i => !taken.contains (x, i)
  let same := old.filter fun e => e.1 == x && free.contains e.2
  let rest := old.filter fun e => !same.contains e
  let left := free.filter fun i => !same.contains (x, i)
  (same.map fun e => (e, e)) ++ (rest.zip left).map fun e => (e.1, (x, e.2))

/-- Places for every reassigned slot, old with new: those of one core stay together, on that core, or on another of the same kind if the
company keeps no slot on it and no task there binds a tile unit. -/
def Cluster.slotPlan (c : Cluster) (co : Company) (units : Coord → Coord → Bool) (cores : List Coord) (l : List Coord) :
    Option (List ((Coord × Nat) × (Coord × Nat))) :=
  l.foldl (fun (acc : Option (List ((Coord × Nat) × (Coord × Nat)))) x =>
    match acc with
    | none => none
    | some done =>
      let taken := done.map Prod.snd
      let old := co.savedSlots.filter fun e => e.1 == x
      let fixed := co.slots.any (fun e => e.1 == x) || co.savedUnits.any (fun u => u.1 == x)
      let choices := if fixed then [x] else x :: cores.filter fun y => y != x && isTile y == isTile x
      match choices.find? fun y => c.roomFor y taken old.length && (y == x || units x y) with
      | none => none
      | some y => some (done ++ c.slotsFor y taken old)) (some [])

/-- A queue placed on a core has an end that a task of a launch on another core has bound. -/
def State.queueGoes (s : State) (q : Queue) (core dest : Coord) : Bool :=
  q.place == .core core && (s.endCore q.prod == some dest || s.endCore q.cons == some dest)

/-- The storage of a company's queues on a core has room on another. -/
def State.unitsFit (s : State) (co : Company) (core dest : Coord) : Bool :=
  let mine := s.queues.foldl (fun (n : Nat) (e : Nat × Queue) =>
    if e.2.place = .core core ∧ e.2.pnum = co.pnum ∧ e.2.launch = co.launch then n + e.2.depth * (if e.2.wide then 4 else 1) else n) 0
  s.unitsUsed dest + mine ≤ Config.queueSlotUnits

/-- Queues whose tasks have moved from one core to another by a plan move with them, each once (R466). -/
def State.moveQueues (s : State) (plan : List ((Coord × Nat) × (Coord × Nat))) : State :=
  { s with queues := s.queues.map fun (e : Nat × Queue) =>
    (e.1, match plan.find? fun m => m.1.1 != m.2.1 && s.queueGoes e.2 m.1.1 m.2.1 with
      | some m => { e.2 with place := .core m.2.1 }
      | none => e.2) }

/-- The place a plan gives a core. -/
def planCore (plan : List ((Coord × Nat) × (Coord × Nat))) (x : Coord) : Coord :=
  ((plan.find? fun e => e.1.1 == x).map fun e => e.2.1).getD x

/-- Word 0x250 of a task record (R468). -/
def placeWord (x : Ctx) : Nat := x.home.toNat + x.core.toNat * 2 ^ 16 + x.slot.val * 2 ^ 32 + x.img.toNat * 2 ^ 36

/-- The suspended task whose slot was reassigned. -/
def State.savedTask (s : State) (n : Nat) (co : Company) (e : Coord × Nat) : Option Nat :=
  s.ctxs.findKey fun _ x => x.task && x.saved && x.core == e.1 && x.slot.val == e.2 && x.inGroup co.pnum co.launch n

/-- A task whose slot was reassigned is given another, which its record names (R468). -/
def State.moveSaved (s : State) (k : Nat) (e : Coord × Nat) : State :=
  let x := { s.ctx k with core := e.1, slot := Fin.ofNat 16 e.2 }
  let s := s.setCtx k x
  match s.company? (clusterOf x.home) x.company.toNat with
  | none => s
  | some co =>
    match s.recordPa co x.gtid with
    | (none, s) => s
    | (some a, s) => s.greenWrite co.pnum (a + 0x250) (placeWord x)

/-- Gives a company its reassigned resources back: slots as planned, macros by their numbers, banks under their logical numbers. -/
def State.grantSaved (s : State) (cl n : Nat) (co : Company) (plan : List ((Coord × Nat) × (Coord × Nat))) : State :=
  let free := (s.clusterAt cl).freeBanks
  let moves := plan.filterMap fun e => (s.savedTask n co e.1).map fun k => (k, e.2)
  let s := (moves.foldl (fun (s : State) e => s.moveSaved e.1 e.2) s).moveQueues plan
  let s := s.updCompany cl n fun co =>
    { co with slots := co.slots ++ plan.map Prod.snd, savedSlots := [], resuming := true,
              tiles := co.tiles ++ co.savedTiles.map fun t => (t.1, t.2.1),
              savedLocals := co.savedLocals.map fun l => { l with dest := planCore plan l.core } }
  let s := co.savedTiles.foldl (fun (s : State) t => s.updCore t.1 fun k =>
    { k with tile := { k.tile with b := k.tile.b.put t.2.1 TileB.granted } }) s
  (free.zip co.savedBanks).foldl (fun (s : State) e => s.updCluster cl fun c => c.updBank e.1 fun k =>
    { k with next := some e.2.mode, held := true, company := n, lbank := e.2.lbank }) s

/-- Decides a resume's request: BoxCheck for all of it at once (R250, R259). -/
def State.decideResume (s : State) (cl : Nat) (r : BoxReq) : State :=
  let c := s.clusterAt cl
  match c.companies.look r.company with
  | none => s
  | some co =>
    let q := co.savedTriple
    let h := (c.holdings r.company).add q
    let plan := c.slotPlan co (s.unitsFit co) (clusterCores cl) co.savedCores
    let tilesFree := co.savedTiles.all fun t => (c.freeMacros t.1).contains t.2.1
    let safeNow := c.safe (fun i => ((c.companies.look i).map Company.claim).getD .zero)
      (fun i => if i = r.company then h else c.holdings i)
    match plan with
    | none => (s.countBox cl .unavailable).refuseReq cl r .unavailable
    | some p =>
      if !h.le co.claim then (s.countBox cl .exceeded).refuseReq cl r .exceeded
      else if !tilesFree || c.freeBanks.length < q.banks then (s.countBox cl .unavailable).refuseReq cl r .unavailable
      else if !safeNow then (s.countBox cl .notSafe).refuseReq cl r .notSafe
      else
        ((s.countBox cl .granted).updCluster cl fun c => { c with reqs := c.reqs.filter fun q => q != r }).grantSaved cl r.company co p

/-! ## The order of decisions (R251, R253) -/

/-- A decision of one request. -/
def State.decide (s : State) (cl : Nat) (r : BoxReq) : State :=
  match r.want with
  | .acq w => s.decideAcq cl r w
  | .slot core => s.decideSlot cl r core
  | .anySlot first e => s.decideAnySlot cl r first e
  | .resume => s.decideResume cl r

/-- The request that is decided next: the first in order of arrival that is new or to be decided again. -/
def State.nextReq (s : State) (cl : Nat) : Option BoxReq := (s.clusterAt cl).reqs.find? fun r => r.redecide || r.phase == .fresh

/-- BOX_DECISION: the next request, a new one. -/
def execBoxDecision (cl : Nat) (s : State) : Host.Outcome State Fault Refusal :=
  eventM (fun s => match s.nextReq cl with
    | some r => if r.redecide then s else s.decide cl r
    | none => s) s

/-- BOX_REDECISION: the next request, one that waits (R253). -/
def execBoxRedecision (cl : Nat) (s : State) : Host.Outcome State Fault Refusal :=
  eventM (fun s => match s.nextReq cl with
    | some r => if r.redecide then s.decide cl r else s
    | none => s) s

/-! ## Banks (R65, R256) -/

/-- A switch from CACHE mode: lines are written back and leave, the bank is zero, the new mode takes effect (R65). -/
def State.switchBank (s : State) (cl bank : Nat) : State :=
  match ((s.clusterAt cl).bankAt bank).next with
  | none => s
  | some mode =>
    let s := (s.linesIn cl bank).foldl (fun (s : State) l => (s.evict l).acceptWriteback cl l) s
    let s := { s with mem := (Mem.cut s.mem (bankPa cl bank 0) 65536).2 }
    s.updCluster cl fun c => c.updBank bank fun k => { k with mode, next := none }

/-- BANK_SWITCH. -/
def execBankSwitch (cl bank : Nat) (s : State) : Host.Outcome State Fault Refusal := eventM (fun s => s.switchBank cl bank) s

/-- Scratch addresses from lo up to hi touch a logical bank. -/
def spanHits (lbank : Nat) (lo hi : Int) : Bool := lo < ((lbank + 1) * 65536 : Nat) && ((lbank * 65536 : Nat) : Int) < hi

/-- The lowest destination of a copy, and the end of the highest (R374, R375). -/
def CopyShape.span (c : CopyShape) : Int × Int :=
  let row : Int := ((c.rows : Int) - 1) * c.dstRow
  let plane : Int := ((c.planes : Int) - 1) * c.dstPlane
  ((c.dst : Int) + min 0 row + min 0 plane, (c.dst : Int) + max 0 row + max 0 plane + c.len)

/-- An operation can still land in a logical bank of its company in a cluster (log entry 30). -/
def EngOp.reaches (o : EngOp) (cl company lbank : Nat) : Bool :=
  o.result.isNone && o.company == company &&
    (match o.body with
     | .copy _ dspc _ _ _ remote shape =>
       dspc == 1 && (if remote.getLsbD 29 then clusterOf (remote.extractLsb' 0 16) == cl else o.cl == cl) &&
         spanHits lbank shape.span.1 shape.span.2
     | .message _ _ _ len core _ _ doff => clusterOf core == cl && spanHits lbank doff ((doff : Int) + len)
     | .tstor spc _ _ _ sel => spc == 1 && (if sel.getLsbD 29 then clusterOf (sel.extractLsb' 0 16) == cl else o.cl == cl)
     | _ => false)

/-- An arrival is bound for a logical bank of a company. -/
def Arrival.reaches (a : Arrival) (company lbank : Nat) : Bool :=
  match a with
  | .write n l .. => n == company && l == lbank
  | .arrive n l .. => n == company && l == lbank
  | .count .. => false
  | .lwrite .. => false

/-- Something issued before a DISCARD entry can still reach its bank (R256). -/
def State.stillReaches (s : State) (cl company lbank : Nat) : Bool :=
  (s.ops.any fun e => e.2.reaches cl company lbank) ||
    (s.pkts.any fun e => match e.2 with
      | .scratch c a => c == cl && a.reaches company lbank
      | .message core _ co doff d .. => clusterOf core == cl && co == company && spanHits lbank doff ((doff : Int) + d.length)
      | _ => false) ||
    ((s.clusterAt cl).ingress ++ (s.clusterAt cl).wings.getD company []).any fun a => a.reaches company lbank

/-- The place of a DISCARD entry. -/
def Cluster.discardAt (c : Cluster) (company lbank : Nat) : Option Nat := c.diverts.findKey fun _ d => d == .discard company lbank

/-- The first bank that retires. -/
def Cluster.retiringBank (c : Cluster) : Option Nat :=
  (List.range Config.banksPerCluster).find? fun b => (c.bankAt b).mode == .retiring

/-- A retiring bank gets its DISCARD entry and returns to CACHE mode (R256). -/
def State.finishRetiring (s : State) (cl : Nat) : State :=
  match (s.clusterAt cl).retiringBank with
  | none => s
  | some b => s.giveUpBank cl b

/-- A DISCARD entry is removed once nothing issued before it can reach its bank. -/
def State.removeDiscard (s : State) (cl company lbank : Nat) : State :=
  match (s.clusterAt cl).discardAt company lbank with
  | none => s
  | some i =>
    if s.stillReaches cl company lbank then s
    else
      let s := s.updCluster cl fun c => { c with diverts := c.diverts.del i }
      (s.finishRetiring cl).redecide cl

/-- DISCARD_ENTRY_REMOVE. -/
def execDiscardEntryRemove (cl company lbank : Nat) (s : State) : Host.Outcome State Fault Refusal :=
  eventM (fun s => s.removeDiscard cl company lbank) s

end Sys2Proof.Machine
end

