-- ==== Sys2Proof/Machine/QueueEvents.lean ====
section
/-! DEFINITION. Delivery of queue entries, returning credits, and entries that move out of an extension (R148 to R150, R482). -/

namespace Sys2Proof.Machine

/-- Counts an event at the core of the task that has bound a queue's consumer end. -/
def State.countConsumer (s : State) (q : Queue) (ev : Nat) : State :=
  match s.endCore q.cons with
  | some c => s.countCore c 6 ev
  | none => s

/-- The slot image of an entry; its reserved bytes are zero (R8, R147). -/
def Queue.slotImage (q : Queue) (e : Entry) : List Byte := e.digestBytes q.wide ++ List.replicate 12 0

/-- Where the slot of the entry at place i of a ring lies: the slot that the entry's number in the queue's sequence gives, modulo the depth,
DEDUCED (R147, log entry 135); a ring whose bank has been reassigned stands in the reserve area (R164). -/
def State.slotPa (s : State) (q : Queue) (i : Nat) : Option Nat :=
  q.place.ring?.bind fun (cl, company, lbank, off) =>
    ((s.clusterAt cl).physBank company lbank .fifo).map fun b => bankPa cl b (off + (q.taken + i) % q.depth * q.imageSize)

/-- The entry at place i of a ring is stored in its slot, as its slot image (R147). -/
def State.storeSlot (s : State) (q : Queue) (i : Nat) : State :=
  match s.slotPa q i, q.entries[i]? with
  | some pa, some e => (s.setTier pa (q.slotImage e)).clearBad pa q.imageSize
  | _, _ => s

/-- A ring's entries all stand in their slots (R164). -/
def State.storeRing (s : State) (q : Queue) : State := (List.range q.inRing).foldl (fun (s : State) i => s.storeSlot q i) s

/-- The oldest accepted entry of a queue is delivered; one that goes to the extension is counted (R147, R148, R150). -/
def State.deliverEntry (s : State) (n : Nat) : State :=
  match s.queue? n with
  | none => s
  | some q =>
    let q' := q.deliver
    let s := s.updQueue n fun _ => q'
    if q.transit.isEmpty then s else if q'.inRing != q.inRing then s.storeSlot q' q.inRing else s.countConsumer q 2

/-- ENTRY_DELIVERY. -/
def execEntryDelivery (n : Nat) (s : State) : Host.Outcome State Fault Refusal := eventM (fun s => s.deliverEntry n) s

/-- CREDIT_RETURN. -/
def execCreditReturn (n : Nat) (s : State) : Host.Outcome State Fault Refusal := eventM (fun s => s.updQueue n Queue.creditBack) s

/-- The oldest entry of an extension moves into the ring, where there is room (R147, R148). -/
def State.refillQueue (s : State) (n : Nat) : State :=
  match s.queue? n with
  | none => s
  | some q =>
    let q' := q.refill
    let s := s.updQueue n fun _ => q'
    if q'.inRing = q.inRing then s else (s.storeSlot q' q.inRing).countConsumer q 3

/-- EXTENSION_REFILL. -/
def execExtensionRefill (n : Nat) (s : State) : Host.Outcome State Fault Refusal := eventM (fun s => s.refillQueue n) s

end Sys2Proof.Machine
end

