-- ==== Sys2Proof/Machine/EngineAccess.lean ====
section
/-! DEFINITION. The order of engine operations, and the reads and writes that an engine performs for one (R44, R46, R62, R85, R192 to
R196, R204, R337, R338, R357, R374, R471, R517). -/

namespace Sys2Proof.Machine

/-! ## Order (R192, R194) -/

/-- A join that is still pending was enqueued before an operation, and its mask selects the operation's queue. -/
def State.joinedBefore (s : State) (n : Nat) (o : EngOp) : Bool :=
  s.ops.any fun (e : Nat × EngOp) => e.1 < n && e.2.core == o.core &&
    (match e.2.body with
     | .join _ _ mask => maskSelects mask o.qsel
     | _ => false)

/-- On a fenced core an operation that has not started waits (R235). -/
def State.opFenced (s : State) (o : EngOp) : Bool :=
  (s.coreAt o.core).fenced && o.done == 0 && o.flying == 0 && o.taken.isEmpty

/-- An operation's turn: it has not ended, every earlier one of its queue has, no join holds it back, and no fence. -/
def State.opTurn (s : State) (n : Nat) (o : EngOp) : Bool :=
  o.result.isNone && !s.opFenced o && !s.opAway o &&
    (s.engQueue o.core o.qsel).all (fun (e : Nat × EngOp) => n ≤ e.1 || (e.2.result.isSome && e.2.flying == 0)) &&
    !s.joinedBefore n o

/-- Applies a function to an operation. -/
def State.updOp (s : State) (n : Nat) (f : EngOp → EngOp) : State := { s with ops := s.ops.upd n f }

/-- Ends an operation. -/
def State.endOp (s : State) (n : Nat) (r : OpResult) : State := s.updOp n fun o => { o with result := some r }

/-- As what an operation's accesses record (R204). -/
def EngOp.stamper (o : EngOp) : Stamper :=
  let m := markFields o.mark
  { lnch := gtidLaunch o.gtid, tag := gtidTag o.gtid, cnt := o.cnt, bh := m.1, be := m.2 }

/-- Whose stores an operation's writes are. -/
def EngOp.source (o : EngOp) : StoreSrc := { gtid := o.gtid, cl := o.cl, company := o.company, qsel := o.qsel, opid := o.id.toNat }

/-- What an engine's read gives; `miss` names an address whose translation needs a walk (R43). -/
inductive Got where
  | data (d : List Byte)
  | wait
  | miss (va : Nat)
  | fault (code : FaultCode) (tval : Word)
  deriving DecidableEq, Repr

/-- What becomes of an engine's write: done, on its way, behind a walk, or a fault. -/
inductive Put where
  | done
  | flying
  | miss (va : Nat)
  | fault (code : FaultCode) (tval : Word)
  deriving DecidableEq, Repr

/-! ## `.g` -/

/-- Counts a remote word access of an operation's core (R482). -/
def State.countRemote (s : State) (core : Coord) (cl : Nat) : State := if cl = clusterOf core then s else s.countCore core 4 0

/-- Records an operation's access in the stamp of a line, unless its leaf says device (R196, R204). -/
def State.engStamp (s : State) (o : EngOp) (entry : Word) (pa k : Nat) (write sync : Bool) : State :=
  if o.key < 65536 ∨ leafPolicy entry = 3 then s
  else s.stamp pa o.stamper { mask := byteMask (pa % 64) k, write, sync }

/-- Operation n translates at its cluster's cache (R42). -/
def State.engLeaf (s : State) (n : Nat) (o : EngOp) (va : Nat) (write : Bool) : Xlated × State :=
  s.engineTranslate (.op n (clusterOf o.core)) (clusterOf o.core) o.pnum va write

/-- Operation n waits for the walk of an address (R43). -/
def State.engMiss (s : State) (n : Nat) (o : EngOp) (va : Nat) (write : Bool) : State :=
  s.engineMiss (.op n (clusterOf o.core)) (clusterOf o.core) o.pnum va write

/-- Reads k bytes of one line. -/
def State.engReadG (s : State) (n : Nat) (o : EngOp) (na : Bool) (va k : Nat) : Got × State :=
  match s.engLeaf n o va false with
  | (.fault c t, s) => (.fault c t, s)
  | (.miss, s) => (.miss va, s)
  | (.leaf leaf, s) =>
    let pa := leafAddr leaf.entry leaf.level va
    if noHome leaf.entry then
      match s.windowFault o.copies pa k leaf.level va false with
      | some (c, t) => (.fault c t, s)
      | none => (.data (s.tierBytes pa k), s.countRemote o.core (clusterOf (BitVec.ofNat 16 (pa / 2 ^ 28))))
    else
      let home := homeOf leaf.entry pa va
      if s.poisoned pa then (.fault .sramEcc (BitVec.ofNat 64 pa), s)
      else
        let s := (s.ensureLine leaf.entry home pa na o.pnum va).countRemote o.core home
        (.data (s.homeBytes home pa k), s.engStamp o leaf.entry pa k false false)

/-- An operation's write is held under write-block at the home of its line, and the operation waits for it (R101). -/
def State.engHold (s : State) (n : Nat) (o : EngOp) (na : Bool) (p : Place) (d : List Byte) : State :=
  let h : HeldStore :=
    { by_ := .op n, key := 0, gtid := o.gtid, pnum := o.pnum, cl := clusterOf o.core, core := o.core, homeCl := o.cl, company := o.company,
      walking := none, ready := none, digest := 0, home := p.home, va := p.va, leaf := p.leaf, data := d, na,
      stamper := if o.key < 65536 then none else some o.stamper, sync := false, fence := false, release := none }
  (s.hold (clusterOf o.core) h).updOp n fun o => { o with flying := o.flying + 1 }

/-- Writes bytes of one line, or holds them under write-block (R101). -/
def State.engWriteG (s : State) (n : Nat) (o : EngOp) (na : Bool) (va : Nat) (d : List Byte) : Put × State :=
  match s.engLeaf n o va true with
  | (.fault c t, s) => (.fault c t, s)
  | (.miss, s) => (.miss va, s)
  | (.leaf leaf, s) =>
    let p := { placeUnder leaf va with len := d.length }
    match s.placeFault o.copies p true with
    | some (c, t) => (.fault c t, s)
    | none =>
      let s := s.countRemote o.core p.key.1
      if leafWb leaf.entry then (.flying, (if p.homed then s.engStamp o leaf.entry p.pa d.length true false else s).engHold n o na p d)
      else if p.homed then
        let s := s.ensureLine leaf.entry p.home p.pa na o.pnum va
        (.done, (s.engStamp o leaf.entry p.pa d.length true false).placeWrite p d)
      else (.done, s.placeWrite p d)

/-! ## `.s` -/

/-- The cluster whose company's scratch an operation reaches: its own, or the one that a selector names (R337). -/
def EngOp.scratchCl (o : EngOp) (sel : BitVec 32) : Nat := if sel.getLsbD 29 then clusterOf (sel.extractLsb' 0 16) else o.cl

/-- XLATE_PERM of a space check (R59, R61). -/
def spacePerm (addr : Nat) : FaultCode × Word := (.xlatePerm, xlateTval 2 0 addr)

/-- Reads k bytes of one bank of a company's scratch: it waits while the company is suspended (R338). -/
def State.engReadS (s : State) (o : EngOp) (sel : BitVec 32) (addr k : Nat) : Got × State :=
  let cl := o.scratchCl sel
  let c := s.clusterAt cl
  let (lb, off) := scratchOf addr
  let bad : Got := .fault (spacePerm addr).1 (spacePerm addr).2
  if 2 ^ 21 < addr + k ∨ o.key < 65536 then (bad, s)
  else
    match c.companies.look o.company with
    | none => (bad, s)
    | some co =>
      if co.susp || (c.divertOf o.company).isSome then (.wait, s)
      else
        match c.physBank o.company lb .scratch with
        | none => (bad, s)
        | some b => if c.discarded o.company lb then (bad, s) else (.data (s.tierBytes (bankPa cl b off) k), s)

/-- The fault of a write of k bytes to one bank of a company's scratch, or of another package's (R337, R374, R517). -/
def State.engFaultS (s : State) (o : EngOp) (sel : BitVec 32) (addr k : Nat) : Option (FaultCode × Word) :=
  let c := s.clusterAt (o.scratchCl sel)
  let lb := (scratchOf addr).1
  if sel.getLsbD 29 && sel.getLsbD 28 then
    let pkg := (sel.extractLsb' 16 12).toNat
    if (s.peerPort pkg).isNone then some (.scope, peerTval (sel.extractLsb' 0 16, pkg)) else none
  else if 2 ^ 21 < addr + k ∨ o.key < 65536 ∨ (c.companies.look o.company).isNone then some (spacePerm addr)
  else
    let diverted := match c.divertOf o.company with
      | some (_, _, _, lbanks) => lbanks.getLsbD lb
      | none => false
    if !diverted && !c.discarded o.company lb && (c.physBank o.company lb .scratch).isNone then some (spacePerm addr) else none

/-- Sends bytes to one bank of a company's scratch (R374). -/
def State.engWriteS (s : State) (n : Nat) (o : EngOp) (sel : BitVec 32) (addr : Nat) (d : List Byte) : Put × State :=
  let (lb, off) := scratchOf addr
  match s.engFaultS o sel addr d.length with
  | some (c, t) => (.fault c t, s)
  | none =>
    let s := if sel.getLsbD 29 && sel.getLsbD 28 then
        { s with outbox := s.outbox ++ [Sent.write (sel.extractLsb' 16 12).toNat o.company sel addr d n] }
      else s.send (.scratch (o.scratchCl sel) (.write o.company lb off d (some n) (some o.source)))
    (.flying, s.updOp n fun o => { o with flying := o.flying + 1 })

/-! ## `.l` -/

/-- The command processor has begun to save the data region of a core for an operation's company (R466). -/
def State.localSaved (s : State) (o : EngOp) : Bool :=
  match s.company? (clusterOf o.core) o.company with
  | none => false
  | some co => co.savedLocals.any fun l => l.core == o.core

/-- Reads bytes of the core's local memory; a region that has been saved is read once it is restored. -/
def State.engReadL (s : State) (o : EngOp) (addr k : Nat) : Got × State :=
  if !(s.coreAt o.core).localOk addr k then (.fault (spacePerm addr).1 (spacePerm addr).2, s)
  else if s.localSaved o then (.wait, s)
  else
    let pa := localPa o.core addr
    if s.bad.any (fun b => pa / 8 ≤ b / 8 && b / 8 ≤ (pa + k - 1) / 8) then (.fault .sramEcc (BitVec.ofNat 64 addr), s)
    else (.data (s.tierBytes pa k), s)

/-- Writes bytes of the core's local memory, or of the saved image of it (R471). -/
def State.engWriteL (s : State) (n : Nat) (o : EngOp) (addr : Nat) (d : List Byte) : Put × State :=
  if !(s.coreAt o.core).localOk addr d.length then (.fault (spacePerm addr).1 (spacePerm addr).2, s)
  else
    let (f, _, s) := s.land (clusterOf o.core) (.lwrite o.company o.core addr d (some n) (some o.source))
    if f = .held then (.flying, s.updOp n fun o => { o with flying := o.flying + 1 }) else (.done, s)

/-! ## By space -/

/-- Reads bytes of one line of a space; codes 0, 1 and 2 name `.g`, `.s` and `.l` (R373). -/
def State.engRead (s : State) (n : Nat) (o : EngOp) (spc : Fin 4) (sel : BitVec 32) (na : Bool) (addr k : Nat) : Got × State :=
  if spc = 0 then s.engReadG n o na addr k else if spc = 1 then s.engReadS o sel addr k else s.engReadL o addr k

/-- Writes bytes of one line of a space. -/
def State.engWrite (s : State) (n : Nat) (o : EngOp) (spc : Fin 4) (sel : BitVec 32) (na : Bool) (addr : Nat) (d : List Byte) :
    Put × State :=
  if spc = 0 then s.engWriteG n o na addr d else if spc = 1 then s.engWriteS n o sel addr d else s.engWriteL n o addr d

/-- The translation and range checks of one piece of a copy, without the access: no bytes and the state as it is, or what stops it (R374). -/
def State.engCheck (s : State) (n : Nat) (o : EngOp) (spc : Fin 4) (sel : BitVec 32) (addr k : Nat) (write : Bool) : Got × State :=
  let answer (f : Option (FaultCode × Word)) (t : State) : Got × State := match f with
    | some (c, v) => (.fault c v, t)
    | none => (.data [], s)
  if spc = 0 then
    match s.engLeaf n o addr write with
    | (.fault c t, s) => (.fault c t, s)
    | (.miss, s) => (.miss addr, s)
    | (.leaf leaf, t) =>
      let p := { placeUnder leaf addr with len := k }
      answer (if p.homed then none else t.windowFault o.copies p.pa k leaf.level addr write) t
  else if !write then s.engRead n o spc sel false addr k
  else if spc = 1 then answer (s.engFaultS o sel addr k) s
  else answer (if (s.coreAt o.core).localOk addr k then none else some (spacePerm addr)) s

/-- Cuts n bytes from an address at line boundaries. -/
def cutLines (fuel addr n : Nat) : List (Nat × Nat) :=
  match fuel with
  | 0 => []
  | f + 1 =>
    if n = 0 then []
    else
      let k := min n (64 - addr % 64)
      (addr, k) :: cutLines f (addr + k) (n - k)

/-- Reads pieces in order; the first that does not give data ends the read. -/
def State.engReadPieces (s : State) (n : Nat) (o : EngOp) (spc : Fin 4) (sel : BitVec 32) (na : Bool) (l : List (Nat × Nat)) : Got × State :=
  match l with
  | [] => (.data [], s)
  | (a, k) :: r =>
    match s.engRead n o spc sel na a k with
    | (.data d, s) =>
      match s.engReadPieces n o spc sel na r with
      | (.data e, s) => (.data (d ++ e), s)
      | (g, s) => (g, s)
    | (g, s) => (g, s)

/-- Reads len bytes. -/
def State.engReadMany (s : State) (n : Nat) (o : EngOp) (spc : Fin 4) (sel : BitVec 32) (na : Bool) (addr len : Nat) : Got × State :=
  s.engReadPieces n o spc sel na (cutLines (len / 64 + 2) addr len)

end Sys2Proof.Machine
end

