-- ==== Sys2Proof/Machine/Engines.lean ====
section
/-! DEFINITION. Copy engine, message sender, landings, resolutions and exported cells (R62, R166, R192 to R195, R256, R341, R351, R357,
R366, R368, R373 to R375, R461, R471 to R475). -/

namespace Sys2Proof.Machine

/-! ## Copies (R373 to R375) -/

/-- Bytes of a copy. -/
def CopyShape.total (c : CopyShape) : Nat := c.len * c.rows * c.planes

/-- An address some bytes from a base, modulo 2^64. -/
def addrPlus (base : Nat) (d : Int) : Nat := (BitVec.ofInt 64 ((base : Int) + d)).toNat

/-- Source, destination and bytes left in its run of byte `done` of a copy. -/
def CopyShape.at (c : CopyShape) (done : Nat) : Nat × Nat × Nat :=
  let run := done / c.len
  let off := done % c.len
  let p : Int := ((run / c.rows : Nat) : Int)
  let j : Int := ((run % c.rows : Nat) : Int)
  (addrPlus c.src (p * c.srcPlane + j * c.srcRow + off), addrPlus c.dst (p * c.dstPlane + j * c.dstRow + off), c.len - off)

/-- Bytes of a fill pattern from an offset. -/
def fillBytes (w : Word) (off k : Nat) : List Byte := (List.range k).map fun i => w.extractLsb' (8 * ((off + i) % 8)) 8

/-- 64-byte units that n bytes take (R482). -/
def units64 (n : Nat) : Nat := (n + 63) / 64

/-- The result of an operation whose landings were dropped (R256, R517). -/
def EngOp.droppedResult (o : EngOp) (sel : BitVec 32) (addr : Nat) : OpResult :=
  if o.refused then
    .faulted .scope (peerTval (sel.extractLsb' 0 16, (sel.extractLsb' 16 12).toNat))
  else .faulted (spacePerm addr).1 (spacePerm addr).2

/-- A copy that has moved all its bytes ends once they have landed. -/
def State.endCopy (s : State) (n : Nat) (o : EngOp) (sel : BitVec 32) (addr value : Nat) : State :=
  if o.flying ≠ 0 then s
  else s.endOp n (if o.dropped then o.droppedResult sel addr else .resolved (BitVec.ofNat 32 value))

/-- One piece of a copy: bytes within one line of its source and one of its destination. Both sides are translated and checked before either
is accessed (R374). -/
def State.copyPiece (s : State) (n : Nat) (o : EngOp) (sspc dspc : Fin 4) (sna dna : Bool) (pattern : Option Word) (remote : BitVec 32)
    (c : CopyShape) : State :=
  if c.total ≤ o.done then s.endCopy n o remote c.dst c.total
  else if o.flying ≠ 0 then s
  else
    let (src, dst, left) := c.at o.done
    let room := min left (64 - dst % 64)
    let k := if pattern.isSome then room else min room (64 - src % 64)
    let move (read : State) (d : List Byte) : State :=
      match read.engWrite n o dspc remote dna dst d with
      | (.fault code t, s) => s.endOp n (.faulted code t)
      | (.miss va, _) => s.engMiss n o va true
      | (_, s) => (s.updOp n fun o => { o with done := o.done + k }).countCore o.core 8 1 (units64 (o.done + k) - units64 o.done)
    let next (write : Bool) (r : Got × State) (go : State → List Byte → State) : State :=
      match r with
      | (.wait, _) => s
      | (.miss va, _) => s.engMiss n o va write
      | (.fault code t, s) => s.endOp n (.faulted code t)
      | (.data d, s) => go s d
    let checked (write : Bool) (r : Got × State) (go : State) : State := next write r fun _ _ => go
    let target := checked true (s.engCheck n o dspc remote dst k true)
    match pattern with
    | some w => target (move s (fillBytes w (o.done % c.len) k))
    | none => checked false (s.engCheck n o sspc 0 src k false) (target (next false (s.engRead n o sspc 0 sna src k) move))

/-- One entry of a CPYQ, once there is a credit for it; through a FENCED register it faults as a push of a task does (R163, log entry 105). -/
def State.copyEntry (s : State) (n : Nat) (o : EngOp) (sspc : Fin 4) (sna : Bool) (src len : Nat) (reg : Fin 16) (queue : Nat) (tag : Option (BitVec 24)) : State :=
  if len ≤ o.done then s.endOp n (.resolved (BitVec.ofNat 32 len))
  else
    match s.queue? queue with
    | none => s.endOp n (.resolved (BitVec.ofNat 32 o.done))
    | some q =>
      let w := if q.wide then 32 else 8
      match (s.issuer? o.key o.gtid).bind fun x => x.qregs[reg].fenced with
      | some c => s.endOp n (.faulted .neighbourFenced (queueTval reg true 0 false c.toNat 0))
      | none =>
      if !q.canPush 1 then s
      else
        match s.engReadMany n o sspc 0 sna (src + o.done) w with
        | (.wait, _) => s
        | (.miss va, _) => s.engMiss n o va false
        | (.fault code t, s) => s.endOp n (.faulted code t)
        | (.data d, s) =>
          let e : Entry := { payload := BitVec.ofNat 256 (leValue d), kind := 0, fmark := false, tag := tag.getD 0 }
          let s := (s.updQueue queue fun q => q.push e (some o.carried)).countCore o.core 6 0
          (s.updOp n fun o => { o with done := o.done + w }).countCore o.core 8 1 (units64 (o.done + w) - units64 o.done)

/-- A copy operation whose turn it is moves its next piece, or ends. -/
def State.copyStep (s : State) (n : Nat) : State :=
  match s.ops.look n with
  | none => s
  | some o =>
    if !s.opTurn n o then s
    else
      match o.body with
      | .copy sspc dspc sna dna pattern remote shape => s.copyPiece n o sspc dspc sna dna pattern remote shape
      | .badShape va => s.endOp n (.faulted .operandForm (BitVec.ofNat 64 va))
      | .toQueue sspc sna src len reg queue tag => s.copyEntry n o sspc sna src len reg queue tag
      | _ => s

/-- COPY_OPERATION. -/
def execCopyOperation (n : Nat) (s : State) : Host.Outcome State Fault Refusal := eventM (fun s => s.copyStep n) s

/-! ## Messages (R166, R357) -/

/-- Packets of a message. -/
def packetCount (len : Nat) : Nat := max 1 ((len + 63) / 64)

/-- Sends the next packet of a message. -/
def State.sendPacket (s : State) (n : Nat) (o : EngOp) (spc : Fin 4) (sel : BitVec 32) (src len : Nat) (core : Coord) (tag : Fin 16)
    (pkg : Option (BitVec 12)) (doff : Nat) : State :=
  let off := o.done * 64
  let scopeTval (p : BitVec 12) : Word := peerTval (core, p.toNat)
  if packetCount len ≤ o.done then
    if o.flying ≠ 0 then s
    else
      let lost := match pkg with
        | some p => if o.refused then OpResult.faulted .scope (scopeTval p) else .faulted (spacePerm doff).1 (spacePerm doff).2
        | none => .faulted (spacePerm doff).1 (spacePerm doff).2
      s.endOp n (if o.dropped then lost else .resolved (BitVec.ofNat 32 len))
  else
    match pkg.map fun p => (p, s.peerPort p.toNat) with
    | some (p, none) => s.endOp n (.faulted .scope (scopeTval p))
    | route =>
      match s.engReadMany n o spc sel false (src + off) (min 64 (len - off)) with
      | (.wait, _) => s
      | (.miss va, _) => s.engMiss n o va false
      | (.fault c t, s) => s.endOp n (.faulted c t)
      | (.data d, s) =>
        let s := match route with
          | some (p, _) => { s with outbox := s.outbox ++ [Sent.message p.toNat o.company core tag.val (doff + off) d n] }
          | none => s.send (.message core tag o.company (doff + off) d o.carried (some n))
        (s.updOp n fun o => { o with done := o.done + 1, flying := o.flying + 1 }).countCore o.core 7 0

/-- MESSAGE_SEND_OPERATION. -/
def execMessageSendOperation (n : Nat) (s : State) : Host.Outcome State Fault Refusal :=
  eventM (fun s =>
    match s.ops.look n with
    | none => s
    | some o =>
      if !s.opTurn n o then s
      else
        match o.body with
        | .message spc sel src len core tag pkg doff => s.sendPacket n o spc sel src len core tag pkg doff
        | _ => s) s

/-- Writes a packet's data into a company's scratch, a bank at a time. -/
def State.landData (s : State) (cl company doff : Nat) (d : List Byte) (src : Option StoreSrc) : List Fate × State :=
  let first := min d.length (65536 - doff % 65536)
  let one (s : State) (doff : Nat) (d : List Byte) : List Fate × State :=
    if d.isEmpty then ([], s)
    else if 2 ^ 21 < doff + d.length ∨ (s.company? cl company).isNone then ([.dropped], s)
    else
      let (f, _, s) := s.land cl (.write company (doff / 65536) (doff % 65536) d none src)
      ([f], s)
  let (a, s) := one s doff (d.take first)
  let (b, s) := one s (doff + first) (d.drop first)
  (a ++ b, s)

/-- A packet increments its counter, or is diverted with it; behind data that waits at the ingress it waits too (R166, R256, R471). -/
def State.landCount (s : State) (core : Coord) (tag : Fin 16) (company : Nat) (know : Option Carried) (op : Option Nat) (fates : List Fate) : State :=
  let cl := clusterOf core
  let m := (s.coreAt core).mail[tag]
  let dropped := fates.contains Fate.dropped
  let ended : Fate := if dropped then .dropped else .performed
  let landedHere (s : State) : State := (s.landedFor op ended 0).countCore core 7 1
  if fates.contains Fate.held then (s.holdArrival cl (.count company core tag.val know op)).countCore core 7 1
  else if dropped && m.cleared then landedHere s
  else
    let (f, s) := s.landCounter core tag.val know op
    if f = .held then s.countCore core 7 1 else landedHere s

/-- A packet lands: its data first, then its count (R166). -/
def State.landMessage (s : State) (core : Coord) (tag : Fin 16) (company doff : Nat) (d : List Byte) (know : Carried) (op : Option Nat) :
    State :=
  let (fates, s) := s.landData (clusterOf core) company doff d ((op.bind s.ops.look).map EngOp.source)
  s.landCount core tag company (some know) op fates

/-- MESSAGE_PACKET_LANDING. -/
def execMessagePacketLanding (pkt : Nat) (s : State) : Host.Outcome State Fault Refusal :=
  eventM (fun s =>
    match s.pkts.look pkt with
    | some (.message core tag company doff data know op) => { s with pkts := s.pkts.del pkt }.landMessage core tag company doff data know op
    | _ => s) s

/-- A landing reaches a cluster (R62, R256, R471). -/
def State.landScratch (s : State) (cl : Nat) (a : Arrival) : State :=
  let (f, v, s) := s.land cl a
  if f = .held then s else s.landedFor a.who f v

/-- SCRATCH_LANDING. -/
def execScratchLanding (pkt : Nat) (s : State) : Host.Outcome State Fault Refusal :=
  eventM (fun s =>
    match s.pkts.look pkt with
    | some (.scratch cl a) => { s with pkts := s.pkts.del pkt }.landScratch cl a
    | _ => s) s

/-! ## Joins (R194, R351) -/

/-- Items of an operator whose writes are held under write-block (R101). -/
def State.heldItems (s : State) (k : Nat) (o : Opr) : List Nat :=
  (s.held.filterMap fun (e : Nat × HeldStore) => match e.2.by_ with
    | .opr j l i => if j = k ∧ l = o.launch ∧ e.2.pnum = o.pnum then some i else none
    | _ => none).eraseDups

/-- Entries of an input port that its operator has taken and whose effects are still to come: those of port 0 that a REF or a DIST keeps,
and those of a PUT's writes that are held. -/
def State.pendingInputs (s : State) (k : Nat) (o : Opr) (port : Nat) : Nat :=
  (if port = 0 then o.slots.length + (o.staging.map fun (e : Nat × List (Entry × Carrier)) => e.2.length).sum else 0) +
    (s.heldItems k o).length

/-- An operator stream has completed its first entries (R192, R351). -/
def State.streamDone (s : State) (n pos : Nat) : Bool :=
  match s.queue? n with
  | none => true
  | some q =>
    let waits := match q.cons with
      | .port opr port => match s.oprs.look opr with
        | some o => s.pendingInputs opr o port
        | none => 0
      | _ => 0
    q.discards || pos + waits ≤ q.taken

/-- A join is complete. -/
def State.joinDone (s : State) (ops : List Nat) (streams : List (Nat × Nat)) : Bool :=
  ops.all (fun n => (s.ops.look n).isNone) && streams.all fun e => s.streamDone e.1 e.2

/-! ## Resolving (R341, R368, R461) -/

/-- The resolution word of a result (R341). -/
def OpResult.word : OpResult → Word
  | .resolved v => v.setWidth 64 ||| (1 <<< 62)
  | .faulted c _ => BitVec.ofNat 64 c.num ||| (2 <<< 62)
  | .cancelled => 3 <<< 62

/-- The tag of a register that holds a resolution (R339, R341). -/
def OpResult.tag : OpResult → BitVec 2
  | .resolved _ => 0
  | .faulted .. => 2
  | .cancelled => 3

/-- FT of every register in one word (R468). -/
def Ctx.ftWord (x : Ctx) : Nat := ((List.finRange 16).map fun i => x.ft[i].toNat * 2 ^ (2 * i.val)).sum

/-- A register of a suspended task is written in its record too (R341, R469). -/
def State.recordReg (s : State) (k : Nat) (r : Fin 16) : State :=
  let x := s.ctx k
  if !x.saved then s
  else
    match s.company? (clusterOf x.home) x.company.toNat with
    | none => s
    | some co =>
      match s.recordPa co x.gtid with
      | (none, s) => s
      | (some a, s) =>
        let v := x.g[r]
        let w (i : Nat) (s : State) : State := s.greenWrite co.pnum (a + 32 * r.val + 8 * i) (v.extractLsb' (64 * i) 64).toNat
        (((w 3 (w 2 (w 1 (w 0 s)))))).greenWrite co.pnum (a + 0x200) x.ftWord

/-- The register in which the issuing task holds an operation's handle. -/
def Ctx.handleAt (x : Ctx) (h : Word) : Option (Fin 16) :=
  (List.finRange 16).find? fun i => x.ft[i] == 1 && (x.g[i]).setWidth 64 == h

/-- A resolution reaches the register that holds the handle (R192, R341). -/
def State.writeResolution (s : State) (o : EngOp) (r : OpResult) : State :=
  match s.issuer? o.key o.gtid with
  | none => s
  | some x =>
    match x.handleAt o.handle with
    | none => s
    | some i =>
      let v := (x.g[i] &&& ~~~(0xFFFFFFFFFFFFFFFF : Vec)) ||| r.word.setWidth 256
      (s.setCtx o.key { x with g := x.g.set i v, ft := x.ft.set i r.tag, fut := x.fut.put i.val o.carried }).recordReg o.key i

/-- The asynchronous fault of an operation (R461). -/
def State.opFault (s : State) (o : EngOp) (code : FaultCode) (tval : Word) : State :=
  let r : FaultRec :=
    { gtid := o.gtid, tval, pc := 0, code := code.num, async := true, fatal := false, fwd := false, undeliv := false, role := false,
      coord := o.core, olnch := 0, oindex := 0, qsel := o.qsel, time := s.time, opid := o.id.toNat }
  s.asyncFault o.pnum o.cl o.company o.key r

/-- An exported update is sent: it translates as an atomic in the same step, at the cache of its core's cluster (R368). -/
def State.sendCell (s : State) (o : EngOp) (r : OpResult) (d : CellExport) : State :=
  let cache := clusterOf o.core
  let who := Requester.cell s.fresh cache
  match s.engineTranslate who cache o.pnum d.va true with
  | (.fault c t, s) => s.opFault o c t
  | (.miss, _) => (s.send (.cell o r d none false)).engineMiss who cache o.pnum d.va true
  | (.leaf l, s) => s.send (.cell o r d (some l) false)

/-- An operation may resolve: it has ended, everything it sent has landed, and it is the oldest of its queue (R193, R341). -/
def State.resolvable (s : State) (n : Nat) (o : EngOp) : Bool :=
  (s.engQueue o.core o.qsel).all (fun (e : Nat × EngOp) => n ≤ e.1) && o.flying == 0 && !o.body.isTget &&
    (match o.body with
     | .join ops streams _ => s.joinDone ops streams
     | _ => o.result.isSome)

/-- An operation resolves. -/
def State.resolveOp (s : State) (n : Nat) : State :=
  match s.ops.look n with
  | none => s
  | some o =>
    if !s.resolvable n o then s
    else
      let r := o.result.getD (.resolved 0)
      let s := { s with ops := s.ops.del n }.writeResolution o r
      let s := match o.exportTo with
        | none => s
        | some d => s.sendCell o r d
      let s := match r with
        | .faulted c t => (if o.qsel < 4 then s.countCore o.core 8 2 else s).opFault o c t
        | _ => s
      if o.qsel = 4 then s.unbindTile o.core else s

/-- ENGINE_RESOLVE. -/
def execEngineResolve (n : Nat) (s : State) : Host.Outcome State Fault Refusal := eventM (fun s => s.resolveOp n) s

/-! ## Exported cells (R366, R368) -/

/-- What a result makes of a cell. -/
def Cell.update (c : Cell) (r : OpResult) : Option (Cell × Bool) :=
  match r with
  | .resolved v => c.fres v.toNat
  | .faulted k _ => c.ffail k.num
  | .cancelled => c.cancel

/-- The update of a cell whose place is known: in one step at its home, a release of the issuer's knowledge. -/
def State.cellPerform (s : State) (o : EngOp) (r : OpResult) (leaf : Leaf) (va : Nat) : State :=
  let p := { placeUnder leaf va with len := 16 }
  match s.placeFault false p true with
  | some (c, t) => s.opFault o c t
  | none =>
    let s := if p.homed then s.ensureLine leaf.entry p.home p.pa false o.pnum va else s
    let c := cellOf (s.placeBytes p)
    match c.update r with
    | none => s.opFault o .doubleResolve (BitVec.ofNat 64 c.word)
    | some (c', starts) =>
      let s := if p.homed then s.engStamp o leaf.entry p.pa 16 true true else s
      let s := s.placeWrite p c'.bytes
      let live := (s.launches.look (launchKey o.pnum (gtidLaunch o.gtid))).isSome
      let s := if live then s.releaseAt p.key.1 p.key.2 o.pnum o.carried 0xFFFFFFFF o.home (some (p.pa % 64 / 16)) else s
      if starts then s.send (.start (indexCore c.cont) c.cont (some ((s.clusterAt p.key.1).withRecord p.key.2 o.pnum o.carried))) else s

/-- What a recording or a replay sees of an exported update at its place: the digest of the issuer as it stands, or of nothing once it has
ended (R503, R504, log entry 104). -/
def State.cellEvent (s : State) (o : EngOp) (leaf : Leaf) (va : Nat) : LogEvent :=
  let pa := leafAddr leaf.entry leaf.level va
  { ty := 5, die := if noHome leaf.entry then cDie (BitVec.ofNat 16 (pa / 2 ^ 28)) else homeOf leaf.entry pa va / 24, gtid := o.gtid,
    digest := match s.issuer? o.key o.gtid with
      | some x => crc64 (x.digestBytes x.pc)
      | none => 0
    coord := o.core, arg := 0, value := pa / 64 % 2 ^ 46 }

/-- An exported update performs in the order of its launch's replay (R503, R505). -/
def State.cellLogged (s : State) (pkt : Nat) (o : EngOp) (r : OpResult) (leaf : Leaf) (va : Nat) : State :=
  let e := s.cellEvent o leaf va
  let perform (s : State) : State := { s with pkts := s.pkts.del pkt }.cellPerform o r leaf va
  match s.logged (gtidPnum o.gtid) (gtidLaunch o.gtid) e with
  | (.go _, s) => perform s
  | (.wait, _) => s
  | (.diverge i, s) => perform (s.diverge (gtidPnum o.gtid) (gtidLaunch o.gtid) e i)

/-- A walk serves an exported update. -/
def State.cellWalks (s : State) (pkt : Nat) : Bool := s.walks.any fun (e : Nat × Walk) => e.2.requesters.any (Requester.isCell · pkt)

/-- An exported update that has its leaf performs, or is held under write-block at its home (R101); one whose walk has faulted raises the
fault. -/
def State.cellUpdate (s : State) (pkt : Nat) (o : EngOp) (r : OpResult) (d : CellExport) (leaf : Option Leaf) (held : Bool) : State :=
  match leaf with
  | some l =>
    if !leafWb l.entry then s.cellLogged pkt o r l d.va
    else if held then s
    else
      let p := placeUnder l d.va
      ({ s with pkts := s.pkts.put pkt (.cell o r d leaf true) }.newlyHeld pkt pkt (clusterOf o.core) o.pnum l).countCluster p.home 3 5
  | none =>
    match s.walkFaults.find? fun f => f.who.isCell pkt with
    | some f => { s with pkts := s.pkts.del pkt, walkFaults := s.walkFaults.erase f }.opFault o f.code (walkTval f.code f.reason f.level d.va)
    | none =>
      if s.cellWalks pkt then s else s.engineMiss (.cell pkt (clusterOf o.core)) (clusterOf o.core) o.pnum d.va true

/-- EXPORT_CELL_UPDATE. -/
def execExportCellUpdate (pkt : Nat) (s : State) : Host.Outcome State Fault Refusal :=
  eventM (fun s =>
    match s.pkts.look pkt with
    | some (.cell o r d l held) => s.cellUpdate pkt o r d l held
    | _ => s) s

end Sys2Proof.Machine
end

