-- ==== Sys2Proof/Machine/TileEvents.lean ====
section
/-! DEFINITION. Tile commands as they perform: loads, products, stores (R402 to R404, R406 to R415). -/

namespace Sys2Proof.Machine

/-! ## Decomposition and alignment (R410) -/

/-- Planes of a format in A (R410). -/
def planesOf (fmt : Nat) : Nat := if fmt = 5 then 4 else if fmt = 1 ∨ fmt = 2 then 16 else 8

/-- One K-block: signed magnitudes, unit exponent and NaN flag. -/
structure KBlock where
  mags : List Int
  unit : Int
  nan : Bool
  deriving DecidableEq, Repr

/-- Exponent and mantissa of an encoding as R410 takes them. -/
def floatParts (f : FloatFmt) (x : Nat) : Nat × Nat :=
  let ef := x / 2 ^ f.mb % 2 ^ f.eb
  let mf := x % 2 ^ f.mb
  if ef = 0 then (1, mf) else (ef, 2 ^ f.mb + mf)

/-- An element is NaN or infinite. -/
def notFinite (f : FloatFmt) (x : Nat) : Bool :=
  match decodeFloat f x with
  | .fin .. => false
  | _ => true

/-- The largest exponent of the elements that are not zero, or 0. -/
def emaxOf (l : List (Nat × Nat)) : Nat := l.foldl (fun (a : Nat) e => if e.2 = 0 then a else max a e.1) 0

/-- A block of a floating format in a window. -/
def floatBlock (f : FloatFmt) (w : Nat) (l : List Nat) : KBlock :=
  let parts := l.map (floatParts f)
  let emax := emaxOf parts
  let sh := w - (f.mb + 1)
  let mag (x : Nat) (p : Nat × Nat) : Int :=
    let d := emax - p.1
    let m : Nat := if d ≤ sh then p.2 * 2 ^ (sh - d) else p.2 / 2 ^ (d - sh)
    if x / 2 ^ (f.eb + f.mb) % 2 = 1 then -(m : Int) else (m : Int)
  { mags := (l.zip parts).map fun e => mag e.1 e.2, unit := (emax : Int) - f.bias - f.mb - sh, nan := l.any (notFinite f) }

/-- A block of a format with its scale byte, in a window. -/
def kBlock (fmt w scale : Nat) (l : List Nat) : KBlock :=
  match fmt with
  | 6 => { mags := l.map (signedOf 8), unit := 0, nan := false }
  | 5 =>
    let half (x : Nat) : Int :=
      match decodeFloat e2m1 x with
      | .fin neg m e => scaled neg m e (-1)
      | _ => 0
    { mags := l.map half, unit := (scale : Int) - 128, nan := scale == 255 }
  | fmt =>
    match floatOf fmt with
    | some f => floatBlock f w l
    | none => { mags := [], unit := 0, nan := false }

/-- Element i of packed bytes (R127). -/
def packedElem (fmt : Nat) (d : List Byte) (i : Nat) : Nat :=
  match fmtWidth fmt with
  | 4 => (d.getD (i / 2) 0).toNat / (if i % 2 = 0 then 1 else 16) % 16
  | 8 => (d.getD i 0).toNat
  | 16 => (d.getD (2 * i) 0).toNat + 256 * (d.getD (2 * i + 1) 0).toNat
  | _ => leValue (slice d (4 * i) 4)

/-- Bytes of n packed elements. -/
def packedBytes (fmt n : Nat) : Nat := n * fmtWidth fmt / 8

/-- A table of the values that are not zero. -/
def sparse (l : List (Nat × Int)) : Tbl Int := l.filter fun e => e.2 != 0

/-- The row buffer that rows with their block scales give (R401, R408, R410). -/
def rowBufOf (fmt : Nat) (rows : List (List Byte × List Nat)) : RowBuf :=
  let blocks (r : List Byte × List Nat) : List KBlock :=
    (List.range 8).map fun b => kBlock fmt (planesOf fmt) (r.2.getD b 127) ((List.range 32).map fun k => packedElem fmt r.1 (32 * b + k))
  let all := rows.map blocks
  { valid := true, fmt, rows := rows.length,
    mags := sparse (all.zipIdx.flatMap fun r => (r.1.flatMap KBlock.mags).zipIdx.map fun e => (r.2 * 256 + e.2, e.1)),
    exps := sparse (all.zipIdx.flatMap fun r => r.1.zipIdx.map fun e => (r.2 * 8 + e.2, e.1.unit)),
    nans := (all.zipIdx.filter fun r => r.1.any KBlock.nan).map fun r => r.2 }

/-- The macro that K-rows with the scales of its blocks give; rows that are not loaded are zero (R401, R408, R410). -/
def tileBOf (fmt : Nat) (rows : List (List Byte)) (scales : List (List Nat)) : TileB :=
  let elemAt (k col : Nat) : Nat := match rows[k]? with
    | some d => packedElem fmt d col
    | none => 0
  let cols : List (List KBlock) := (List.range 8).map fun b => (List.range 64).map fun col =>
    kBlock fmt 15 (((scales[b]?).getD []).getD col 127) ((List.range 32).map fun i => elemAt (32 * b + i) col)
  { valid := true, fmt,
    mags := sparse (cols.zipIdx.flatMap fun b => (List.range 32).flatMap fun i => b.1.zipIdx.map fun c =>
      ((32 * b.2 + i) * 64 + c.2, c.1.mags.getD i 0)),
    exps := sparse (cols.zipIdx.flatMap fun b => b.1.zipIdx.map fun c => (b.2 * 64 + c.2, c.1.unit)),
    nans := cols.zipIdx.flatMap fun b => (b.1.zipIdx.filter fun c => c.1.nan).map fun c => b.2 * 64 + c.2 }

/-! ## Loads (R408) -/

/-- What a load of several ranges gives. -/
inductive GotAll where
  | data (l : List (List Byte))
  | wait
  | miss (va : Nat)
  | fault (code : FaultCode) (tval : Word)
  deriving DecidableEq, Repr

/-- Reads ranges in order. -/
def State.engReadAll (s : State) (n : Nat) (o : EngOp) (spc : Fin 4) (sel : BitVec 32) (na : Bool) (l : List (Nat × Nat)) : GotAll × State :=
  match l with
  | [] => (.data [], s)
  | (a, k) :: r =>
    match s.engReadMany n o spc sel na a k with
    | (.wait, s) => (.wait, s)
    | (.miss va, s) => (.miss va, s)
    | (.fault c t, s) => (.fault c t, s)
    | (.data d, s) =>
      match s.engReadAll n o spc sel na r with
      | (.data e, s) => (.data (d :: e), s)
      | (g, s) => (g, s)

/-- Replaces the tile unit of a core. -/
def State.updTile (s : State) (core : Coord) (f : Tile → Tile) : State := s.updCore core fun c => { c with tile := f c.tile }

/-- Rows of a descriptor from a base. -/
def rowRanges (base : Nat) (d : Vec) (bytes : Nat) : List (Nat × Nat) :=
  (List.range (descRows d)).map fun (i : Nat) => (addrPlus base ((i : Int) * descStride d), bytes)

/-- Bytes as numbers. -/
def byteNats (d : List Byte) : List Nat := d.map BitVec.toNat

/-- TLDA. -/
def State.performTlda (s : State) (n : Nat) (o : EngOp) (spc : Fin 4) (na : Bool) (base : Nat) (d : Vec) (sel : BitVec 32) : State :=
  let fmt := descFmt d
  let rows := rowRanges base d (packedBytes fmt 256)
  let scales := if fmt = 5 then (List.range (descRows d)).map fun i => (addrPlus (descScales d) (8 * i : Nat), 8) else []
  match s.engReadAll n o spc sel na (rows ++ scales) with
  | (.wait, _) => s
  | (.miss va, _) => s.engMiss n o va false
  | (.fault c t, s) => (s.updTile o.core fun u => { u with row := .invalid }).endOp n (.faulted c t)
  | (.data l, s) =>
    let pairs := (l.take rows.length).zipIdx.map fun e => (e.1, byteNats ((l.drop rows.length).getD e.2 []))
    let bytes := ((rows ++ scales).map Prod.snd).sum
    (s.updTile o.core fun u => { u with row := rowBufOf fmt pairs }).endOp n (.resolved (BitVec.ofNat 32 bytes))

/-- TLDB: the scales of a block are read only where it holds a loaded row. -/
def State.performTldb (s : State) (n : Nat) (o : EngOp) (spc : Fin 4) (na : Bool) (base : Nat) (d : Vec) (sel : BitVec 32) : State :=
  let fmt := descFmt d
  let q := descMacro d
  let rows := rowRanges base d (packedBytes fmt 64)
  let scales := if fmt = 5 then
      ((List.range 8).filter fun b => 32 * b < descRows d).map fun b => (addrPlus (descScales d) (64 * b : Nat), 64)
    else []
  match s.engReadAll n o spc sel na (rows ++ scales) with
  | (.wait, _) => s
  | (.miss va, _) => s.engMiss n o va false
  | (.fault c t, s) =>
    (s.updTile o.core fun u => { u with b := u.b.put q { (u.b.getD q TileB.granted) with valid := false } }).endOp n (.faulted c t)
  | (.data l, s) =>
    let t := tileBOf fmt (l.take rows.length) ((l.drop rows.length).map byteNats)
    let bytes := ((rows ++ scales).map Prod.snd).sum
    (s.updTile o.core fun u => { u with b := u.b.put q t }).endOp n (.resolved (BitVec.ofNat 32 bytes))

/-! ## TLDAQ (R409) -/

/-- Entries of a row, its scales included. -/
def rowEntries (fmt : Nat) : Nat := packedBytes fmt 256 / 32 + (if fmt = 5 then 1 else 0)

/-- Rows of the entries that a TLDAQ has removed. -/
def rowsOfEntries (fmt rows : Nat) (l : List Vec) : List (List Byte × List Nat) :=
  let e := rowEntries fmt
  let data := packedBytes fmt 256 / 32
  (List.range rows).map fun i =>
    (((l.drop (i * e)).take data).flatMap fun v => leBytes 32 v.toNat, byteNats (leBytes 8 ((l.getD (i * e + data) 0).toNat % 2 ^ 64)))

/-- A pop for the issuing task: the carrier's knowledge merges into it (R201). -/
def State.popFor (s : State) (o : EngOp) (queue : Nat) : State :=
  match s.queue? queue with
  | none => s
  | some q =>
    let s := match s.issuer? o.key o.gtid with
      | none => s
      | some x => if x.task then s.setCtx o.key (x.mergeCarrier q.carrier) else s
    (s.updQueue queue fun q => ({ q with carrier := .empty } : Queue).drop1).countCore o.core 6 1

/-- TLDAQ removes one entry, or ends. -/
def State.performTldaq (s : State) (n : Nat) (o : EngOp) (reg : Fin 16) (queue : Nat) (d : Vec) : State :=
  let fmt := descFmt d
  let need := descRows d * rowEntries fmt
  if need ≤ o.taken.length then
    (s.updTile o.core fun u => { u with row := rowBufOf fmt (rowsOfEntries fmt (descRows d) o.taken) }).endOp n
      (.resolved (BitVec.ofNat 32 (32 * need)))
  else
    let bad (c : FaultCode) (t : Word) : State := (s.updTile o.core fun u => { u with row := .invalid }).endOp n (.faulted c t)
    match s.queue? queue with
    | none => bad .qunbound (queueTval reg false 0 false 0 0)
    | some q =>
      match q.head with
      | none => s
      | some e =>
        if e.fmark then bad .neighbourFenced (queueTval reg false e.kind.val true (e.payload.toNat % 2 ^ 16) 0)
        else if e.kind ≠ 0 then bad .qcue (queueTval reg false e.kind.val false 0 0)
        else (s.popFor o queue).updOp n fun o => { o with taken := o.taken ++ [e.payload], done := o.done + 32 }

/-! ## The multiply (R411, R412) -/

/-- T / 2^L truncated toward zero, for T = v * 2^e. -/
def truncTo (v : Int) (e l : Int) : Int := if l ≤ e then v * 2 ^ (e - l).toNat else v.tdiv (2 ^ (l - e).toNat)

/-- One product element from its block sums and their exponents: its FP32 pattern. -/
def windowSum (t : List (Int × Int)) : Nat :=
  let live := t.filter fun e => e.1 != 0
  match live.map fun e => (Nat.log2 e.1.natAbs : Int) + e.2 with
  | [] => 0
  | p :: ps =>
    let top := ps.foldl (fun (a b : Int) => max a b) p
    let l := top - 63
    let sum := live.foldl (fun (a : Int) e => a + truncTo e.1 e.2 l) 0
    roundFloat fp32 .rne false (numOfInt sum l false)

/-- Signed magnitudes of one row of A that are not zero: K-element and value. -/
def RowBuf.rowMags (r : RowBuf) (i : Nat) : List (Nat × Int) :=
  (r.mags.filter fun (e : Nat × Int) => e.1 / 256 == i).map fun (e : Nat × Int) => (e.1 % 256, e.2)

/-- The block sums of row i and column j of a macro, with their exponents. -/
def blockSums (r : RowBuf) (b : TileB) (row : List (Nat × Int)) (i j : Nat) : List (Int × Int) :=
  (List.range 8).map fun k =>
    (row.foldl (fun (a : Int) (e : Nat × Int) => if e.1 / 32 = k then a + e.2 * b.mags.getD (e.1 * 64 + j) 0 else a) 0,
     r.exps.getD (i * 8 + k) 0 + b.exps.getD (k * 64 + j) 0)

/-- The FP32 pattern of row i and column j of a product. -/
def productElem (r : RowBuf) (b : TileB) (row : List (Nat × Int)) (i j : Nat) : Nat :=
  if r.nans.contains i || (List.range 8).any fun k => b.nans.contains (k * 64 + j) then canonNan fp32
  else windowSum (blockSums r b row i j)

/-- An accumulator plus a product, both FP32 patterns. -/
def accAdd (a r : Nat) : Nat := roundFloat fp32 .rne false ((decodeFloat fp32 a).add .rne (decodeFloat fp32 r))

/-- Plane cycles that a row performs (R412). -/
def planesUsed (fmt : Nat) (row : List (Nat × Int)) : Nat :=
  ((List.range (planesOf fmt)).filter fun p => row.any fun e => e.2.natAbs.testBit p).length

/-- The accumulator after a product: macros with their contents. -/
def accAfter (acc : Tbl (BitVec 32)) (r : RowBuf) (macros : List (Nat × TileB)) : Tbl (BitVec 32) :=
  (List.range 16).flatMap fun i =>
    let row := r.rowMags i
    (List.range 256).filterMap fun c =>
      let k := i * 256 + c
      let old := (acc.getD k 0).toNat
      let new := match if i < r.rows then macros.find? fun m => m.1 == c / 64 else none with
        | some (_, b) => accAdd old (productElem r b row i (c % 64))
        | none => old
      if new = 0 then none else some (k, BitVec.ofNat 32 new)

/-- TMMA. -/
def State.performTmma (s : State) (n : Nat) (o : EngOp) (w : Word) : State :=
  let u := (s.coreAt o.core).tile
  let qs := (List.range 4).filter fun q => w.getLsbD q
  let macros := qs.map fun q => (q, u.b.getD q TileB.granted)
  if !u.row.valid then s.endOp n (.faulted .tileState (tileTval 3 0))
  else
    match macros.find? fun m => !m.2.valid with
    | some (q, _) => s.endOp n (.faulted .tileState (tileTval 4 q))
    | none =>
      let used := ((List.range u.row.rows).map fun i => planesUsed u.row.fmt (u.row.rowMags i)).sum
      let s := s.updTile o.core fun u =>
        if w.getLsbD 4 then { u with acc1 := accAfter u.acc1 u.row macros } else { u with acc0 := accAfter u.acc0 u.row macros }
      let s := ((s.countCore o.core 9 0 used).countCore o.core 9 1 (u.row.rows * planesOf u.row.fmt - used)).countCore o.core 9 2
      s.endOp n (.resolved (BitVec.ofNat 32 used))

/-- TZERO. -/
def State.performTzero (s : State) (n : Nat) (o : EngOp) (w : Word) : State :=
  (s.updTile o.core fun u =>
    { u with acc0 := if w.getLsbD 0 then [] else u.acc0, acc1 := if w.getLsbD 1 then [] else u.acc1 }).endOp n (.resolved 0)

/-! ## TSTOR (R415) -/

/-- Bytes of row i of an accumulator in a format. -/
def storeRow (acc : Tbl (BitVec 32)) (fmt i : Nat) (rnd : Rnd) (sat : Bool) : List Byte :=
  (List.range 256).flatMap fun c =>
    leBytes (fmtWidth fmt / 8) (encodeNum fmt rnd sat (decodeFloat fp32 (acc.getD (i * 256 + c) 0).toNat))

/-- TSTOR writes its next piece, or ends. -/
def State.performTstor (s : State) (n : Nat) (o : EngOp) (spc : Fin 4) (na : Bool) (base : Nat) (d : Vec) (sel : BitVec 32) : State :=
  let fmt := descFmt d
  let bytes := packedBytes fmt 256
  let total := descRows d * bytes
  if total ≤ o.done then
    if o.flying ≠ 0 then s
    else s.endOp n (if o.dropped then o.droppedResult sel base else .resolved (BitVec.ofNat 32 total))
  else if o.flying ≠ 0 then s
  else
    let i := o.done / bytes
    let off := o.done % bytes
    let addr := addrPlus base ((i : Int) * descStride d + off)
    let k := min (bytes - off) (64 - addr % 64)
    let u := (s.coreAt o.core).tile
    let row := storeRow (if descAcc d = 1 then u.acc1 else u.acc0) fmt i (rndOf (o.fmt.extractLsb' 4 2)) (o.fmt.getLsbD 6)
    match s.engWrite n o spc sel na addr (slice row off k) with
    | (.miss va, _) => s.engMiss n o va true
    | (.fault c t, s) => s.endOp n (.faulted c t)
    | (_, s) => s.updOp n fun o => { o with done := o.done + k }

/-! ## Performing a command (R403, R404) -/

/-- The command that a tile unit performs next; while the binding task is suspended, only one that is in progress. -/
def State.tileNext (s : State) (core : Coord) : Option (Nat × EngOp) :=
  match (s.engQueue core 4).find? fun (e : Nat × EngOp) => s.opTurn e.1 e.2 with
  | none => none
  | some (n, o) =>
    let held := match (s.coreAt core).tile.bound with
      | some k => (match s.ctxs.look k with
        | some x => x.suspended
        | none => false)
      | none => false
    if held && o.done = 0 && o.flying = 0 then none else some (n, o)

/-- A tile unit performs its next command, or a piece of it. -/
def State.tileStep (s : State) (core : Coord) : State :=
  match s.tileNext core with
  | none => s
  | some (n, o) =>
    match o.body with
    | .tldb spc na base d sel => s.performTldb n o spc na base d sel
    | .tlda spc na base d sel => s.performTlda n o spc na base d sel
    | .tldaq reg queue d => s.performTldaq n o reg queue d
    | .tmma w => s.performTmma n o w
    | .tzero w => s.performTzero n o w
    | .tget _ => s.endOp n (.resolved 0)
    | .tstor spc na base d sel => s.performTstor n o spc na base d sel
    | _ => s

/-- TILE_COMMAND_PERFORM. -/
def execTileCommandPerform (core : Coord) (s : State) : Host.Outcome State Fault Refusal := eventM (fun s => s.tileStep core) s

end Sys2Proof.Machine
end

