-- ==== Sys2Proof/Machine/Fabric.lean ====
section
/-! DEFINITION. What operators do with their entries: SEQ, REF, PUT, FORK, JOIN, ZIP, REDUCE, FILTER, CONVERT, BRIDGE
(R424 to R434, R438), and the frame of their actions. -/

namespace Sys2Proof.Machine

/-! ## Ports (R420, R424 to R427) -/

/-- What an attempt at an action gives. -/
inductive Act where
  | done (s : State)
  /-- No input entry to act on. -/
  | noInput
  /-- An output without credit. -/
  | noCredit
  /-- No action, but a walk is asked for (R43). -/
  | waits (s : State)
  /-- Nothing to do for another reason. -/
  | idle
  deriving DecidableEq, Repr

/-- The queue of an input port. -/
def State.inQueue (s : State) (o : Opr) (port : Nat) : Option (Nat × Queue) :=
  match o.ins.look port with
  | none => none
  | some n => (s.queue? n).map fun q => (n, q)

/-- The next entry of a queue lies behind a join that has not resolved: it was pushed later, and waits (R194). -/
def State.behindJoin (s : State) (n : Nat) (q : Queue) : Bool :=
  s.ops.any fun (e : Nat × EngOp) => match e.2.body with
    | .join _ streams _ => streams.any fun m => m.1 == n && m.2 ≤ q.taken
    | _ => false

/-- The head entry of an input port; a fault marker is no operation of a stream, and waits for no join. -/
def State.inHead (s : State) (o : Opr) (port : Nat) : Option Entry :=
  match s.inQueue o port with
  | none => none
  | some (n, q) =>
    match q.head with
    | none => none
    | some e => if !e.fmark && s.behindJoin n q then none else some e

/-- The knowledge with which the head of an input port was pushed (R425). -/
def State.inKnow (s : State) (o : Opr) (port : Nat) : Carrier :=
  match s.inQueue o port with
  | none => .empty
  | some (_, q) => q.headKnow

/-- Takes the head of an input port. -/
def State.takeIn (s : State) (k port : Nat) : State :=
  match s.oprs.look k with
  | none => s
  | some o =>
    match o.ins.look port with
    | none => s
    | some n =>
      let s := s.updQueue n fun q => ({ q with carrier := .empty } : Queue).drop1
      s.updOpr k fun o => { o with items := o.items + 1 }

/-- Credits of an output port suffice for some entries. -/
def State.hasRoom (s : State) (o : Opr) (port n : Nat) : Bool :=
  match o.outs.look port with
  | none => false
  | some m =>
    match s.queue? m with
    | none => false
    | some q => q.canPush n

/-- Pushes an entry to an output port, with the knowledge of the entries it was made from (R425). -/
def State.pushOut (s : State) (k port : Nat) (e : Entry) (c : Carrier) : State :=
  match s.oprs.look k with
  | none => s
  | some o =>
    match o.outs.look port with
    | none => s
    | some n => s.updQueue n fun q => q.pushMerged e c

/-- QCUE: the entries stay at the heads of their inputs (R426). -/
def State.oprCue (s : State) (k : Nat) : State := s.raiseOpr k .qcue 0 0 false

/-- A fault marker reaches the consumer of an output's queue (R163, R426). -/
def State.markOut (s : State) (n : Nat) (core : Coord) : State :=
  match s.queue? n with
  | none => s
  | some q =>
    let s := s.updQueue n fun q => if q.marker.isSome then q else { q with marker := some (core, q.pushed) }
    s.setFenced q.cons core

/-- A fault marker is taken from an input and passed to every output; the operator is faulted (R426). -/
def State.passMarker (s : State) (k port : Nat) (e : Entry) : State :=
  match s.oprs.look k with
  | none => s
  | some o =>
    let core : Coord := e.payload.setWidth 16
    let s := s.takeIn k port
    let s := o.outs.foldl (fun (s : State) (p : Nat × Nat) => s.markOut p.2 core) s
    s.raiseOpr k .neighbourFenced 0 0 false

/-! ## SEQ (R428) -/

/-- Dimensions of a SEQ. -/
def Opr.dims (o : Opr) : Nat := if o.field 8 0 3 = 0 then 1 else o.field 8 0 3

/-- COUNT of a dimension. -/
def Opr.seqCount (o : Opr) (k : Nat) : Nat := o.field (10 + k) 0 32

/-- STEP of a dimension. -/
def Opr.seqStep (o : Opr) (k : Nat) : Int := ((o.preg (10 + k)).extractLsb' 32 32).toInt

/-- A cue or end of stream without a payload. -/
def cueEntry (kind : Nat) (payload : Vec) (tag : BitVec 24) : Entry := { payload, kind := Fin.ofNat 8 kind, fmark := false, tag }

/-- A data entry. -/
def dataEntry (payload : Vec) (tag : BitVec 24) : Entry := { payload, kind := 0, fmark := false, tag }

/-- Dimensions from the innermost that are at their last value. -/
def Opr.seqLast (o : Opr) (l : List (Nat × Nat)) : Nat :=
  match l with
  | [] => 0
  | (k, i) :: r => if i + 1 = o.seqCount k then o.seqLast r + 1 else 0

/-- The next item: its entries, the indices after it, and whether it was the last. -/
def Opr.seqNext (o : Opr) : Opr :=
  let d := o.dims
  let eos : List Entry := if o.preg 8 &&& 8 ≠ 0 then [cueEntry 7 0 0] else []
  if (List.range d).any fun k => o.seqCount k == 0 then { o with seqOut := eos, seqDone := true }
  else
    let i := if o.idx = [] then List.replicate d 0 else o.idx
    let v := (i.zipIdx.map fun (e : Nat × Nat) => (e.1 : Int) * o.seqStep e.2).foldl (fun (a b : Int) => a + b) (o.preg 9).toNat
    let data := dataEntry ((BitVec.ofInt 64 v).setWidth 256) 0
    let h := o.seqLast (i.zipIdx.map fun (e : Nat × Nat) => (e.2, e.1))
    if h = d then
      { o with idx := i, seqDone := true, seqOut := data :: (if 2 ≤ d then [cueEntry (min (d - 1) 6) 0 0] else []) ++ eos }
    else
      { o with idx := i.zipIdx.map (fun (e : Nat × Nat) => if e.2 < h then 0 else if e.2 = h then e.1 + 1 else e.1),
               seqOut := data :: (if 1 ≤ h then [cueEntry h 0 0] else []) }

/-- A SEQ has ended: it stops, and starts anew at the next START. -/
def Opr.seqStop (o : Opr) : Opr := { o with state := .stopped, idx := [], seqDone := false, seqOut := [] }

/-- One action of SEQ: one entry. -/
def State.actSeq (s : State) (k : Nat) (o : Opr) : Act :=
  let o := if o.seqOut = [] ∧ !o.seqDone then o.seqNext else o
  match o.seqOut with
  | [] => .done (s.updOpr k fun _ => o.seqStop)
  | e :: r =>
    if !s.hasRoom o 16 1 then .noCredit
    else
      let o := { o with seqOut := r, items := o.items + 1 }
      let o := if r = [] ∧ o.seqDone then o.seqStop else if r = [] ∧ o.stopping then { o with state := .stopped } else o
      .done ((s.updOpr k fun _ => o).pushOut k 16 e .empty)

/-! ## Memory of REF and PUT (R425, R429, R430) -/

/-- Bytes of an element. -/
def Opr.esize (o : Opr) : Nat := [1, 2, 4, 8, 32].getD (o.field 9 0 3) 32

/-- The address of an index. -/
def Opr.elemVa (o : Opr) (x : Word) : Nat :=
  let i : Int := if o.field 9 3 1 = 1 then x.toInt else (x.toNat : Int)
  ((((o.preg 8).toNat : Int) + i * (o.preg 10).toInt) % 2 ^ 56).toNat

/-- Why an operator's access to an address does not perform: a fault that stops it, one that stalls it, a write of its own that is held,
or a walk that an address needs. -/
inductive ElemStop where
  | fault (code : FaultCode) (tval : Word) (va : Nat)
  | stall (code : FaultCode) (tval : Word) (va : Nat)
  | wait
  | miss (va : Nat)
  deriving DecidableEq, Repr

/-- A fault of a translation stalls an operator, a soft error stops it (R429). -/
def elemStopOf (code : FaultCode) (tval : Word) (va : Nat) : ElemStop :=
  if code = .sramEcc then .fault code tval va else .stall code tval va

/-- As what an operator's accesses record: its stage, with the count 0xFFFF (R425). -/
def Opr.stamper (o : Opr) : Stamper := { lnch := o.launch, tag := o.stage, cnt := 0xFFFF, bh := 0, be := 0 }

/-- Translates the pieces of an element. -/
def State.elemPlaces (s : State) (k : Nat) (o : Opr) (write : Bool) (l : List (Nat × Nat × Nat)) : Except ElemStop (List Place) × State :=
  match l with
  | [] => (.ok [], s)
  | (off, va, len) :: r =>
    match s.engineTranslate (.opr k o.cache) o.cache o.pnum va write with
    | (.fault c t, s) => (.error (elemStopOf c t va), s)
    | (.miss, s) => (.error (.miss va), s)
    | (.leaf leaf, s) =>
      match s.elemPlaces k o write r with
      | (.error e, s) => (.error e, s)
      | (.ok ps, s) => (.ok ({ placeUnder leaf va with off, len } :: ps), s)

/-- Records an access of an operator in the stamp of its line, unless its leaf says device (R196, R425). -/
def State.elemStamp (s : State) (o : Opr) (write : Bool) (p : Place) : State :=
  if p.homed && leafPolicy p.leaf.entry != 3 then
    s.stamp p.pa o.stamper { mask := byteMask (p.pa % 64) p.len, write, sync := false }
  else s

/-- Performs an access of an operator at a place, but for its data. -/
def State.elemTouch (s : State) (o : Opr) (na write : Bool) (p : Place) : State :=
  (if p.homed then s.ensureLine p.leaf.entry p.home p.pa na o.pnum p.va else s).elemStamp o write p

/-- Readies an access to n bytes of an element (R429, R430). -/
def State.elemReady (s : State) (k : Nat) (o : Opr) (n va : Nat) (write : Bool) : Except ElemStop (List Place) × State :=
  if n ≤ 8 ∧ va % n ≠ 0 then (.error (.fault .align (BitVec.ofNat 64 va) va), s)
  else
    match s.elemPlaces k o write (linePieces 0 va n) with
    | (.error e, s) => (.error e, s)
    | (.ok ps, s) =>
      let split := match ps with
        | [a, b] => a.va / 2 ^ 16 != b.va / 2 ^ 16 && leavesDiffer a.leaf.entry b.leaf.entry
        | _ => false
      if split then (.error (.fault .pageSplit (BitVec.ofNat 64 va) va), s)
      else
        match ps.findSome? fun p => (s.placeFault false p write).map fun f => (f, p.va) with
        | some ((c, t), va) => (.error (elemStopOf c t va), s)
        | none => (.ok ps, s)

/-- The read of an element, whose size and allocation stand with its index: its value. -/
def State.elemRead (s : State) (k : Nat) (o : Opr) (r : RefSlot) : Except ElemStop Vec × State :=
  match s.elemReady k o r.esize r.va false with
  | (.error e, s) => (.error e, s)
  | (.ok ps, s) =>
    let s := ps.foldl (fun (s : State) p => s.elemTouch o r.na false p) s
    (.ok (BitVec.ofNat 256 (leValue (ps.flatMap s.placeBytes))), s)

/-- NA of REF and PUT. -/
def Opr.elemNa (o : Opr) : Bool := o.field 9 4 1 = 1

/-- A write of PUT waits for its earlier writes that are held, but for those under the same page's write-block, behind which it is held too
(R430; DESIGN CHOICE, log entry 130). -/
def State.behindPut (s : State) (k : Nat) (o : Opr) (p : Place) : Bool :=
  s.held.any fun e => e.2.ofOpr k o.launch && e.2.pnum == o.pnum && !(leafWb p.leaf.entry && e.2.va / 2 ^ 16 == p.va / 2 ^ 16)

/-- A write of an operator is held under write-block at the home of its line (R101). -/
def State.elemHold (s : State) (k : Nat) (o : Opr) (d : List Byte) (p : Place) : State :=
  (s.elemStamp o true p).hold o.cache
    { by_ := .opr k o.launch o.nth, key := 0, gtid := 0, pnum := o.pnum, cl := o.cl, core := clusterCoord o.cl, homeCl := o.cl,
      company := o.company, walking := none, ready := none, digest := 0, home := p.home, va := p.va, leaf := p.leaf, data := d,
      na := o.elemNa, stamper := some o.stamper, sync := false, fence := false, release := none }

/-- The write of an element: performed, or held under write-block (R101, R430). -/
def State.elemWrite (s : State) (k : Nat) (o : Opr) (va : Nat) (v : Vec) : Except ElemStop Unit × State :=
  match s.elemReady k o o.esize va true with
  | (.error e, s) => (.error e, s)
  | (.ok ps, s) =>
    if ps.any (s.behindPut k o) then (.error .wait, s)
    else
      let d := leBytes o.esize v.toNat
      (.ok (), ps.foldl (fun (s : State) p =>
        let b := slice d p.off p.len
        if leafWb p.leaf.entry then s.elemHold k o b p else (s.elemTouch o o.elemNa true p).placeWrite p b) s)

/-- What a stop of an access makes of an operator. -/
def State.elemStop (s : State) (k : Nat) (o : Opr) (write : Bool) (e : ElemStop) : State :=
  match e with
  | .fault c t va => s.raiseOpr k c t va false
  | .stall c t va => s.raiseOpr k c t va true
  | .wait => s
  | .miss va => s.engineMiss (.opr k o.cache) o.cache o.pnum va write

/-! ## REF (R429) -/

/-- REF takes an input entry, unless it is stalled, stops, retries or has 64 reads outstanding. -/
def State.refTake (s : State) (k : Nat) (o : Opr) (credit : Bool) : Act :=
  match s.inHead o 0 with
  | none => if credit then .noInput else .noCredit
  | some e =>
    if o.state ≠ .running ∨ o.stopping ∨ o.retrying ∨ 64 ≤ o.outstanding ∨ (e.fmark ∧ !o.slots.isEmpty) then
      if credit then .idle else .noCredit
    else if e.fmark then .done (s.passMarker k 0 e)
    else
      let slot : RefSlot :=
        { va := o.elemVa (e.payload.setWidth 64), esize := o.esize, na := o.elemNa, entry := e, know := s.inKnow o 0, done := e.kind != 0 }
      .done ((s.takeIn k 0).updOpr k fun o => { o with slots := o.slots ++ [slot] })

/-- What a REF keeps when its oldest value or cue has been pushed: one that stops is stopped with the last of what it has taken (R377). -/
def Opr.refPushed (o : Opr) : Opr :=
  let o := { o with slots := o.slots.tail }
  if o.stopping && o.slots.isEmpty then { o with state := .stopped, stopping := false } else o

/-- One action of REF: the oldest value or cue is pushed, else an input entry is taken. -/
def State.actRef (s : State) (k : Nat) (o : Opr) : Act :=
  match o.slots.head? with
  | some r =>
    if r.done then
      if s.hasRoom o 16 1 then .done ((s.updOpr k Opr.refPushed).pushOut k 16 r.entry r.know)
      else s.refTake k o false
    else s.refTake k o true
  | none => s.refTake k o true

/-- Slots of the reads that are outstanding, oldest first. -/
def Opr.pendingSlots (o : Opr) : List Nat := (List.range o.slots.length).filter fun i => (o.slots[i]?).any fun r => !r.done

/-- The read that is next in order (R192): the oldest, and while REF is stalled the one behind the read that faulted (R429). -/
def Opr.nextRead (o : Opr) : Option Nat := if o.state = .stalled then o.pendingSlots[1]? else o.pendingSlots.head?

/-- A read of REF returns, or stalls or faults it; one behind a read that has faulted faults when its turn comes. -/
def State.refReturn (s : State) (k index : Nat) : State :=
  match s.oprs.look k with
  | none => s
  | some o =>
    match o.slots[index]? with
    | none => s
    | some r =>
      if o.kind != .ref || !(o.state == .running || o.state == .stalled) || o.nextRead != some index then s
      else
        match s.elemRead k o r with
        | (.error (.miss va), _) => s.elemStop k o false (.miss va)
        | (.error e, t) => if o.state = .stalled then s else (t.elemStop k o false e).updOpr k fun o => { o with retrying := false }
        | (.ok v, s) =>
          s.updOpr k fun o =>
            { o with slots := o.slots.set index { r with entry := dataEntry v r.entry.tag, done := true }, retrying := false }

/-! ## PUT (R430) -/

/-- A fault marker at the head of one of two inputs, the first one's first. -/
def markerOf (a b : Option Entry) : Option (Nat × Entry) :=
  match a.filter Entry.fmark with
  | some e => some (0, e)
  | none => (b.filter Entry.fmark).map fun e => (1, e)

/-- One action of PUT. -/
def State.actPut (s : State) (k : Nat) (o : Opr) : Act :=
  let seq := o.field 9 5 1 = 1
  match markerOf (if seq then none else s.inHead o 0) (s.inHead o 1) with
  | some (i, e) => .done (s.passMarker k i e)
  | none => match s.inHead o 1, (if seq then s.inHead o 1 else s.inHead o 0) with
  | some e1, some e0 =>
    if e0.kind = 0 ∧ e1.kind = 0 then
      let x : Word := if seq then BitVec.ofNat 64 o.nth else e0.payload.setWidth 64
      match s.elemWrite k o (o.elemVa x) e1.payload with
      | (.error .wait, _) => .idle
      | (.error (.miss va), _) => .waits (s.elemStop k o true (.miss va))
      | (.error e, s) => .done (s.elemStop k o true e)
      | (.ok _, s) =>
        let s := if seq then s else s.takeIn k 0
        .done ((s.takeIn k 1).updOpr k fun o => { o with nth := o.nth + 1 })
    else if e0.kind ≠ e1.kind then .done (s.oprCue k)
    else if !(s.heldItems k o).isEmpty then .idle
    else if !s.hasRoom o 16 1 then .noCredit
    else
      let c := if seq then s.inKnow o 1 else (s.inKnow o 0).join (s.inKnow o 1)
      let s := if seq then s else s.takeIn k 0
      .done ((s.takeIn k 1).pushOut k 16 e1 c)
  | _, _ => .noInput

/-! ## FORK, ZIP and JOIN (R431) -/

/-- One action of FORK. -/
def State.actFork (s : State) (k : Nat) (o : Opr) : Act :=
  match s.inHead o 0 with
  | none => .noInput
  | some e =>
    let outs := (List.range (o.field 8 0 3)).map (· + 16)
    if e.fmark then .done (s.passMarker k 0 e)
    else if !outs.all fun p => s.hasRoom o p 1 then .noCredit
    else
      let c := s.inKnow o 0
      .done (outs.foldl (fun (s : State) p => s.pushOut k p e c) (s.takeIn k 0))

/-- One action of ZIP. -/
def State.actZip (s : State) (k : Nat) (o : Opr) : Act :=
  match markerOf (s.inHead o 0) (s.inHead o 1) with
  | some (i, e) => .done (s.passMarker k i e)
  | none => match s.inHead o 0, s.inHead o 1 with
  | some a, some b =>
    if a.kind ≠ b.kind then .done (s.oprCue k)
    else if !s.hasRoom o 16 1 then .noCredit
    else
      let v : Vec := if a.kind = 0 then BitVec.ofNat 256 (a.payload.toNat % 2 ^ 64 + b.payload.toNat % 2 ^ 64 * 2 ^ 64) else a.payload
      .done (((s.takeIn k 0).takeIn k 1).pushOut k 16 { a with payload := v } ((s.inKnow o 0).join (s.inKnow o 1)))
  | _, _ => .noInput

/-- An input port's queue carries 32-byte payloads. -/
def State.inWide (s : State) (o : Opr) (port : Nat) : Bool := (s.inQueue o port).any fun e => e.2.wide

/-- A log event of an operator for an entry of an 8-byte or a 32-byte queue (R503, R504). -/
def Opr.logEvent (o : Opr) (wide : Bool) (ty : Nat) (e : Entry) (arg value : Nat) : LogEvent :=
  { ty, die := o.cl / 24, gtid := 0, digest := crc64 (e.digestBytes wide), coord := clusterCoord o.cl,
    arg := o.tile.val * 4 + o.vslot.val + arg * 16, value }

/-- Logs a choice that has been made. -/
def State.oprLog (s : State) (o : Opr) (e : LogEvent) : State := (s.logged o.pnum o.launch e).2

/-- Enabled inputs of a JOIN, from the one after the last choice on. -/
def Opr.joinOrder (o : Opr) : List Nat :=
  ((List.range 4).map fun i => (o.lastIn + i) % 4).filter fun i => (o.preg 8).getLsbD i

/-- JOIN takes a data entry from an input. -/
def State.joinTake (s : State) (k : Nat) (o : Opr) (i : Nat) (e : Entry) : Act :=
  if !s.hasRoom o 16 1 then .noCredit
  else .done ((((s.oprLog o (o.logEvent (s.inWide o i) 3 e i 0)).takeIn k i).updOpr k fun o => { o with lastIn := (i + 1) % 4 }).pushOut k 16 e (s.inKnow o i))

/-- One action of JOIN. -/
def State.actJoin (s : State) (k : Nat) (o : Opr) : Act :=
  let ins := o.joinOrder
  let heads := ins.map fun i => (i, s.inHead o i)
  match heads.findSome? fun h => match h.2 with
    | some e => if e.fmark then some (h.1, e) else none
    | none => none with
  | some (i, e) => .done (s.passMarker k i e)
  | none =>
    let data := heads.findSome? fun h => match h.2 with
      | some e => if e.kind = 0 then some (h.1, e) else none
      | none => none
    let cues := heads.filterMap fun h => match h.2 with
      | some e => if e.kind = 0 then none else some e
      | none => none
    match data with
    | some (i, e) =>
      let ev := o.logEvent (s.inWide o i) 3 e i 0
      if s.modeOf o.pnum o.launch = 2 then
        match s.nextLog o.pnum o.launch ev with
        | (none, s) => .done (s.diverge o.pnum o.launch ev 0)
        | (some (n, r), s) =>
          let j := r.arg / 16 % 4
          match s.inHead o j with
          | none => .noInput
          | some f =>
            let ev := o.logEvent (s.inWide o j) 3 f j 0
            if f.kind ≠ 0 ∨ r.ty ≠ 3 ∨ r.digest ≠ ev.digest then .done (s.diverge o.pnum o.launch ev n) else s.joinTake k o j f
      else s.joinTake k o i e
    | none =>
      if cues.length < ins.length then .noInput
      else
        match cues with
        | [] => .noInput
        | e :: r =>
          if r.any fun f => f.kind != e.kind then .done (s.oprCue k)
          else if !s.hasRoom o 16 1 then .noCredit
          else
            let c := ins.foldl (fun (c : Carrier) i => c.join (s.inKnow o i)) .empty
            .done ((ins.foldl (fun (s : State) i => s.takeIn k i) s).pushOut k 16 e c)

/-! ## REDUCE, FILTER and CONVERT (R432 to R434) -/

/-- A comparison of two FP32 values that may be NaN. -/
def numEq (a b : Num) : Bool :=
  match a, b with
  | .nan, _ => false
  | _, .nan => false
  | _, _ => !a.lt b && !b.lt a

/-- The accumulator of REDUCE with one more entry. -/
def Opr.reduceStep (o : Opr) (x : Nat) : Word :=
  let acc := o.accNow.toNat % 2 ^ 32
  let op := o.field 8 0 2
  let sat := o.field 8 11 1 = 1
  let rnd := rndOf (BitVec.ofNat 2 (o.field 8 9 2))
  if o.field 8 2 4 = 0 then
    let a := decodeFloat fp32 acc
    let b := decodeFloat fp32 x
    let r := if op = 0 then a.add rnd b else if op = 1 then a.min b else a.max b
    BitVec.ofNat 64 (if op = 0 then roundFloat fp32 rnd sat r else roundFloat fp32 .rne sat r)
  else
    let a := signedOf 32 acc
    let b := signedOf 32 x
    BitVec.ofNat 64 (if op = 0 then fitInt 32 sat (a + b) else fitInt 32 false (if op = 1 then min a b else max a b))

/-- One action of REDUCE: a group's end pushes the result and the cue. -/
def State.actReduce (s : State) (k : Nat) (o : Opr) : Act :=
  match s.inHead o 0 with
  | none => .noInput
  | some e =>
    if e.fmark then .done (s.passMarker k 0 e)
    else if e.kind = 0 then
      .done ((s.takeIn k 0).updOpr k fun o =>
        { o with acc := o.reduceStep (e.payload.toNat % 2 ^ 32), nth := o.nth + 1, know := o.know.join (s.inKnow o 0) })
    else if e.kind.val < o.field 8 6 3 then .done (s.takeIn k 0)
    else if !s.hasRoom o 16 2 then .noCredit
    else
      let c := s.inKnow o 0
      let s := (s.takeIn k 0).updOpr k fun o => { o with nth := 0, acc := 0, know := .empty }
      .done ((s.pushOut k 16 (dataEntry (o.accNow.setWidth 256) e.tag) o.know).pushOut k 16 e c)

/-- The comparison of FILTER. -/
def Opr.filterPass (o : Opr) (v : Vec) : Bool :=
  let x : Word := v.setWidth 64
  let c := o.preg 32
  let cmp := o.field 8 0 3
  if cmp = 4 then x &&& c != 0
  else if cmp = 5 then x &&& c == 0
  else if o.field 8 3 1 = 1 then
    let a := decodeFloat fp32 (x.toNat % 2 ^ 32)
    let b := decodeFloat fp32 (c.toNat % 2 ^ 32)
    let ordered := a != Num.nan && b != Num.nan
    if cmp = 0 then a.lt b else if cmp = 1 then ordered && !a.lt b else if cmp = 2 then numEq a b else !numEq a b
  else if cmp = 0 then x.slt c
  else if cmp = 1 then !x.slt c
  else if cmp = 2 then x == c
  else x != c

/-- One action of FILTER. -/
def State.actFilter (s : State) (k : Nat) (o : Opr) : Act :=
  match s.inHead o 0 with
  | none => .noInput
  | some e =>
    if e.fmark then .done (s.passMarker k 0 e)
    else if e.kind = 0 ∧ !o.filterPass e.payload then
      .done ((s.takeIn k 0).updOpr k fun o => { o with drops := if o.drops = 0xFFFFFFFFFFFFFFFF then o.drops else o.drops + 1 })
    else if !s.hasRoom o 16 1 then .noCredit
    else .done ((s.takeIn k 0).pushOut k 16 e (s.inKnow o 0))

/-- The payload that CONVERT makes, and the magnitudes it folds into AMAX; an infinite one is bound by its SAT, DEDUCED (R133, log entry
114). -/
def Opr.converted (o : Opr) (v : Vec) : Vec × BitVec 32 :=
  let src := o.field 8 0 4
  let dst := o.field 8 4 4
  let rnd := rndOf (BitVec.ofNat 2 (o.field 8 8 2))
  let sat := o.field 8 10 1 = 1
  (packWith (fmtWidth dst) (min (fmtCount src) (fmtCount dst)) fun i => convertNum src dst rnd sat (elem src v i),
   BitVec.ofNat 32 ((List.range (fmtCount src)).foldl (fun (a : Nat) i => amaxBits sat a (elem src v i)) o.amax.toNat))

/-- One action of CONVERT. -/
def State.actConvert (s : State) (k : Nat) (o : Opr) : Act :=
  match s.inHead o 0 with
  | none => .noInput
  | some e =>
    if e.fmark then .done (s.passMarker k 0 e)
    else if !s.hasRoom o 16 1 then .noCredit
    else if e.kind ≠ 0 then .done ((s.takeIn k 0).pushOut k 16 e (s.inKnow o 0))
    else
      let (v, a) := o.converted e.payload
      .done (((s.takeIn k 0).updOpr k fun o => { o with amax := a }).pushOut k 16 { e with payload := v } (s.inKnow o 0))

/-! ## BRIDGE (R438) -/

/-- The operator that PCORE and PTV of a BRIDGE name. -/
def Opr.peerKey (o : Opr) : Nat :=
  oprKey (clusterOf (BitVec.ofNat 16 (o.field 8 16 16))) (Fin.ofNat 4 (o.field 8 34 2)) (Fin.ofNat 4 (o.field 8 32 2))

/-- The receiving end to which a sending one sends: a BRIDGE of its launch with the opposite END, on another die. -/
def State.receiverOf (s : State) (o : Opr) : Option (Nat × Opr) :=
  match s.oprs.look o.peerKey with
  | none => none
  | some r =>
    if r.kind = .bridge ∧ r.field 8 0 1 = 1 ∧ r.pnum = o.pnum ∧ r.launch = o.launch ∧ r.cl / 24 ≠ o.cl / 24 then some (o.peerKey, r) else none

/-- The receiving end's ring and extension have room for one entry more than is on the wire. -/
def State.bridgeRoom (s : State) (r : Opr) : Bool := s.hasRoom r 16 (r.wire.length + 1)

/-- An entry is on its way to a receiving end. -/
def State.wireTo (s : State) (p : Nat) (e : Entry) (c : Carrier) : State := s.updOpr p fun r => { r with wire := r.wire ++ [(e, c)] }

/-- The sending end takes an entry and sends it. -/
def State.actSend (s : State) (k : Nat) (o : Opr) : Act :=
  if o.field 8 0 1 = 1 then .idle
  else
    match s.inHead o 0, s.receiverOf o with
    | none, _ => .noInput
    | some _, none => .noCredit
    | some e, some (p, r) =>
      if e.fmark then .done (((s.takeIn k 0).wireTo p e .empty).raiseOpr k .neighbourFenced 0 0 false)
      else if !s.bridgeRoom r then .noCredit
      else .done ((s.takeIn k 0).wireTo p e (s.inKnow o 0))

/-- The receiving end pushes the oldest entry on the wire. -/
def State.actReceive (s : State) (k : Nat) (o : Opr) : Act :=
  if o.field 8 0 1 = 0 then .idle
  else
    match o.wire with
    | [] => .noInput
    | (e, c) :: rest =>
      let s := s.updOpr k fun o => { o with wire := rest, items := o.items + 1 }
      if e.fmark then
        let core : Coord := e.payload.setWidth 16
        let s := match o.outs.look 16 with
          | none => s
          | some n => s.markOut n core
        .done (s.raiseOpr k .neighbourFenced 0 0 false)
      else if !s.hasRoom o 16 1 then .noCredit
      else .done (s.pushOut k 16 e c)

/-! ## The frame of an action (R423, R424) -/

/-- The present cycle gives an operator an action slot (R424). -/
def State.oprTurn (s : State) (o : Opr) : Bool := s.cycle % (o.fold.val + 1) == o.vslot.val

/-- An attempted action of an operator of a kind in a state that acts, in an action slot that it has not used; the cluster counts it
(R424, R482). -/
def State.oprStep (s : State) (k : Nat) (kind : OprKind) (act : State → Nat → Opr → Act) : State :=
  match s.oprs.look k with
  | none => s
  | some o =>
    if o.kind = kind ∧ (o.state = .running ∨ (kind = .ref ∧ o.state = .stalled)) ∧ s.oprTurn o ∧ o.actedAt ≠ s.cycle + 1 then
      match act s k o with
      | .done t => (t.updOpr k fun o => { o with actedAt := s.cycle + 1 }).countCluster o.cl 12 0
      | .waits t => t
      | _ => s
    else s

/-- SEQ_ACTION. -/
def execSeqAction (k : Nat) (s : State) : Host.Outcome State Fault Refusal := eventM (fun s => s.oprStep k .seq State.actSeq) s
/-- REF_ACTION. -/
def execRefAction (k : Nat) (s : State) : Host.Outcome State Fault Refusal := eventM (fun s => s.oprStep k .ref State.actRef) s
/-- REF_READ_RETURN. -/
def execRefReadReturn (k index : Nat) (s : State) : Host.Outcome State Fault Refusal := eventM (fun s => s.refReturn k index) s
/-- PUT_ACTION. -/
def execPutAction (k : Nat) (s : State) : Host.Outcome State Fault Refusal := eventM (fun s => s.oprStep k .put State.actPut) s
/-- FORK_ACTION. -/
def execForkAction (k : Nat) (s : State) : Host.Outcome State Fault Refusal := eventM (fun s => s.oprStep k .fork State.actFork) s
/-- JOIN_ACTION. -/
def execJoinAction (k : Nat) (s : State) : Host.Outcome State Fault Refusal := eventM (fun s => s.oprStep k .join State.actJoin) s
/-- ZIP_ACTION. -/
def execZipAction (k : Nat) (s : State) : Host.Outcome State Fault Refusal := eventM (fun s => s.oprStep k .zip State.actZip) s
/-- REDUCE_ACTION. -/
def execReduceAction (k : Nat) (s : State) : Host.Outcome State Fault Refusal := eventM (fun s => s.oprStep k .reduce State.actReduce) s
/-- FILTER_ACTION. -/
def execFilterAction (k : Nat) (s : State) : Host.Outcome State Fault Refusal := eventM (fun s => s.oprStep k .filter State.actFilter) s
/-- CONVERT_ACTION. -/
def execConvertAction (k : Nat) (s : State) : Host.Outcome State Fault Refusal := eventM (fun s => s.oprStep k .convert State.actConvert) s
/-- BRIDGE_SEND. -/
def execBridgeSend (k : Nat) (s : State) : Host.Outcome State Fault Refusal := eventM (fun s => s.oprStep k .bridge State.actSend) s
/-- BRIDGE_RECEIVE. -/
def execBridgeReceive (k : Nat) (s : State) : Host.Outcome State Fault Refusal := eventM (fun s => s.oprStep k .bridge State.actReceive) s

end Sys2Proof.Machine
end

