-- ==== Sys2Proof/Machine/Dist.lean ====
section
/-! DEFINITION. Replicas, DIST and COLLECT (R141, R222, R228, R229, R299, R420, R435 to R437). -/

namespace Sys2Proof.Machine

/-! ## Replicas (R222, R228, R299, R420) -/

/-- The end of a queue that a stage task holds is bound to its register; a consumer end that a task has left keeps its entries. -/
def Queue.bindStage (q : Queue) (prod : Bool) (k : Nat) (r : Fin 16) : Queue :=
  if prod then { q with prod := .task k r }
  else match q.cons with
    | .exited _ => { q with cons := .task k r }
    | _ => q.bindCons k r q.place

/-- Binds a register of a task to an end of a queue. -/
def State.bindReg (s : State) (k : Nat) (r : Fin 16) (n : Nat) (prod : Bool) : State :=
  (s.updQueue n fun q => q.bindStage prod k r).updCtx k fun x =>
    { x with qregs := x.qregs.set r { QReg.unbound with bound := some (n, prod) } }

/-- A stage task starts in a slot, with the queue ends of its replica number (R222, R299). DESIGN CHOICE (log entry 118): no image id is
compared, so a replica takes no OVERLAY on its start. One of a suspended company is suspended with it (R240). -/
def State.startReplica (s : State) (key stage replica : Nat) (core : Coord) (slot : Nat) : State :=
  match s.launches.look key with
  | none => s
  | some l =>
    match l.stages[stage]? with
    | none => s
    | some st =>
      let (index, s) := s.nextIndex core key false
      let gtid := makeGtid l.pnum l.number index
      let g : Vector Vec 16 := Vector.ofFn fun (i : Fin 16) => st.init.getD i.val 0
      let img := BitVec.ofNat 16 st.img
      let x := { newTask gtid core slot img (BitVec.ofNat 4 st.company) true (BitVec.ofNat 32 st.entry) g with
                 pinned := true, arriving := false, xb := (s.coreAt core).xb, readyAt := s.cycle }
      let k := s.fresh
      let s := { s with fresh := k + 1, ctxs := s.ctxs.put k { x with suspended := s.stopped x } }
      let s := s.trace core l.pnum 3 gtid st.entry (core.setWidth 64)
      l.reps.foldl (fun (s : State) (r : RepQueue) =>
        if r.stage = stage then
          match r.queues[replica]? with
          | none => s
          | some n => s.bindReg k r.reg n r.prod
        else s) s

/-- A replica number of a stage is free: no task holds its queue ends. -/
def State.replicaFree (s : State) (l : Launch) (stage replica : Nat) : Bool :=
  l.reps.all fun r => r.stage != stage ||
    (match (r.queues[replica]?).bind s.queue? with
     | none => true
     | some q => match (if r.prod then q.prod else q.cons) with
       | .task .. => false
       | _ => true)

/-! ## DIST (R435) -/

/-- The COLLECT with which a DIST is paired. -/
def Opr.collectKey (o : Opr) : Nat :=
  oprKey (clusterOf (BitVec.ofNat 16 (o.field 8 24 16))) (Fin.ofNat 4 (o.field 8 42 2)) (Fin.ofNat 4 (o.field 8 40 2))

/-- Staged entries of a replica with their knowledge, oldest first. -/
def Opr.stagedKnown (o : Opr) (k : Nat) : List (Entry × Carrier) := o.staging.getD k []

/-- Staged entries of a replica, oldest first. -/
def Opr.staged (o : Opr) (k : Nat) : List Entry := (o.stagedKnown k).map Prod.fst

/-- The load of a replica: staged entries, and queue entries not yet popped. -/
def State.load (s : State) (o : Opr) (k : Nat) : Nat :=
  (o.staged k).length +
    (match (o.outs.look (16 + k)).bind s.queue? with
     | none => 0
     | some q => q.capacity - q.credits)

/-- Live replicas, in ascending order. -/
def Opr.liveList (o : Opr) : List Nat := (List.range 16).filter o.live.getLsbD

/-- The first number of a list with the least value. -/
def leastOf (f : Nat → Nat) (l : List Nat) : Option Nat :=
  l.foldl (fun (acc : Option Nat) i => match acc with
    | none => some i
    | some j => if f i < f j then some i else some j) none

/-- The first number of a list with the greatest value. -/
def mostOf (f : Nat → Nat) (l : List Nat) : Option Nat :=
  l.foldl (fun (acc : Option Nat) i => match acc with
    | none => some i
    | some j => if f j < f i then some i else some j) none

/-- Stages an entry for a replica, with the knowledge it came with. -/
def Opr.stageEntry (o : Opr) (k : Nat) (e : Entry) (c : Carrier) : Opr :=
  { o with staging := o.staging.put k (o.stagedKnown k ++ [(e, c)]) }

/-- DIST sends its COLLECT, where it has one, a record. -/
def State.sendRec (s : State) (o : Opr) (r : ColRec) : State :=
  if o.partner.isNone then s else s.updOpr o.collectKey fun c => { c with recs := c.recs ++ [r] }

/-- The window of tags ahead of the paired COLLECT is full. -/
def State.windowFull (s : State) (o : Opr) : Bool :=
  match s.oprs.look o.collectKey with
  | none => false
  | some c => o.partner.isSome && c.kind == .collect && 256 ≤ (o.tagNext - c.next).toNat

/-- A data entry goes to a replica with the next tag. -/
def State.distTake (s : State) (k : Nat) (o : Opr) (e : Entry) (r : Nat) : Act :=
  let c := s.inKnow o 0
  let s := s.oprLog o (o.logEvent (s.inWide o 0) 1 { e with tag := o.tagNext } (r + o.tagNext.toNat * 16) 0)
  .done ((s.takeIn k 0).updOpr k fun o => { o.stageEntry r { e with tag := o.tagNext } c with tagNext := o.tagNext + 1 })

/-- A cue or end of stream goes to every live replica with one tag; an end of stream retires them all. -/
def State.distCue (s : State) (k : Nat) (o : Opr) (e : Entry) : Act :=
  if o.liveList.any fun r => 4 ≤ (o.staged r).length then .noCredit
  else
    let c := s.inKnow o 0
    let s := (s.takeIn k 0).updOpr k fun o =>
      let o' := o.liveList.foldl (fun (a : Opr) r => a.stageEntry r { e with tag := o.tagNext } c) o
      { o' with tagNext := o.tagNext + 1, live := if e.kind = 7 then 0 else o.live,
                shrinks := if e.kind = 7 then o.shrinks + o.liveList.length else o.shrinks }
    .done (s.sendRec o (.cue o.tagNext o.live e.kind))

/-- DIST takes the head of its input. -/
def State.actTake (s : State) (k : Nat) (o : Opr) : Act :=
  match s.inHead o 0 with
  | none => .noInput
  | some e =>
    if e.fmark then .done (s.passMarker k 0 e)
    else if e.kind ≠ 0 then s.distCue k o e
    else if s.windowFull o then .idle
    else
      let room := o.liveList.filter fun r => (o.staged r).length < 4
      let ev := o.logEvent (s.inWide o 0) 1 { e with tag := o.tagNext } 0 0
      if s.modeOf o.pnum o.launch = 2 then
        match s.nextLog o.pnum o.launch ev with
        | (none, s) => .done (s.diverge o.pnum o.launch ev 0)
        | (some (n, r), s) =>
          let j := r.arg / 16 % 16
          if r.ty = 2 then .idle
          else if r.ty ≠ 1 ∨ r.digest ≠ ev.digest ∨ !o.live.getLsbD j then .done (s.diverge o.pnum o.launch ev n)
          else if room.contains j then s.distTake k o e j else .noCredit
      else
        match leastOf (s.load o) room with
        | none => .noCredit
        | some r => s.distTake k o e r

/-- The head of a replica's staging is pushed; a data entry sends its record. -/
def State.actPush (s : State) (r k : Nat) (o : Opr) : Act :=
  match o.stagedKnown r with
  | [] => .noInput
  | (e, c) :: rest =>
    if !s.hasRoom o (16 + r) 1 then .noCredit
    else
      let s := (s.updOpr k fun o => { o with staging := o.staging.put r rest }).pushOut k (16 + r) e c
      .done (if e.kind = 0 then s.sendRec o (.data e.tag r) else s)

/-- The newest staged entry of a replica is data. -/
def Opr.stealable (o : Opr) (r : Nat) : Bool :=
  match (o.staged r).getLast? with
  | none => false
  | some e => e.kind == 0

/-- The newest staged entry of a donor moves to an idle replica. -/
def State.distSteal (s : State) (k : Nat) (o : Opr) (donor r : Nat) : Act :=
  match (o.stagedKnown donor).getLast? with
  | none => .idle
  | some (e, c) =>
    let s := s.oprLog o (o.logEvent (s.inWide o 0) 2 e (r + e.tag.toNat * 16) donor)
    .done (s.updOpr k fun o =>
      let o := { o with staging := o.staging.put donor (o.stagedKnown donor).dropLast, steals := o.steals + 1 }
      o.stageEntry r e c)

/-- DIST steals where a live replica is idle and another has an entry to give. -/
def State.actSteal (s : State) (k : Nat) (o : Opr) : Act :=
  let idle := o.liveList.filter fun r => s.load o r == 0
  if s.modeOf o.pnum o.launch = 2 then
    match s.nextLog o.pnum o.launch (o.logEvent false 2 (dataEntry 0 0) 0 0) with
    | (none, _) => .idle
    | (some (n, r), s) =>
      if r.ty ≠ 2 then .idle
      else
        let j := r.arg / 16 % 16
        match (o.staged r.value).getLast? with
        | none => .idle
        | some e =>
          let ev := o.logEvent (s.inWide o 0) 2 e (j + e.tag.toNat * 16) r.value
          if !idle.contains j then .idle
          else if ev.digest ≠ r.digest then .done (s.diverge o.pnum o.launch ev n)
          else s.distSteal k o r.value j
  else
    match idle.head?, mostOf (fun r => (o.staged r).length) (o.liveList.filter o.stealable) with
    | some r, some d => s.distSteal k o d r
    | _, _ => .noInput

/-- An action of DIST. -/
def State.actDist (act : DistAct) (s : State) (k : Nat) (o : Opr) : Act :=
  match act with
  | .take => s.actTake k o
  | .push r => s.actPush r k o
  | .steal => s.actSteal k o

/-- DIST_ACTION. -/
def execDistAction (k : Nat) (act : DistAct) (s : State) : Host.Outcome State Fault Refusal :=
  eventM (fun s => s.oprStep k .dist (State.actDist act)) s

/-! ## Growth and shrinkage (R436) -/

/-- The launch and the stage that a DIST feeds. -/
def State.distStage (s : State) (o : Opr) : Option (Launch × Stage) :=
  (s.launches.look (launchKey o.pnum o.launch)).bind fun l => (l.stages[o.stage]?).map fun st => (l, st)

/-- The lowest free replica number of a DIST. -/
def State.nextReplica (s : State) (o : Opr) (l : Launch) : Option Nat :=
  (List.range (o.field 8 8 5)).find? fun r => !o.live.getLsbD r && s.replicaFree l o.stage r

/-- A slot is refused to a DIST, or a replica of the lowest free number starts on it. -/
def State.distGiven (s : State) (k : Nat) (o : Opr) (e : Option (Coord × Nat)) : State :=
  match e, (s.distStage o).bind fun l => s.nextReplica o l.1 with
  | none, _ => s.updOpr k fun o => { o with refused := o.refused + 1 }
  | some _, none => s
  | some (c, i), some r =>
    (s.startReplica (launchKey o.pnum o.launch) o.stage r c i).updOpr k fun o =>
      { o with live := o.live ||| (1#16 <<< r), grows := o.grows + 1, idleFrames := o.idleFrames.del r }

/-- What a DIST asks the box office for: a slot on the first core of its stage's kind, in local index order. -/
def Stage.slotWant (st : Stage) : BoxWant := .anySlot 0 (if st.tileCore then .t else .x)

/-- The key of the request of a DIST, which no context has. -/
def distKey (k : Nat) : Nat := 2 ^ 40 + k

/-- DIST asks for one more replica: at once, or in its turn where others asked before (R251). -/
def State.distGrow (s : State) (k : Nat) (o : Opr) : State :=
  match s.distStage o with
  | none => s
  | some (l, st) =>
    if (s.nextReplica o l).isNone then s
    else if s.boxBusy st.cl then
      let r : BoxReq := { key := distKey k, company := st.company, want := st.slotWant, waits := false, phase := .fresh, redecide := false }
      s.updCluster st.cl fun c => { c with reqs := c.reqs ++ [r] }
    else
      match s.firstSlot st.cl st.company ((clusterCores st.cl).filter fun c => isTile c == st.tileCore) with
      | (e, s) => s.distGiven k o e

/-- The request that a DIST has made, where the box office has decided it. -/
def State.distAsked (s : State) (k : Nat) (o : Opr) : Option BoxReq :=
  (s.distStage o).bind fun l => (s.clusterAt l.2.cl).reqs.find? fun r => r.key == distKey k

/-- A decided request of a DIST leaves the list, and its answer takes effect. -/
def State.distAnswered (s : State) (k : Nat) (o : Opr) (r : BoxReq) : State :=
  let drop (s : State) : State := match s.distStage o with
    | none => s
    | some (_, st) => s.updCluster st.cl fun c => { c with reqs := c.reqs.filter fun q => q.key != distKey k }
  match r.phase with
  | .placed c i => (drop s).distGiven k o (some (c, i))
  | .done _ => (drop s).distGiven k o none
  | _ => s

/-- DIST retires a replica: an end of stream goes into its queue (R229). -/
def State.distRetire (s : State) (k : Nat) (o : Opr) (r : Nat) : State :=
  (s.pushOut k (16 + r) (cueEntry 7 0 o.tagNext) .empty).updOpr k fun o =>
    { o with live := o.live &&& ~~~(1#16 <<< r), shrinks := o.shrinks + 1, idleFrames := o.idleFrames.del r }

/-- Number of the present frame, plus 1. -/
def State.frame (s : State) : Nat := s.cycle / 256 + 1

/-- A data entry waits at the input of a DIST. -/
def State.dataWaits (s : State) (o : Opr) : Bool :=
  match s.inHead o 0 with
  | none => false
  | some e => e.kind == 0

/-- The decision of a DIST at a frame boundary; while the box office has its request, none. -/
def State.distResize (s : State) (k : Nat) : State :=
  match s.oprs.look k with
  | none => s
  | some o =>
    if let some r := s.distAsked k o then s.distAnswered k o r
    else if o.kind ≠ .dist ∨ o.state ≠ .running ∨ o.frameAt = s.frame then s
    else
      let live := o.liveList
      let total := (live.map (s.load o)).sum
      let gf := if o.field 32 0 16 ≤ total then o.growFrames + 1 else 0
      let idle := live.foldl (fun (t : Tbl Nat) r => t.put r (if s.load o r = 0 then o.idleFrames.getD r 0 + 1 else 0)) []
      let o := { o with growFrames := gf, idleFrames := idle, frameAt := s.frame }
      let s := s.updOpr k fun _ => o
      if (o.field 32 16 16 ≤ gf && 0 < gf && live.length < o.field 8 8 5) || (live.length < o.field 8 0 5 && s.dataWaits o) then
        s.distGrow k o
      else if o.field 8 0 5 < live.length then
        match (live.filter fun r => o.field 32 32 16 ≤ idle.getD r 0 && s.load o r == 0).getLast? with
        | none => s
        | some r => s.distRetire k o r
      else s

/-- DIST_FRAME_RESIZE. -/
def execDistFrameResize (k : Nat) (s : State) : Host.Outcome State Fault Refusal := eventM (fun s => s.distResize k) s

/-! ## COLLECT (R437) -/

/-- A tag lies 1 to 2^23 before another, modulo 2^24. -/
def tagBehind (t ref : BitVec 24) : Bool := 1 ≤ (ref - t).toNat && (ref - t).toNat ≤ 2 ^ 23

/-- Tag of a record. -/
def ColRec.tag : ColRec → BitVec 24
  | .data t _ => t
  | .cue t _ _ => t

/-- COLLECT goes on to the next tag. -/
def Opr.collectNext (o : Opr) : Opr :=
  { o with next := o.next + 1, emitted := 0, served := 0, cuePayload := none, know := .empty, recs := o.recs.filter fun r => r.tag != o.next }

/-- A data record: the entries of its tag are pushed. -/
def State.collectData (s : State) (k : Nat) (o : Opr) (r : Nat) : Act :=
  let per := o.field 8 0 5
  match s.inHead o r with
  | none => .noInput
  | some e =>
    if e.kind = 0 ∧ e.tag = o.next then
      if !s.hasRoom o 16 1 then .noCredit
      else
        let s := (s.takeIn k r).pushOut k 16 e (s.inKnow o r)
        .done (s.updOpr k fun o =>
          let o := { o with emitted := o.emitted + 1 }
          if per ≠ 0 ∧ per ≤ o.emitted then o.collectNext else o)
    else
      .done (s.updOpr k fun o => { o with short := if o.emitted < per then o.short + 1 else o.short }.collectNext)

/-- A replica is served for the present cue. -/
def Opr.serve (o : Opr) (r : Nat) : Opr := { o with served := o.served ||| (1#16 <<< r) }

/-- A cue record: each replica of the mask is served by its head entry, then one cue is pushed. -/
def State.collectCue (s : State) (k : Nat) (o : Opr) (mask : BitVec 16) (kind : Fin 8) : Act :=
  match (List.range 16).find? fun r => mask.getLsbD r && !o.served.getLsbD r with
  | none =>
    if !s.hasRoom o 16 1 then .noCredit
    else .done ((s.pushOut k 16 (cueEntry kind.val (o.cuePayload.getD 0) o.next) o.know).updOpr k Opr.collectNext)
  | some r =>
    match s.inHead o r with
    | none => .noInput
    | some e =>
      if e.kind = 0 then
        if e.tag = o.next then .done ((s.takeIn k r).updOpr k fun o => { o with stray := o.stray + 1 })
        else .done (s.updOpr k fun o => { o.serve r with dropc := o.dropc + 1 })
      else if e.kind = kind then
        .done ((s.takeIn k r).updOpr k fun o => { o.serve r with cuePayload := some (o.cuePayload.getD e.payload), know := o.know.join (s.inKnow o r) })
      else .done (s.oprCue k)

/-- One action of COLLECT. -/
def State.actCollect (s : State) (k : Nat) (o : Opr) : Act :=
  let heads := (List.range 16).filterMap fun r => (s.inHead o r).map fun e => (r, e)
  match heads.find? fun h => h.2.fmark with
  | some (r, e) => .done (s.passMarker k r e)
  | none =>
    match heads.find? fun h => h.2.kind == 0 && tagBehind h.2.tag o.next with
    | some (r, _) => .done ((s.takeIn k r).updOpr k fun o => { o with stray := o.stray + 1 })
    | none =>
      match o.recs.find? fun r => r.tag == o.next with
      | none => .noInput
      | some (.data _ r) => s.collectData k o r
      | some (.cue _ mask kind) => s.collectCue k o mask kind

/-- COLLECT_ACTION. -/
def execCollectAction (k : Nat) (s : State) : Host.Outcome State Fault Refusal := eventM (fun s => s.oprStep k .collect State.actCollect) s

end Sys2Proof.Machine
end

