-- ==== Sys2Proof/Machine/Cp.lean ====
section
/-! DEFINITION. What the command processor does in a partition's memory: completion cells, software queues, doorbells, hardware queue
slots and submission entries (R365, R439 to R445, R451). -/

namespace Sys2Proof.Machine

/-! ## Memory of a partition -/

/-- The place of a piece of one line that the command processor reaches, or none where its translation or the access faults. -/
def State.cpPlace (s : State) (pnum va n : Nat) (write : Bool) : Option Place × State :=
  if 2 ^ 56 < va + n then (none, s)
  else
    match s.walkNow pnum va write true with
    | (.error _, s) => (none, s)
    | (.ok leaf, s) =>
      let p := { placeUnder leaf va with len := n }
      (if (s.placeFault true p write).isSome then none else some p, s)

/-- Reads bytes at a virtual address; none where a read faults. -/
def State.cpRead (s : State) (pnum va n : Nat) : Option (List Byte) × State :=
  (cutLines (n / 64 + 2) va n).foldl (fun (acc : Option (List Byte) × State) e =>
    match acc with
    | (none, s) => (none, s)
    | (some d, s) =>
      match s.cpPlace pnum e.1 e.2 false with
      | (none, s) => (none, s)
      | (some p, s) => (some (d ++ s.placeBytes p), s)) (some [], s)

/-- 64-bit words of a byte list. -/
def wordsOf (d : List Byte) : List Nat := (List.range (d.length / 8)).map fun i => leValue (slice d (8 * i) 8)

/-- Reads 64-bit words. -/
def State.cpWords (s : State) (pnum va n : Nat) : Option (List Nat) × State :=
  match s.cpRead pnum va (8 * n) with
  | (d, s) => (d.map wordsOf, s)

/-- The number under which the command processor's held writes translate: that of no cache of a shootdown, since it walks each time. -/
def cpCache : Nat := 99999

/-- A write of the command processor is held under write-block, or stands behind one that is, to the same line (R101). -/
def State.holdCp (s : State) (pnum : Nat) (p : Place) (d : List Byte) : State :=
  s.hold cpCache
    { by_ := .cp, key := 0, gtid := 0, pnum, cl := p.key.1, core := 0, homeCl := p.key.1, company := 0, walking := none,
      ready := if leafWb p.leaf.entry then none else some p.leaf, digest := 0, home := p.home, va := p.va, leaf := p.leaf, data := d,
      na := true, stamper := none, sync := false, fence := false, release := none }

/-- An earlier write of the command processor to a line of a partition is held. -/
def State.behindCp (s : State) (pnum va : Nat) : Bool :=
  s.held.any fun e => e.2.by_ == .cp && e.2.pnum == pnum && e.2.va / 64 == va / 64

/-- Writes bytes within one line, or holds them under write-block (R101); a page that cannot be written keeps what it holds. -/
def State.cpWrite (s : State) (pnum va : Nat) (d : List Byte) : State :=
  match s.cpPlace pnum va d.length true with
  | (none, s) => s
  | (some p, s) => if leafWb p.leaf.entry || s.behindCp pnum va then s.holdCp pnum p d else s.placeWrite p d

/-- The leaf of a cell for a write: none where it is absent, at 0 (R443), or its translation faults. -/
def State.cpLeaf (s : State) (pnum va : Nat) : Option Leaf := if va = 0 then none else (s.walkNow pnum va true false).1.toOption

/-- What a write of the command processor makes of a cell. -/
def CellOp.apply : CellOp → Cell → Option (Cell × Bool)
  | .fres v, c => c.fres v
  | .ffail code, c => c.ffail code
  | .cancel, c => c.cancel

/-- The command processor's write to a cell performs: only where the cell is PENDING; it counts a conflict elsewhere (R451). -/
def State.cellNow (s : State) (vf pnum va : Nat) (op : CellOp) : State :=
  if va = 0 ∨ va % 16 ≠ 0 then s
  else
    match s.cpPlace pnum va 16 true with
    | (none, s) => s
    | (some p, s) =>
      let c := cellOf (s.placeBytes p)
      match op.apply c with
      | none => s.updVf vf fun v => { v with conflicts := v.conflicts + 1 }
      | some (c', starts) =>
        let s := s.placeWrite p c'.bytes
        if starts then s.send (.start (indexCore c.cont) c.cont none) else s

/-- An earlier write to a cell is held. -/
def State.cellBehind (s : State) (n pnum va : Nat) : Bool := s.cellWrites.any fun w => w.num < n && w.pnum == pnum && w.va == va

/-- A write to a cell is held under a leaf: as one that a later shootdown of its page retries, or, under a leaf without write-block, one that
performs when those to the cell before it have. -/
def State.holdCell (s : State) (w : CellWrite) : State :=
  ({ s with cellWrites := (s.cellWrites.filter fun v => v.num < w.num) ++ w :: s.cellWrites.filter fun v => w.num < v.num } : State).newlyHeld
    w.num w.num cpCache w.pnum w.leaf

/-- The command processor's write to a cell: performed, or held under write-block (R101). -/
def State.cpCell (s : State) (vf pnum va : Nat) (op : CellOp) : State :=
  match s.cpLeaf pnum va with
  | none => s.cellNow vf pnum va op
  | some leaf =>
    if leafWb leaf.entry || s.cellBehind s.fresh pnum va then
      ({ s with fresh := s.fresh + 1 } : State).holdCell { num := s.fresh, vf, pnum, va, op, leaf, again := !leafWb leaf.entry }
    else s.cellNow vf pnum va op

/-- A write to a cell that a drop point has retried translates again: it performs, or is held under its new leaf (R101). -/
def State.retryWrite (s : State) (w : CellWrite) : State :=
  if !w.again || s.cellBehind w.num w.pnum w.va then s
  else
    match (s.cpLeaf w.pnum w.va).filter fun leaf => leafWb leaf.entry with
    | some leaf => s.holdCell { w with leaf, again := false }
    | none => ({ s with cellWrites := s.cellWrites.filter fun v => v.num != w.num } : State).cellNow w.vf w.pnum w.va w.op

/-- Writes to cells that translate again do so, in their order. -/
def State.retryCells (s : State) : State := s.cellWrites.foldl State.retryWrite s

/-! ## Custom registers (R453, R519) -/

/-- A custom register of a command-processor core, by number (R519). -/
def State.csr (s : State) (cp number : Nat) : Word := s.csrs.getD (cp * 4096 + number) 0

/-- Sets a custom register. -/
def State.setCsr (s : State) (cp number : Nat) (v : Word) : State := { s with csrs := s.csrs.put (cp * 4096 + number) v }

/-- XPCMD of a core. -/
def State.xpcmd (s : State) (cp : Nat) : Word := s.csr cp 0x7C3

/-- XPARG of a core. -/
def State.xparg (s : State) (cp : Nat) : Word := s.csr cp 0x7C4

/-- PNUM of XPCMD. -/
def xpPnum (w : Word) : Nat := (w.extractLsb' 8 6).toNat

/-- FORCE of XPCMD. -/
def xpForce (w : Word) : Bool := w.getLsbD 14

/-- BUSY of XPCMD. -/
def xpBusy (w : Word) : Bool := w.getLsbD 16

/-- OP of XPCMD. -/
def xpOp (w : Word) : Nat := (w.extractLsb' 0 8).toNat

/-- A forced mode change of a partition is in progress: an ACTIVATE or DEACTIVATE, or the ladder's, that waits for its companies (R454, R524). -/
def State.changing (s : State) (pnum : Nat) : Bool :=
  s.cycling == some pnum || (List.range 4).any fun cp => let w := s.xpcmd cp; xpBusy w && (xpOp w == 1 || xpOp w == 2) && xpPnum w == pnum

/-! ## Software queues (R439 to R442) -/

/-- The partition that a virtual function serves (R56). -/
def State.vfPart (s : State) (v : Nat) : Option Nat := s.parts.findKey fun _ p => p.active && p.vfmask.getLsbD v

/-- STATE of a descriptor. -/
def SwState.code : SwState → Nat
  | .idle => 0
  | .mapped .. => 1
  | .waiting => 2
  | .down => 3
  | .disabled => 3

/-- SLOT of a descriptor. -/
def SwState.slot : SwState → Nat
  | .mapped i _ => i
  | _ => 0

/-- Torn down (R452). -/
def SwState.isDown (t : SwState) : Bool := t == .down || t == .disabled

/-- Address of a queue descriptor (R440). -/
def State.descVa (s : State) (v qid : Nat) : Nat := (s.vf v).qtbase.toNat % 2 ^ 56 + 32 * qid

/-- A queue as its descriptor has it. -/
def State.freshQueue (s : State) (v qid : Nat) (desc : List Nat) : SwQueue :=
  { at_ := s.descVa v qid, state := if desc.getD 3 0 % 4 = 3 then .down else .idle, head := BitVec.ofNat 32 (desc.getD 1 0),
    tail := BitVec.ofNat 32 (desc.getD 2 0) }

/-- What the command processor keeps of a queue; the descriptor at QTBASE where it has not met the queue yet. -/
def State.swQueue (s : State) (v qid : Nat) (desc : List Nat) : SwQueue :=
  (s.vf v).queues.getD qid (s.freshQueue v qid desc)

/-- A queue as a doorbell finds it, with the descriptor at QTBASE; one that was torn down with another descriptor is a new one. -/
def State.rungQueue (s : State) (v qid : Nat) (desc : List Nat) : SwQueue :=
  let q := s.swQueue v qid desc
  if q.state.isDown && q.at_ != s.descVa v qid then s.freshQueue v qid desc else { q with at_ := s.descVa v qid }

/-- Keeps a queue, and writes HEAD, TAIL, STATE and SLOT to its descriptor. -/
def State.putSw (s : State) (v qid : Nat) (q : SwQueue) : State :=
  let s := s.updVf v fun f => { f with queues := f.queues.put qid q }
  match s.vfPart v with
  | none => s
  | some p =>
    let a := q.at_
    let s := s.cpWrite p (a + 8) (leBytes 8 q.head.toNat)
    let s := s.cpWrite p (a + 16) (leBytes 8 q.tail.toNat)
    s.cpWrite p (a + 24) (leBytes 8 (q.state.code + q.state.slot * 4))

/-- Entries are pending. -/
def SwQueue.work (q : SwQueue) : Bool := q.head != q.tail

/-- A queue that the command processor keeps. -/
def State.sw (s : State) (v qid : Nat) : SwQueue := s.swQueue v qid []

/-- The lowest free hardware queue slot. -/
def State.freeHwSlot (s : State) : Option Nat := (List.range Config.hwQueueSlots).find? fun i => (s.hwslots.look i).isNone

/-- The lowest hardware queue slot whose queue has no work. -/
def State.idleHwSlot (s : State) : Option Nat := s.hwslots.findKey fun _ e => !(s.sw e.1 e.2).work

/-- A queue is mapped to a hardware queue slot. -/
def State.mapQueue (s : State) (v qid slot : Nat) : State :=
  { s with hwslots := s.hwslots.put slot (v, qid) }.putSw v qid { s.sw v qid with state := .mapped slot s.cycle }

/-- A queue becomes waiting, behind those that wait. -/
def State.makeWaiting (s : State) (v qid : Nat) : State :=
  { s with waitingQs := s.waitingQs ++ [(v, qid)] }.putSw v qid { s.sw v qid with state := .waiting }

/-- Waiting queues take free slots and those of queues without work, in the order in which they became waiting. -/
def State.serveWaiting (s : State) (fuel : Nat) : State :=
  match fuel with
  | 0 => s
  | n + 1 =>
    match s.waitingQs with
    | [] => s
    | (v, qid) :: rest =>
      match s.freeHwSlot with
      | some i => ({ s with waitingQs := rest }.mapQueue v qid i).serveWaiting n
      | none =>
        match s.idleHwSlot with
        | none => s
        | some i =>
          let (w, r) := s.hwslots.getD i (0, 0)
          let s := s.putSw w r { s.sw w r with state := .idle }
          ({ s with waitingQs := rest }.mapQueue v qid i).serveWaiting n

/-- Every waiting queue that can be mapped is. -/
def State.remap (s : State) : State := s.serveWaiting s.waitingQs.length

/-- What a descriptor's EN makes of a queue that was torn down: EN = 0 and then EN = 1 return it to STATE 0 (R452). -/
def SwState.seen (t : SwState) (en : Bool) : SwState :=
  match t with
  | .down => if en then .down else .disabled
  | .disabled => if en then .idle else .disabled
  | t => t

/-- A doorbell that is ignored (R441). -/
def State.ignoreDoorbell (s : State) (v : Nat) : State :=
  s.updVf v fun f => { f with dberr := if f.dberr = 0xFFFFFFFF then f.dberr else f.dberr + 1 }

/-- EN of a descriptor. -/
def descEn (d : List Nat) : Bool := d.getD 0 0 / 2 ^ 63 % 2 == 1
/-- LOGSZ of a descriptor. -/
def descLog (d : List Nat) : Nat := d.getD 0 0 / 2 ^ 56 % 16

/-- A queue that waits for a slot and has lost its work no longer waits. -/
def State.dropWaiting (s : State) (v qid : Nat) : State :=
  if (s.sw v qid).state = .waiting ∧ !(s.sw v qid).work then
    { s with waitingQs := s.waitingQs.filter fun e => e != (v, qid) }.putSw v qid { s.sw v qid with state := .idle }
  else s

/-- A doorbell (R441); one that arrives during a restart of the command processor is held (R523), and one that arrives after a Function
Level Reset has begun is discarded (R515). -/
def State.ringDoorbell (s : State) (v : Nat) (value : Word) : State :=
  if (s.vf v).flr then s
  else if s.restarting then { s with heldDoorbells := s.heldDoorbells ++ [(v, value)] }
  else
    let qid := value.toNat % 2 ^ 12
    let tail : BitVec 32 := value.extractLsb' 32 32
    match s.vfPart v with
    | none => s.ignoreDoorbell v
    | some p =>
      if (s.vf v).qtlen ≤ qid then s.ignoreDoorbell v
      else
        match s.cpWords p (s.descVa v qid) 4 with
        | (none, s) => s.ignoreDoorbell v
        | (some d, s) =>
          let q := s.rungQueue v qid d
          let st := q.state.seen (descEn d)
          let s := if st = q.state then s else s.putSw v qid { q with state := st }
          if !descEn d || descLog d < 2 || 12 < descLog d || st.isDown || 2 ^ descLog d < (tail - q.head).toNat then s.ignoreDoorbell v
          else
            let q := { q with state := st, tail }
            let s := s.putSw v qid q
            if q.work && st == .idle then (s.makeWaiting v qid).remap else (s.dropWaiting v qid).remap

/-- DOORBELL. -/
def execDoorbell (vf : Nat) (value : Word) (s : State) : Host.Outcome State Fault Refusal := commandM (fun s => s.ringDoorbell vf value) s

/-- DBERR_READ: COUNT is cleared. -/
def execDberrRead (vf : Nat) (s : State) : Host.Outcome State Fault Refusal :=
  commandM (fun s => s.updVf vf fun f => { f with dberr := 0 }) s

/-- A mapped queue with work has held its slot for one quantum, and a queue waits (R442). -/
def State.quantumOver (s : State) (slot : Nat) : Bool :=
  match s.hwslots.look slot with
  | none => false
  | some (v, qid) =>
    match (s.sw v qid).state with
    | .mapped _ since => !s.waitingQs.isEmpty && since + s.quantum * 2700 ≤ s.cycle
    | _ => false

/-- The queue gives up its slot and waits again, behind those that wait already. -/
def State.expireQuantum (s : State) (slot : Nat) : State :=
  if s.quantumOver slot then
    let (v, qid) := s.hwslots.getD slot (0, 0)
    let s := { s with hwslots := s.hwslots.del slot }
    (if (s.sw v qid).work then s.makeWaiting v qid else s.putSw v qid { s.sw v qid with state := .idle }).remap
  else s

/-- QUANTUM_EXPIRY. -/
def execQuantumExpiry (slot : Nat) (s : State) : Host.Outcome State Fault Refusal := eventM (fun s => s.expireQuantum slot) s

/-! ## Submission entries (R443 to R445) -/

/-- A submission entry; `ok` is false for one that R443 refuses. -/
structure SubEntry where
  pb : Nat
  cell : Nat
  deps : List Nat
  prio : Option Nat
  depfail : Bool
  utag : BitVec 32
  ok : Bool
  deriving DecidableEq, Repr

/-- The fields of an entry's eight words. -/
def subEntry (w : List Nat) : SubEntry :=
  let v (i : Nat) : Nat := w.getD i 0
  let ctl := v 6
  { pb := v 0 % 2 ^ 56, cell := v 1 % 2 ^ 56, deps := (List.range 4).map fun i => v (2 + i) % 2 ^ 56,
    prio := if ctl / 4 % 2 = 1 then some (ctl % 4) else none, depfail := ctl / 8 % 2 == 1, utag := BitVec.ofNat 32 (ctl / 2 ^ 32),
    ok := ((List.range 6).all fun i => v i < 2 ^ 56) && ctl / 2 ^ 4 % 2 ^ 28 == 0 && v 7 == 0 && v 0 % 64 == 0 &&
      (List.range 5).all fun i => v (1 + i) % 16 == 0 }

/-- What stands at the head of a queue (R444, R448). -/
inductive HeadAns where
  | empty
  | wait
  | cancel (e : SubEntry)
  | refuse (cell status : Nat)
  | ready (e : SubEntry) (prio : Nat)
  deriving DecidableEq, Repr

/-- STATE of a cell, if it can be read. -/
def State.cellState (s : State) (pnum va : Nat) : Option Nat :=
  match (s.cpWords pnum va 1).1 with
  | some (w :: _) => some (w / 2 ^ 62)
  | _ => none

/-- The entry at an index of a queue's ring. -/
def State.entryOf (s : State) (pnum at_ : Nat) (index : BitVec 32) : Option SubEntry :=
  match (s.cpWords pnum at_ 1).1 with
  | some (w :: _) =>
    ((s.cpWords pnum (w % 2 ^ 56 + 64 * (index.toNat % 2 ^ (w / 2 ^ 56 % 16))) 8).1).map subEntry
  | _ => none

/-- The head of a queue: refused for what it holds, cancelled for a dependence, waiting for one, or ready. DESIGN CHOICE (log entry 133): the
entries of a VF that no partition has stay pending, and are those of the partition that has it next (R56). -/
def State.headOf (s : State) (v qid : Nat) : HeadAns :=
  let q := s.sw v qid
  match s.vfPart v with
  | none => .empty
  | some p =>
    if !q.work then .empty
    else
      match s.entryOf p q.at_ q.head with
      | none => .refuse 0 7
      | some e =>
        if !e.ok then .refuse (if e.cell % 16 = 0 then e.cell else 0) 1
        else
          let deps := (e.deps.filter fun a => a != 0).map fun a => s.cellState p a
          if deps.contains none then .refuse e.cell 7
          else if e.depfail && deps.any (fun d => d == some 2 || d == some 3) then .cancel e
          else if deps.contains (some 0) then .wait
          else
            match e.prio with
            | some n => .ready e n
            | none => .ready e ((((s.cpWords p e.pb 1).1).map fun w => w.headD 0 / 2 ^ 8 % 4).getD 0)

/-- An entry leaves the head of its queue. -/
def State.consume (s : State) (v qid : Nat) : State :=
  let q := s.sw v qid
  (s.putSw v qid { q with head := q.head + 1 }).remap

/-- The head of a queue is refused with a status (R448). -/
def State.refuseHead (s : State) (v qid cell status : Nat) : State :=
  (s.consume v qid).cpCell v ((s.vfPart v).getD 0) cell (.ffail (0x100 + status))

/-- A failed dependence cancels the head of a queue (R444, R451). -/
def State.cancelHead (s : State) (v qid : Nat) : State :=
  match s.headOf v qid with
  | .cancel e =>
    (s.consume v qid).cpCell v ((s.vfPart v).getD 0) e.cell .cancel
  | _ => s

/-- EN of a queue that was torn down is looked at (R452). -/
def State.lookDown (s : State) (v qid : Nat) : State :=
  let q := s.sw v qid
  if !q.state.isDown then s
  else
    match (s.vfPart v).bind fun p => (s.cpWords p q.at_ 1).1 with
    | none => s
    | some d => if q.state.seen (descEn d) = q.state then s else s.putSw v qid { q with state := q.state.seen (descEn d) }

/-- The EN of every queue that was torn down is looked at: a step does it last, so that no write of the bit is missed (R452, log entry 60).
-/
def State.lookQueues (s : State) : State :=
  s.vfs.foldl (fun (s : State) f => f.2.queues.foldl (fun (s : State) q => if q.2.state.isDown then s.lookDown f.1 q.1 else s) s) s

/-- A poll: entries whose dependence failed are cancelled (R444). -/
def State.pollDeps (s : State) : State := s.hwslots.foldl (fun (s : State) e => s.cancelHead e.2.1 e.2.2) s

/-- DEPENDENCE_POLL. -/
def execDependencePoll (s : State) : Host.Outcome State Fault Refusal := eventM State.pollDeps s

end Sys2Proof.Machine
end

