-- ==== Sys2Proof/Machine/Crypto.lean ====
section
/-! DEFINITION. SHA-512 and pure Ed25519 verification, the functions that R507, R521 and R525 name by RFC 8032. PRESUMED (log entry 11):
their definitions are those of FIPS 180-4 and RFC 8032, which the spec names and does not repeat. -/

namespace Sys2Proof.Machine

/-! ## SHA-512 -/

/-- The largest r below 2^bits whose k-th power is at most n. -/
def rootBits (k n bits : Nat) : Nat :=
  (List.range bits).foldl (fun (r : Nat) i => if (r + 2 ^ (bits - 1 - i)) ^ k ≤ n then r + 2 ^ (bits - 1 - i) else r) 0

/-- The first 80 primes. -/
def shaPrimes : List Nat :=
  (List.range 410).filter fun n => 2 ≤ n && (List.range n).all fun d => d < 2 || n % d != 0

/-- Round constants: the first 64 bits of the fractional parts of the cube roots of the primes. -/
def shaRounds : List Word := shaPrimes.map fun p => BitVec.ofNat 64 (rootBits 3 (p * 2 ^ 192) 67)

/-- The initial hash value: the first 64 bits of the fractional parts of the square roots of the first eight primes. -/
def shaInit : List Word := (shaPrimes.take 8).map fun p => BitVec.ofNat 64 (rootBits 2 (p * 2 ^ 128) 67)

/-- A big-endian value of bytes. -/
def beValue (d : List Byte) : Nat := leValue d.reverse

/-- A message padded to whole blocks: a one bit, zeros, and its length in bits in 16 bytes. -/
def shaPad (m : List Byte) : List Byte :=
  m ++ 0x80 :: List.replicate ((239 - m.length % 128) % 128) 0 ++ (leBytes 16 (8 * m.length)).reverse

/-- The next word of a block's schedule, from the latest words, newest first. -/
def shaNext (w : List Word) : Word :=
  let a := w.getD 1 0
  let b := w.getD 14 0
  (a.rotateRight 19 ^^^ a.rotateRight 61 ^^^ (a >>> 6)) + w.getD 6 0 + (b.rotateRight 1 ^^^ b.rotateRight 8 ^^^ (b >>> 7)) + w.getD 15 0

/-- The 80 words of a block's schedule. -/
def shaSchedule (block : List Byte) : List Word :=
  let first := (List.range 16).map fun i => BitVec.ofNat 64 (beValue ((block.drop (8 * i)).take 8))
  ((List.range 64).foldl (fun (w : List Word) _ => shaNext w :: w) first.reverse).reverse

/-- One round on the eight working variables. -/
def shaRound (v : List Word) (kw : Word) : List Word :=
  match v with
  | [a, b, c, d, e, f, g, h] =>
    let t := h + (e.rotateRight 14 ^^^ e.rotateRight 18 ^^^ e.rotateRight 41) + ((e &&& f) ^^^ (~~~e &&& g)) + kw
    let u := (a.rotateRight 28 ^^^ a.rotateRight 34 ^^^ a.rotateRight 39) + ((a &&& b) ^^^ (a &&& c) ^^^ (b &&& c))
    [t + u, a, b, c, d + t, e, f, g]
  | v => v

/-- One block of 128 bytes. -/
def shaBlock (h : List Word) (block : List Byte) : List Word :=
  let v := ((shaSchedule block).zip shaRounds).foldl (fun (v : List Word) e => shaRound v (e.1 + e.2)) h
  (h.zip v).map fun e => e.1 + e.2

/-- The 64 bytes of a SHA-512 digest. -/
def shaBytes (m : List Byte) : List Byte :=
  let p := shaPad m
  let h := (List.range (p.length / 128)).foldl (fun (h : List Word) i => shaBlock h ((p.drop (128 * i)).take 128)) shaInit
  h.flatMap fun w => (leBytes 8 w.toNat).reverse

/-- A SHA-512 digest, its first byte in the low bits. -/
def sha512 (m : List Byte) : BitVec 512 := BitVec.ofNat 512 (leValue (shaBytes m))

/-! ## Ed25519 -/

/-- The field's prime. -/
def edP : Nat := 2 ^ 255 - 19

/-- The order of the base point. -/
def edL : Nat := 2 ^ 252 + 27742317777372353535851937790883648493

/-- b to the power e in the field. -/
def edPow (b e : Nat) : Nat :=
  (List.range 256).foldl (fun (r : Nat) i => if e.testBit (255 - i) then r * r % edP * b % edP else r * r % edP) 1

/-- The curve's d. -/
def edD : Nat := (edP - 121665) * edPow 121666 (edP - 2) % edP

/-- A point: x, y and z of projective coordinates, and x y / z. -/
structure EdPoint where
  x : Nat
  y : Nat
  z : Nat
  t : Nat
  deriving DecidableEq, Repr

/-- The neutral point. -/
def EdPoint.zero : EdPoint := { x := 0, y := 1, z := 1, t := 0 }

/-- The sum of two points. -/
def EdPoint.add (p q : EdPoint) : EdPoint :=
  let a := (p.y + edP - p.x) * (q.y + edP - q.x) % edP
  let b := (p.y + p.x) * (q.y + q.x) % edP
  let c := 2 * p.t % edP * q.t % edP * edD % edP
  let d := 2 * p.z * q.z % edP
  let e := (b + edP - a) % edP
  let f := (d + edP - c) % edP
  let g := (d + c) % edP
  let h := (b + a) % edP
  { x := e * f % edP, y := g * h % edP, z := f * g % edP, t := e * h % edP }

/-- A multiple of a point. -/
def EdPoint.mul (n : Nat) (p : EdPoint) : EdPoint :=
  (List.range 512).foldl (fun (r : EdPoint) i => if n.testBit (511 - i) then (r.add r).add p else r.add r) .zero

/-- Two points are one. -/
def EdPoint.same (p q : EdPoint) : Bool := p.x * q.z % edP == q.x * p.z % edP && p.y * q.z % edP == q.y * p.z % edP

/-- The x of a y with a sign bit, if the curve has it. -/
def edRecover (y : Nat) (sign : Bool) : Option Nat :=
  let u := (y * y + edP - 1) % edP
  let v := (edD * (y * y % edP) + 1) % edP
  let x := u * edPow v 3 % edP * edPow (u * edPow v 7 % edP) ((edP - 5) / 8) % edP
  let w := v * (x * x % edP) % edP
  let root := if w = u then some x else if w = (edP - u) % edP then some (x * edPow 2 ((edP - 1) / 4) % edP) else none
  match root with
  | none => none
  | some x =>
    if x = 0 ∧ sign then none
    else some (if (x % 2 == 1) = sign then x else (edP - x) % edP)

/-- The point that 32 bytes encode. -/
def edDecode (b : List Byte) : Option EdPoint :=
  let n := leValue b
  let y := n % 2 ^ 255
  if b.length ≠ 32 ∨ edP ≤ y then none
  else (edRecover y (n.testBit 255)).map fun x => { x, y, z := 1, t := x * y % edP }

/-- The base point: y is 4/5, x is even. -/
def edBase : EdPoint :=
  let y := 4 * edPow 5 (edP - 2) % edP
  let x := (edRecover y false).getD 0
  { x, y, z := 1, t := x * y % edP }

/-- A signature of a message verifies under a key. PRESUMED (log entry 11): of the two group equations that RFC 8032 allows, the one
with the cofactor. -/
def signatureOk (key message signature : List Byte) : Bool :=
  let r := signature.take 32
  let n := leValue (signature.drop 32)
  match edDecode key, edDecode r with
  | some a, some p =>
    if signature.length ≠ 64 ∨ edL ≤ n then false
    else
      let k := leValue (shaBytes (r ++ key ++ message)) % edL
      (edBase.mul (8 * n)).same ((p.mul 8).add (a.mul (8 * k)))
  | _, _ => false

end Sys2Proof.Machine
end

