-- ==== Sys2Proof/Machine/Playbill.lean ====
section
/-! DEFINITION. Playbills and image objects: reading them and checking them (R297, R299, R418 to R422, R438, R446, R447, R457). -/

namespace Sys2Proof.Machine

/-- A stage entry (R446). -/
structure PbStage where
  img : Nat
  entry : Nat
  tileCore : Bool
  minr : Nat
  maxr : Nat
  homecl : Nat
  arg : Nat
  nregs : Nat
  deriving DecidableEq, Repr

/-- One end of a queue entry (R446). -/
inductive PbEnd where
  | unbound
  | stage (index : Nat) (reg : Fin 16)
  | op (index port : Nat)
  deriving DecidableEq, Repr

/-- A queue entry (R446). -/
structure PbQueue where
  src : PbEnd
  dst : PbEnd
  wide : Bool
  logd : Nat
  ext : Nat
  slots : Nat
  deriving DecidableEq, Repr

/-- An operator entry with its parameter records (R446). -/
structure PbOp where
  kind : Nat
  fold : Nat
  owner : Nat
  partner : Nat
  ploff : Nat
  plcnt : Nat
  params : List (Nat × Word)
  deriving DecidableEq, Repr

/-- A claim entry (R446). -/
structure PbClaim where
  stage : Nat
  claim : Triple
  deriving DecidableEq, Repr

/-- A playbill. -/
structure Playbill where
  stages : List PbStage
  queues : List PbQueue
  ops : List PbOp
  claims : List PbClaim
  arg : List Byte
  imgs : List Nat
  deriving DecidableEq, Repr

/-- An image object, or a trap handler (R297, R457). -/
structure ImageObj where
  nunits : Nat
  entries : List Nat
  code : List Byte
  deriving DecidableEq, Repr

/-- Bits lo to lo + w - 1 of a number. -/
def bitsOf (v lo w : Nat) : Nat := v / 2 ^ lo % 2 ^ w

/-! ## Layouts (R446) -/

/-- A queue end. -/
def pbEnd (e : Nat) : PbEnd :=
  if e = 0xFFFF then .unbound
  else if e / 2 ^ 15 % 2 = 1 then .op (bitsOf e 0 8) (bitsOf e 8 5)
  else .stage (bitsOf e 0 6) (Fin.ofNat 16 (bitsOf e 8 4))

/-- A stage entry of its words. -/
def pbStage (w : List Nat) : PbStage :=
  let a := w.getD 0 0
  let b := w.getD 1 0
  { img := bitsOf a 0 2, entry := bitsOf a 2 6, tileCore := bitsOf a 8 1 == 1, minr := bitsOf a 16 5, maxr := bitsOf a 24 5,
    homecl := bitsOf a 32 8, arg := bitsOf b 0 32, nregs := bitsOf b 32 5 }

/-- A queue entry of its words. -/
def pbQueue (w : List Nat) : PbQueue :=
  let a := w.getD 0 0
  { src := pbEnd (bitsOf a 0 16), dst := pbEnd (bitsOf a 16 16), wide := bitsOf a 32 1 == 1, logd := bitsOf a 33 4,
    ext := bitsOf a 37 8, slots := bitsOf a 45 8 }

/-- An operator entry of its words, its parameters taken from the argument block. -/
def pbOp (arg : List Byte) (w : List Nat) : PbOp :=
  let a := w.getD 0 0
  let b := w.getD 1 0
  let off := bitsOf b 0 32
  let n := bitsOf b 32 7
  let record (i : Nat) : Nat × Word :=
    (leValue (slice arg (off + 16 * i) 8) % 64, BitVec.ofNat 64 (leValue (slice arg (off + 16 * i + 8) 8)))
  { kind := bitsOf a 0 4, fold := bitsOf a 4 2, owner := bitsOf a 6 6, partner := bitsOf (w.getD 2 0) 0 8, ploff := off, plcnt := n,
    params := (List.range n).map record }

/-- A claim entry of its word. -/
def pbClaim (w : List Nat) : PbClaim :=
  let a := w.getD 0 0
  { stage := bitsOf a 0 6, claim := { slots := bitsOf a 8 7, banks := bitsOf a 16 6, tiles := bitsOf a 24 5 } }

/-- Words of a table cut into entries of n words. -/
def rowsOf (n count : Nat) (w : List Nat) : List (List Nat) := (List.range count).map fun i => (w.drop (n * i)).take n

/-! ## Ranges of the parts -/

/-- What the header gives: counts, offsets in bytes and the argument block's length. -/
structure PbHead where
  nstage : Nat
  nqueue : Nat
  nop : Nat
  nclaim : Nat
  arglen : Nat
  offs : List Nat
  argoff : Nat
  imgs : List Nat
  ok : Bool
  deriving DecidableEq, Repr

/-- The header of its eight words, and whether its fields lie within their limits. -/
def pbHead (w : List Nat) : PbHead :=
  let v (i : Nat) : Nat := w.getD i 0
  let ns := bitsOf (v 0) 16 7
  let nq := bitsOf (v 0) 32 11
  let no := bitsOf (v 0) 48 9
  let nc := bitsOf (v 1) 0 7
  let al := bitsOf (v 1) 32 32
  let imgs := (List.range 4).map fun i => v (4 + i) % 2 ^ 56
  { nstage := ns, nqueue := nq, nop := no, nclaim := nc, arglen := al,
    offs := (List.range 4).map fun i => 32 * bitsOf (v 2) (16 * i) 16, argoff := 32 * bitsOf (v 3) 0 16, imgs,
    ok := v 0 % 2 ^ 8 == 1 && 1 ≤ ns && ns ≤ 64 && nq ≤ 1024 && no ≤ 255 && nc ≤ 64 && al ≤ 1048576 && imgs.all fun a => a % 64 == 0 }

/-- Address and length of the parts of a playbill after its header. -/
def PbHead.parts (h : PbHead) (va : Nat) : List (Nat × Nat) :=
  let at_ (i : Nat) : Nat := va + h.offs.getD i 0
  [(at_ 0, 32 * h.nstage), (at_ 1, 16 * h.nqueue), (at_ 2, 64 * h.nop), (at_ 3, 8 * h.nclaim), (va + h.argoff, h.arglen)]

/-- Reads a playbill: its parts, or status XLATE or MALFORMED (R446, R448). -/
def State.readPlaybill (s : State) (pnum va : Nat) : Except Nat Playbill :=
  match (s.cpWords pnum va 8).1 with
  | none => .error 7
  | some w =>
    let h := pbHead w
    if !h.ok then .error 1
    else
      let d := (h.parts va).map fun p => if p.2 = 0 then some [] else (s.cpRead pnum p.1 p.2).1
      match d with
      | [some st, some qu, some op, some cl, some arg] =>
        .ok { stages := (rowsOf 4 h.nstage (wordsOf st)).map pbStage, queues := (rowsOf 2 h.nqueue (wordsOf qu)).map pbQueue,
              ops := (rowsOf 8 h.nop (wordsOf op)).map (pbOp arg), claims := (rowsOf 1 h.nclaim (wordsOf cl)).map pbClaim, arg,
              imgs := h.imgs }
      | _ => .error 7

/-! ## Checks (R418 to R422, R438, R446, R447) -/

/-- The kind of an operator entry. -/
def Playbill.kindOf (p : Playbill) (i : Nat) : Option OprKind := (p.ops[i]?).bind fun o => oprKindOf o.kind

/-- An end is a stage, or a port of an operator that takes the width, on the side that the entry gives it. -/
def Playbill.endOk (p : Playbill) (e : PbEnd) (out wide : Bool) : Bool :=
  match e with
  | .unbound => true
  | .stage i _ => i < p.stages.length
  | .op i port =>
    match p.kindOf i with
    | none => false
    | some k =>
      match k.portWidth port with
      | none => false
      | some w => w.takes wide && (16 ≤ port) == out

/-- A queue entry that stands for per-replica queues: stage, register, whether the replicas produce, and the operator (R420). -/
def Playbill.perReplica (p : Playbill) (q : PbQueue) : Option (Nat × Fin 16 × Bool × Nat) :=
  match q.src, q.dst with
  | .op i 16, .stage st r => if p.kindOf i = some .dist then some (st, r, false, i) else none
  | .stage st r, .op i 0 => if p.kindOf i = some .collect then some (st, r, true, i) else none
  | _, _ => none

/-- A BRIDGE end takes entries from a queue: it is the sending end (R438). -/
def Playbill.sends (p : Playbill) (i : Nat) : Bool :=
  p.queues.any fun q => match q.dst with
    | .op j _ => j == i
    | _ => false

/-- The end on the other side of the BRIDGE pair that a queue entry's producer end stands for, or that end itself (R438). -/
def Playbill.farSource (p : Playbill) (e : PbEnd) : PbEnd :=
  match e with
  | .op i _ =>
    if p.kindOf i = some .bridge then
      ((p.queues.find? fun q => match q.dst with
        | .op j _ => some j == (p.ops[i]?).map PbOp.partner
        | _ => false).map PbQueue.src).getD e
    else e
  | _ => e

/-- The end on the other side of the BRIDGE pair that a queue entry's consumer end stands for, or that end itself. -/
def Playbill.farSink (p : Playbill) (e : PbEnd) : PbEnd :=
  match e with
  | .op i _ =>
    if p.kindOf i = some .bridge then
      ((p.queues.find? fun q => match q.src with
        | .op j _ => some j == (p.ops[i]?).map PbOp.partner
        | _ => false).map PbQueue.dst).getD e
    else e
  | _ => e

/-- The stage that a DIST feeds, straight or through a BRIDGE pair (R436, R438, R447). -/
def Playbill.fedBy (p : Playbill) (i : Nat) : Option Nat :=
  if p.kindOf i != some .dist then none
  else p.queues.findSome? fun q => match q.src, p.farSink q.dst with
    | .op j 16, .stage st _ => if j = i then some st else none
    | _, _ => none

/-- A queue runs from a DIST to a replica, or from a replica to a COLLECT, and so is tagged; a BRIDGE pair keeps the tag (R141, R438). -/
def Playbill.tagged (p : Playbill) (q : PbQueue) : Bool :=
  match p.farSource q.src, p.farSink q.dst with
  | .op i _, .stage .. => p.kindOf i == some .dist
  | .stage .., .op i _ => p.kindOf i == some .collect
  | _, _ => false

/-- Parameter register 8 of a DIST or BRIDGE is the command processor's to write (R447). -/
def placedParam (k : OprKind) (n : Nat) : Bool := (k == .dist || k == .bridge) && n == 8

/-- The parameters of an operator are defined for its kind and in range. -/
def paramsOk (k : OprKind) (l : List (Nat × Word)) : Bool :=
  l.all fun e => placedParam k e.1 ||
    (match k.pregMask e.1 with
     | none => false
     | some m => k.pregOk e.1 (e.2 &&& m))

/-- An operator entry is well formed. -/
def Playbill.opOk (p : Playbill) (i : Nat) (o : PbOp) : Bool :=
  o.owner < p.stages.length && o.ploff % 16 == 0 && o.plcnt ≤ 64 && o.ploff + 16 * o.plcnt ≤ p.arg.length &&
    (o.partner == 0xFF || o.partner < p.ops.length) &&
    (match oprKindOf o.kind with
     | none => false
     | some k =>
       paramsOk k o.params &&
         (if k = .dist then o.partner == 0xFF || p.kindOf o.partner == some .collect
          else if k = .bridge then
            p.kindOf o.partner == some .bridge && ((p.ops[o.partner]?).map PbOp.partner) == some i && p.sends i != p.sends o.partner
          else true))

/-- A stage entry is well formed. -/
def Playbill.stageOk (p : Playbill) (i : Nat) (s : PbStage) : Bool :=
  1 ≤ s.minr && s.minr ≤ s.maxr && s.maxr ≤ 16 && (s.homecl < Config.clusters || s.homecl == 0xFF) && s.arg % 32 == 0 && s.nregs ≤ 16 &&
    s.arg + 32 * s.nregs ≤ p.arg.length &&
    (s.minr == s.maxr || (List.range p.ops.length).any fun j => p.fedBy j == some i)

/-- No end is named twice. -/
def Playbill.endsDiffer (p : Playbill) : Bool :=
  let l := p.queues.flatMap fun q => [q.src, q.dst]
  decide (l.filter fun e => e != .unbound).Nodup

/-- Step 1 of R448, the images left out. -/
def Playbill.ok (p : Playbill) : Bool :=
  p.stages.zipIdx.all (fun e => p.stageOk e.2 e.1) && p.ops.zipIdx.all (fun e => p.opOk e.2 e.1) &&
    p.queues.all (fun q => 1 ≤ q.logd && q.logd ≤ (if q.wide then 10 else 12) && p.endOk q.src true q.wide && p.endOk q.dst false q.wide) &&
    p.claims.all (fun c => c.stage < p.stages.length && c.claim.slots ≤ 120 && c.claim.banks ≤ 32 && c.claim.tiles ≤ 16) &&
    p.endsDiffer

/-! ## Images (R297, R457) -/

/-- An image object whose header is well formed. -/
def imageHead (d : List Byte) : Option (Nat × List Nat) :=
  let v (i : Nat) : Nat := leValue (slice d i 4)
  if v 0 = 1 ∧ 1 ≤ v 8 ∧ v 8 ≤ 64 then some (v 4, (List.range (v 8)).map fun i => v (0x40 + 4 * i)) else none

/-- Reads the image object at a virtual address; the code of an image too long for any core, which step 7 of R448 refuses, is not read
(R297). -/
def State.readImage (s : State) (pnum va : Nat) : Except Nat ImageObj :=
  match (s.cpRead pnum va 0x140).1 with
  | none => .error 7
  | some d =>
    match imageHead d with
    | none => .error 1
    | some (n, entries) =>
      if 8192 < n then .ok { nunits := n, entries, code := [] }
      else
        match (s.cpRead pnum (va + 0x140) (12 * n)).1 with
        | none => .error 7
        | some code => .ok { nunits := n, entries, code }

/-- The word of an instruction of the default handler. -/
def handlerWord (i : Instr) : List Byte := ((encode i).map wordBytes).getD []

/-- The firmware's default trap handler: it forwards every fault, ACT = 1 (R457, R539). -/
def defaultHandler : ImageObj :=
  let h : Hdr := { gpred := 7, gsense := false, issue := .none, last := false, mig := .auto }
  { nunits := 3, entries := [0],
    code := handlerWord (.movi { Fields.blank h with d := .g 0 0, a := .wide 0x10000 }) ++
      handlerWord (.sets { Fields.blank h with d := .s .cause, a := .g 0 0 }) ++ handlerWord (.tret (Fields.blank h)) }

/-- A partition's trap handler; the code of one too long for any core is checked as its bytes are read, and not kept (R457). -/
def State.readHandler (s : State) (p : Part) : Except Nat ImageObj :=
  if p.himg = 0 then .ok defaultHandler
  else
    let refusal (a n : Nat) : Option Nat :=
      if (paClass a != 0 && paClass a != 1) || !p.region a n then some 1
      else if !paRangeExists a n || s.lines.any (fun (e : Nat × Line) => e.2.poison && e.1 * 64 < a + n && a < e.1 * 64 + 64) then some 7
      else none
    match refusal p.himg 0x140 with
    | some e => .error e
    | none =>
      match imageHead (s.physBytes p.himg 0x140) with
      | none => .error 1
      | some (n, entries) =>
        if entries.headD 1 ≠ 0 then .error 1
        else
          match refusal (p.himg + 0x140) (12 * n) with
          | some e => .error e
          | none => .ok { nunits := n, entries, code := if 8192 < n then [] else s.physBytes (p.himg + 0x140) (12 * n) }

end Sys2Proof.Machine
end

