-- ==== Sys2Proof/Machine/Launch.lean ====
section
/-! DEFINITION. Starting a launch and retiring one (R141 to R146, R170, R222, R243 to R250, R267, R297, R419, R420, R436, R447 to R451,
R457, R464, R502, R506, R513, R535 to R537). -/

namespace Sys2Proof.Machine

/-! ## Images (R448, R535) -/

/-- The image that a launch places for an image slot: the trap handler and the code above it. -/
def placedImage (h i : ImageObj) : Image :=
  { base := h.nunits, nunits := i.nunits, entries := i.entries, code := h.code ++ i.code }

/-- An image id is in use: some core or task holds it. -/
def State.imageUsed (s : State) (id : Nat) : Bool :=
  (s.cores.any fun (e : Nat × Core) => e.2.img.toNat == id) || s.ctxs.any fun (e : Nat × Ctx) => e.2.task && e.2.img.toNat == id

/-- The id of an image: that of an equal one, or the lowest that is free, which none of those given in the same start is. -/
def State.imageId (s : State) (given : List Nat) (i : Image) : Nat × State :=
  match s.images.findKey fun _ j => j == i with
  | some id => (id, s)
  | none =>
    let id := (((List.range 65536).drop 1).find? fun n => !given.contains n && ((s.images.look n).isNone || !s.imageUsed n)).getD 0
    (id, { s with images := s.images.put id i })

/-- A core holds a live task, or one is on its way to it. -/
def State.liveOn (s : State) (c : Coord) : Bool :=
  (s.ctxs.any fun (e : Nat × Ctx) => e.2.task && e.2.core == c) ||
    s.pkts.any fun (e : Nat × Packet) => match e.2 with
      | .spawn _ core => core == c
      | _ => false

/-! ## Placement (R419, R420, R424, R438, R448 step 4) -/

/-- Where the stages and operators of a launch go: a cluster and cores by stage; cluster, tile and slot by operator. -/
structure Plan where
  clusters : List Nat
  cores : List (List Coord)
  ops : List (Nat × Nat × Nat)
  deriving DecidableEq, Repr

/-- A stage may be placed on a core: its kind, and the image it holds or would hold (R448). -/
def State.coreFits (s : State) (idle : Bool) (placed : List (Coord × Nat)) (img : Nat) (st : PbStage) (c : Coord) : Bool :=
  isTile c == st.tileCore && (placed.all fun e => e.1 != c || e.2 == img) &&
    (idle || (s.coreAt c).img == 0 || (s.coreAt c).img.toNat == img || !s.liveOn c)

/-- Slots that a plan can take on a core. -/
def State.coreRoom (s : State) (idle : Bool) (placed : List (Coord × Nat)) (c : Coord) : Nat :=
  (if idle then 15 else ((s.clusterAt (clusterOf c)).freeSlots c).length) - (placed.filter fun e => e.1 == c).length

/-- The cores of a cluster for the least number of replicas of a stage, filled in local index order. -/
def State.stageCores (s : State) (idle : Bool) (placed : List (Coord × Nat)) (img : Nat) (st : PbStage) (cl : Nat) :
    Option (List Coord) :=
  let l := ((clusterCores cl).filter fun c => s.coreFits idle placed img st c).flatMap fun c =>
    List.replicate (s.coreRoom idle placed c) c
  if l.length < st.minr then none else some (l.take st.minr)

/-- Clusters of a pitch in ascending order. -/
def Part.clusters (p : Part) : List Nat := (List.range Config.clusters).filter p.pitch.getLsbD

/-- The stage of an end: an operator stands with its owner (R419). -/
def Playbill.stageOf (pb : Playbill) (e : PbEnd) : Option Nat :=
  match e with
  | .unbound => none
  | .stage i _ => some i
  | .op i _ => (pb.ops[i]?).map PbOp.owner

/-- The dies of the stages placed so far, by their clusters, suit the queues and BRIDGE pairs between them: the ends of each queue lie on one
die, those of a BRIDGE pair on two (R143, R420, R438). -/
def Playbill.diesFit (pb : Playbill) (clusters : List Nat) : Bool :=
  let die (i : Nat) : Option Nat := (clusters[i]?).map (· / 24)
  (pb.queues.all fun q => match (pb.stageOf q.src).bind die, (pb.stageOf q.dst).bind die with
    | some a, some b => a == b
    | _, _ => true) &&
  pb.ops.all fun o => oprKindOf o.kind != some .bridge ||
    (match die o.owner, ((pb.ops[o.partner]?).map PbOp.owner).bind die with
     | some a, some b => a != b
     | _, _ => true)

/-- Virtual operators of other work stand on a tile. -/
def State.tileUsed (s : State) (cl tile : Nat) : Bool := s.oprs.any fun (e : Nat × Opr) => e.2.cl == cl && e.2.tile.val == tile

/-- Places the operators in entry order, those of one FOLD and cluster together on a tile until it is full. `open_` lists the tiles
taken: cluster, tile, FOLD and how many operators it has. -/
def State.planOps (s : State) (idle : Bool) (home : Nat → Nat) (open_ : List (Nat × Nat × Nat × Nat)) (l : List PbOp) :
    Option (List (Nat × Nat × Nat)) :=
  match l with
  | [] => some []
  | o :: r =>
    let cl := home o.owner
    match open_.find? fun t => t.1 == cl && t.2.2.1 == o.fold && t.2.2.2 ≤ o.fold with
    | some t =>
      let open_ := open_.map fun u => if u == t then (t.1, t.2.1, t.2.2.1, t.2.2.2 + 1) else u
      (s.planOps idle home open_ r).map fun rest => (cl, t.2.1, t.2.2.2) :: rest
    | none =>
      match (List.range 4).find? fun t => !(open_.any fun u => u.1 == cl && u.2.1 == t) && (idle || !s.tileUsed cl t) with
      | none => none
      | some t => (s.planOps idle home ((cl, t, o.fold, 1) :: open_) r).map fun rest => (cl, t, 0) :: rest

/-! ## Storage of queues (R143, R147) -/

/-- Bytes of an entry's slot image (R147). -/
def PbQueue.image (q : PbQueue) : Nat := if q.wide then 48 else 16

/-- Depth (R446). -/
def PbQueue.depth (q : PbQueue) : Nat := 2 ^ q.logd

/-- Queue-slot units (R143). -/
def PbQueue.units (q : PbQueue) : Nat := q.depth * (if q.wide then 4 else 1)

/-- The core of the first replica of a stage. -/
def Plan.core (p : Plan) (i : Nat) : Coord := (p.cores.getD i []).headD 0

/-- The core on which a queue between two stages is placed (R143). -/
def Plan.coreOf (p : Plan) (q : PbQueue) : Option Coord :=
  match q.src, q.dst with
  | .stage a _, .stage b _ => if p.core a = p.core b ∧ q.depth ≤ (if q.wide then 64 else 256) then some (p.core a) else none
  | _, _ => none

/-- Queue-slot units that a launch takes on a core. -/
def Playbill.unitsOn (pb : Playbill) (p : Plan) (c : Coord) : Nat :=
  ((pb.queues.filter fun q => p.coreOf q == some c).map PbQueue.units).sum

/-! ## The search for a plan (R448 step 4) -/

/-- The stages placed so far can stand so, with their operators placed: dies, tiles and queue-slot units suffice; `idle` asks as though
nothing else held tiles or units. -/
def State.prefixPlan (s : State) (idle : Bool) (pb : Playbill) (clusters : List Nat) (cores : List (List Coord)) : Option Plan :=
  if !pb.diesFit clusters then none
  else
    match s.planOps idle (fun i => clusters.getD i 0) [] (pb.ops.filter fun o => o.owner < clusters.length) with
    | none => none
    | some ops =>
      let p : Plan := { clusters, cores, ops }
      if cores.flatten.eraseDups.all fun c =>
          (if idle then 0 else s.unitsUsed c) + pb.unitsOn p c ≤ Config.queueSlotUnits then some p
      else none

/-- Places the stages in entry order, each in its HOMECL or in the first cluster of the pitch, in ascending global index, with which the rest
of the launch can be placed too. -/
def State.planStages (s : State) (p : Part) (pb : Playbill) (idle : Bool) (imgs : List Nat) (sofar : Plan) (placed : List (Coord × Nat))
    (l : List PbStage) : Option Plan :=
  match l with
  | [] => some sofar
  | st :: r =>
    let img := imgs.getD st.img 0
    (p.clusters.filter fun c => st.homecl = 0xFF || c == st.homecl).findSome? fun c =>
      (s.stageCores idle placed img st c).bind fun l =>
        (s.prefixPlan idle pb (sofar.clusters ++ [c]) (sofar.cores ++ [l])).bind fun next =>
          s.planStages p pb idle imgs next (placed ++ l.map fun x => (x, img)) r

/-- A plan for a launch; `idle` plans as though nothing else held slots, cores, tiles or units. A stage that no cluster of the pitch can hold
alone leaves none. -/
def State.plan (s : State) (p : Part) (idle : Bool) (imgs : List Nat) (pb : Playbill) : Option Plan :=
  let alone (st : PbStage) : Bool := (p.clusters.filter fun c => st.homecl = 0xFF || c == st.homecl).any fun c =>
    (s.stageCores idle [] (imgs.getD st.img 0) st c).isSome
  if pb.stages.all alone then s.planStages p pb idle imgs { clusters := [], cores := [], ops := [] } [] pb.stages else none

/-! ## Rings (R143, R144, R420, R449) -/

/-- Queues of an entry: 16 for a per-replica one (R420). -/
def Playbill.fan (pb : Playbill) (q : PbQueue) : Nat := if (pb.perReplica q).isSome then 16 else 1

/-- The stage in whose company's FIFO banks the rings of a queue entry lie, if launch places them (R449). -/
def Playbill.ringOwner (pb : Playbill) (p : Plan) (q : PbQueue) : Option Nat :=
  match q.dst with
  | .unbound => none
  | .op i _ => (pb.ops[i]?).map PbOp.owner
  | .stage i _ => if (p.coreOf q).isSome then none else some i

/-- A ring of a company: queue entry, replica, bank of the request, offset and size. -/
structure RingAt where
  queue : Nat
  replica : Nat
  bank : Nat
  off : Nat
  size : Nat
  deriving DecidableEq, Repr

/-- Places one more ring, first fit, in the lowest bank that has room, or in a new one. -/
def addRing (l : List RingAt) (queue replica img size : Nat) : List RingAt :=
  let used (b : Nat) : List (Nat × Nat) := (l.filter fun r => r.bank == b).map fun r => (r.off, r.size)
  match (List.range (l.length + 1)).findSome? fun b => (firstFit (used b) img size).map fun o => (b, o) with
  | none => l
  | some (b, o) => l ++ [{ queue, replica, bank := b, off := o, size }]

/-- The rings of the company of a stage, in queue-entry order. -/
def Playbill.rings (pb : Playbill) (p : Plan) (stage : Nat) : List RingAt :=
  pb.queues.zipIdx.foldl (fun (l : List RingAt) e =>
    if pb.ringOwner p e.1 = some stage then
      (List.range (pb.fan e.1)).foldl (fun (l : List RingAt) k => addRing l e.2 k e.1.image (e.1.depth * e.1.image)) l
    else l) []

/-- Banks that rings take. -/
def ringBanks (l : List RingAt) : Nat := (l.map fun r => r.bank + 1).foldl Nat.max 0

/-- The claim of a stage's company: its claim entry's, or (MAXR, FIFO banks, 0) (R446). -/
def Playbill.claimOf (pb : Playbill) (i : Nat) (st : PbStage) (banks : Nat) : Triple :=
  match pb.claims.find? fun c => c.stage == i with
  | some c => c.claim
  | none => { slots := st.maxr, banks, tiles := 0 }

/-! ## Companies (R243, R250, R448 step 5, R449, R536, R537) -/

/-- What step 5 gives a stage: its company's number, its slots, and the logical banks of its rings. -/
structure Taken where
  company : Nat
  slots : List (Coord × Nat)
  lbanks : List Nat
  deriving DecidableEq, Repr

/-- Acquires one slot on a core. -/
def State.takeSlotFor (s : State) (cl n : Nat) (c : Coord) : Option (Nat × State) :=
  let q : Triple := { slots := 1, banks := 0, tiles := 0 }
  if (s.clusterAt cl).boxCheck n q c false = .granted then
    let (g, s) := (s.countBox cl .granted).boxGrant cl n q c .cache
    some (g.slot, s)
  else none

/-- Acquires a slot on each core of a list. -/
def State.takeSlots (s : State) (cl n : Nat) (l : List Coord) : Option (List (Coord × Nat) × State) :=
  match l with
  | [] => some ([], s)
  | c :: r =>
    match s.takeSlotFor cl n c with
    | none => none
    | some (i, s) => (s.takeSlots cl n r).map fun e => ((c, i) :: e.1, e.2)

/-- Acquires FIFO banks, switched. -/
def State.takeBanks (s : State) (cl n banks : Nat) : Option (List Nat × State) :=
  if banks = 0 then some ([], s)
  else
    let q : Triple := { slots := 0, banks, tiles := 0 }
    if (s.clusterAt cl).boxCheck n q (clusterCoord cl) false = .granted then
      let (g, s) := (s.countBox cl .granted).boxGrant cl n q (clusterCoord cl) .fifo
      let s := ((s.clusterAt cl).banksOf n).foldl (fun (s : State) b => s.switchBank cl b) s
      some ((List.range 32).filter g.lbanks.getLsbD, s)
    else none

/-- Step 5 for one stage: a refusal, resources in use, or what it takes; requests that the box office is still to decide come first (R251,
R253). -/
def State.takeStage (s : State) (pnum launch cl : Nat) (claim : Triple) (cores : List Coord) (banks : Nat) :
    Except Nat (Option (Taken × State)) :=
  let c := s.clusterAt cl
  match (List.range 16).find? fun n => (c.companies.look n).isNone with
  | none => .error 2
  | some n =>
    let c' : Cluster := { c with companies := c.companies.put n (Company.fresh pnum launch true claim) }
    if s.boxBusy cl || !c'.safe (fun i => ((c'.companies.look i).map Company.claim).getD .zero) c'.holdings then .ok none
    else
      match (s.setCluster cl c').takeSlots cl n cores with
      | none => .ok none
      | some (slots, s) => .ok ((s.takeBanks cl n banks).map fun e => ({ company := n, slots, lbanks := e.1 }, e.2))

/-- Step 5 for every stage in entry order. -/
def State.takeStages (s : State) (pnum launch : Nat) (l : List (Nat × Triple × List Coord × Nat)) :
    Except Nat (Option (List Taken × State)) :=
  match l with
  | [] => .ok (some ([], s))
  | (cl, claim, cores, banks) :: r =>
    match s.takeStage pnum launch cl claim cores banks with
    | .error e => .error e
    | .ok none => .ok none
    | .ok (some (t, s)) => (s.takeStages pnum launch r).map fun o => o.map fun e => (t :: e.1, e.2)

/-! ## Loading (R267, R297, R448 step 7, R457, R535) -/

/-- An image and the handler are written to a core, and its code register is set. -/
def State.loadCore (s : State) (c : Coord) (id ovl : Nat) (i : Image) : State :=
  ((s.setTier (localPa c 0) i.code).clearBad (localPa c 0) i.code.length).updCore c fun x =>
    { x with xb := BitVec.ofNat 14 (i.base + i.nunits), ovl := BitVec.ofNat 14 ovl, img := BitVec.ofNat 16 id }

/-- One image is loaded on the cores of a cluster: not where a stage of another image goes, nor where a live task runs another. -/
def State.loadCluster (s : State) (placed : List (Coord × Nat)) (cl id ovl : Nat) (i : Image) : State :=
  (clusterCores cl).foldl (fun (s : State) c =>
    let other := placed.any fun e => e.1 == c && e.2 != id
    let busy := (s.coreAt c).img.toNat != 0 && (s.coreAt c).img.toNat != id && s.liveOn c
    if other || busy then s else s.loadCore c id ovl i) s

/-! ## Queues and operators (R141, R144, R419, R420, R447, R448 step 8) -/

/-- The operator's key under a plan. -/
def Plan.oprKey (p : Plan) (i : Nat) : Nat :=
  let o := p.ops.getD i (0, 0, 0)
  Machine.oprKey o.1 (Fin.ofNat 4 o.2.1) (Fin.ofNat 4 o.2.2)

/-- An end names a BRIDGE. -/
def Playbill.bridges (pb : Playbill) (e : PbEnd) : Bool :=
  match e with
  | .op i _ => pb.kindOf i == some .bridge
  | _ => false

/-- The playbill routes a queue through a BRIDGE pair. -/
def Playbill.bridged (pb : Playbill) (q : PbQueue) : Bool := pb.bridges q.src || pb.bridges q.dst

/-- Place of the queue of an entry and replica at launch: on a core, a bridge, or a ring (R143, R144). -/
def Playbill.placeOf (pb : Playbill) (p : Plan) (taken : List Taken) (q : PbQueue) (index replica : Nat) : QPlace :=
  match p.coreOf q with
  | some c => .core c
  | none =>
    match pb.ringOwner p q with
    | none => .unplaced
    | some i =>
      match (pb.rings p i).find? fun r => r.queue == index && r.replica == replica, taken[i]? with
      | some r, some t =>
        let bank := t.lbanks.getD r.bank 0
        if pb.bridged q then .bridge (p.clusters.getD i 0) t.company bank r.off else .ring (p.clusters.getD i 0) t.company bank r.off
      | _, _ => .unplaced

/-- A queue of an entry, its operator ends bound. -/
def Playbill.newQueue (pb : Playbill) (p : Plan) (pnum launch : Nat) (taken : List Taken) (q : PbQueue) (index replica : Nat) : Queue :=
  let port (e : PbEnd) : QEnd := match e with
    | .op i n => .port (p.oprKey i) (n + replica)
    | _ => .unbound
  let new : Queue :=
    { pnum, launch, qnum := index, wide := q.wide, depth := q.depth, ext := q.ext, tagged := pb.tagged q,
      bridged := pb.bridged q, place := pb.placeOf p taken q index replica, prod := port q.src,
      cons := port q.dst, entries := [], inRing := 0, transit := [], credits := 0, returning := 0, marker := none,
      carrier := .empty, knows := [], pushed := 0, taken := 0, discards := false, reserve := false }
  match q.dst with
  | .op .. => { new with credits := new.capacity }
  | _ => new

/-- The stage ends of a queue entry, by which its registers are bound. -/
def Playbill.stageEnds (pb : Playbill) (q : PbQueue) (numbers : List Nat) : List RepQueue :=
  let ends (e : PbEnd) (prod : Bool) : List RepQueue := match e with
    | .stage i r => [{ stage := i, reg := r, prod, queues := numbers }]
    | _ => []
  match pb.perReplica q with
  | some (i, r, prod, _) => [{ stage := i, reg := r, prod, queues := numbers }]
  | none => ends q.src true ++ ends q.dst false

/-- Ports of an operator on one side of the queues: port and queue number. -/
def portsOf (key : Nat) (out : Bool) (qs : List (Nat × Queue)) : Tbl Nat :=
  qs.foldl (fun (t : Tbl Nat) e => match (if out then e.2.prod else e.2.cons) with
    | .port k n => if k = key then t.put n e.1 else t
    | _ => t) []

/-- Parameter register 8 of a DIST: MINR, MAXR, CCORE and CTV (R447). -/
def Playbill.distParam (pb : Playbill) (p : Plan) (i : Nat) (o : PbOp) : Word :=
  let (a, b) := match (pb.fedBy i).bind fun st => pb.stages[st]? with
    | some st => (st.minr, st.maxr)
    | none => (1, 1)
  let c := p.ops.getD o.partner (0, 0, 0)
  let pair := if o.partner = 0xFF then 0 else (clusterCoord c.1).toNat * 2 ^ 24 + (c.2.1 * 4 + c.2.2) * 2 ^ 40
  BitVec.ofNat 64 (a + b * 2 ^ 8 + pair)

/-- Parameter register 8 of a BRIDGE: END, PCORE and PTV (R447). -/
def Playbill.bridgeParam (pb : Playbill) (p : Plan) (i : Nat) (o : PbOp) : Word :=
  let c := p.ops.getD o.partner (0, 0, 0)
  BitVec.ofNat 64 ((if pb.sends i then 0 else 1) + (clusterCoord c.1).toNat * 2 ^ 16 + (c.2.1 * 4 + c.2.2) * 2 ^ 32)

/-- An operator of a launch, in state running (R419). -/
def Playbill.newOpr (pb : Playbill) (p : Plan) (pnum launch : Nat) (taken : List Taken) (qs : List (Nat × Queue)) (i : Nat) (o : PbOp)
    (kind : OprKind) : Opr :=
  let at_ := p.ops.getD i (0, 0, 0)
  let key := p.oprKey i
  let given := (o.params.filter fun e => !placedParam kind e.1 && kind.pregMask e.1 != some 0).foldl
    (fun (t : Tbl Word) e => t.put e.1 (e.2 &&& (kind.pregMask e.1).getD 0)) []
  let pregs := if kind = .dist then given.put 8 (pb.distParam p i o) else if kind = .bridge then given.put 8 (pb.bridgeParam p i o) else given
  let fed := (pb.fedBy i).bind fun st => (pb.stages[st]?).map fun e => (st, e.minr)
  { pnum, launch, cl := at_.1, tile := Fin.ofNat 4 at_.2.1, vslot := Fin.ofNat 4 at_.2.2, fold := Fin.ofNat 4 o.fold, kind,
    company := ((taken[o.owner]?).map Taken.company).getD 0, stage := (fed.map Prod.fst).getD o.owner, state := .running,
    stopping := false, retrying := false, actedAt := 0, pregs, items := 0, ostall := 0, istall := 0, code := 0, va := 0, ins := portsOf key false qs,
    outs := portsOf key true qs, know := .empty, idx := [], seqOut := [], seqDone := false, slots := [], nth := 0, nfault := 0,
    staging := [], live := BitVec.ofNat 16 (2 ^ (fed.map Prod.snd).getD 0 - 1), tagNext := 0, growFrames := 0, frameAt := 0,
    idleFrames := [], steals := 0, grows := 0, shrinks := 0, refused := 0, recs := [], next := 0, emitted := 0, served := 0,
    cuePayload := none, short := 0, stray := 0, dropc := 0, lastIn := 0, acc := 0, amax := 0, drops := 0, wire := [],
    partner := if o.partner = 0xFF then none else some (p.oprKey o.partner) }

/-! ## Replay of a launch (R502, R506, R513) -/

/-- The placement digest: the cores of the stage tasks and the tiles of the operators, in playbill order. -/
def placementDigest (pb : Playbill) (p : Plan) : Nat :=
  (crc64 ((p.cores.flatten.flatMap fun c => leBytes 2 c.toNat) ++
    (List.range pb.ops.length).flatMap fun i =>
      let o := p.ops.getD i (0, 0, 0)
      leBytes 2 (clusterCoord o.1).toNat ++ leBytes 1 (o.2.1 * 4 + o.2.2))).toNat

/-- The mode that a launch takes (R502, R513). -/
def State.launchMode (s : State) (pnum : Nat) : Nat :=
  let mode := (s.streamReg pnum 8).toNat % 4
  let orpb := s.streamReg pnum 9
  let within := (List.range Config.dies).all fun d => (s.part pnum).region (logBase orpb d) (64 + 32 * logCap orpb)
  let allowed := match (s.policyOf pnum).replay with
    | 0 => false
    | 1 => within
    | _ => true
  if mode = 3 || !allowed || s.launches.any fun (e : Nat × Launch) => e.2.pnum == pnum && e.2.mode == 2 then 0 else mode

/-- A recording launch begins its logs (R502). -/
def State.startLogs (s : State) (pnum launch digest : Nat) : State :=
  (List.range Config.dies).foldl (fun (s : State) d =>
    let a := logBase (s.orpbOf pnum launch) d
    let s := (s.logWrite pnum launch a 0).logWrite pnum launch (a + 8) digest
    { s with replayWritten := s.replayWritten.del (launchKey pnum launch * 8 + d) }) s

/-- A launch begins to record, or to replay, where a placement that differs is a divergence (R506). -/
def State.startReplay (s : State) (pnum launch digest : Nat) : State :=
  match s.modeOf pnum launch with
  | 1 => s.startLogs pnum launch digest
  | 2 =>
    let (d, s) := s.logRead pnum launch (logBase (s.orpbOf pnum launch) 0 + 8)
    if d = digest then s
    else
      s.diverge pnum launch { ty := 0, die := 0, gtid := 0, digest := 0, coord := 0, arg := 0, value := 0 } 0
  | _ => s

/-! ## The start (R448) -/

/-- The next launch number of a partition (R450). -/
def State.launchNumber (s : State) (pnum : Nat) : Nat :=
  let n := (s.part pnum).nextLaunch
  (((List.range (s.launches.length + 2)).map fun i => (n + i) % 2 ^ 18).find? fun i =>
    i != 0 && (s.launches.look (launchKey pnum i)).isNone).getD 1

/-- What step 8 needs. -/
structure Ready where
  pnum : Nat
  number : Nat
  vf : Nat
  qid : Nat
  entry : SubEntry
  pb : Playbill
  plan : Plan
  taken : List Taken
  /-- Image ids by image slot, and the images. -/
  imgs : List Nat
  images : List (Option Image)
  deriving DecidableEq, Repr

/-- A stage of a launch as placed. -/
def Ready.stage (r : Ready) (i : Nat) (st : PbStage) : Stage :=
  let img := (r.images.getD st.img none)
  { img := r.imgs.getD st.img 0, tileCore := st.tileCore, minr := st.minr, maxr := st.maxr, cl := r.plan.clusters.getD i 0,
    entry := ((img.map Image.base).getD 0) + ((img.map Image.entries).getD []).getD st.entry 0,
    company := ((r.taken[i]?).map Taken.company).getD 0, nregs := st.nregs,
    init := (List.range st.nregs).map fun k => BitVec.ofNat 256 (leValue (slice r.pb.arg (st.arg + 32 * k) 32)) }

/-- The queues of a launch in entry order: entry, then its queues with their numbers. -/
def Ready.queues (r : Ready) (first : Nat) : List (Nat × List (Nat × Queue)) :=
  (r.pb.queues.zipIdx.foldl (fun (acc : List (Nat × List (Nat × Queue)) × Nat) e =>
    let n := r.pb.fan e.1
    let l := (List.range n).map fun k => (acc.2 + k, r.pb.newQueue r.plan r.pnum r.number r.taken e.1 e.2 k)
    (acc.1 ++ [(e.2, l)], acc.2 + n)) ([], first)).1

/-- Step 8 (R448) but for its tasks: queues, operators and the launch. -/
def State.build (s : State) (r : Ready) : State :=
  let groups := r.queues s.fresh
  let qs := groups.flatMap Prod.snd
  let s := { s with fresh := s.fresh + qs.length, queues := qs.foldl (fun (t : Tbl Queue) (e : Nat × Queue) => t.put e.1 e.2) s.queues,
                    reserved := (groups.zip r.pb.queues).foldl (fun (t : Tbl Nat) (e : (Nat × List (Nat × Queue)) × PbQueue) =>
                      if e.2.slots = 0 then t else e.1.2.foldl (fun (t : Tbl Nat) (q : Nat × Queue) => t.put q.1 e.2.slots) t) s.reserved }
  let oprs := r.pb.ops.zipIdx.foldl (fun (t : Tbl Opr) e => match oprKindOf e.1.kind with
    | none => t
    | some k => t.put (r.plan.oprKey e.2) (r.pb.newOpr r.plan r.pnum r.number r.taken qs e.2 e.1 k)) s.oprs
  let reps := (groups.zip r.pb.queues).flatMap fun e => r.pb.stageEnds e.2 (e.1.2.map Prod.fst)
  let stages := r.pb.stages.zipIdx.map fun e => r.stage e.2 e.1
  let l : Launch :=
    { pnum := r.pnum, number := r.number, vf := r.vf, qid := r.qid, cell := r.entry.cell, utag := r.entry.utag, stages,
      companies := (r.plan.clusters.zip r.taken).map fun e => (e.1, e.2.company),
      queues := groups.foldl (fun (t : Tbl Nat) e => match e.2 with
        | [] => t
        | q :: _ => t.put e.1 q.1) [],
      reps, killCode := none, cancelled := false, dying := false, defHandler := (s.part r.pnum).himg = 0,
      todo := r.taken.zipIdx.flatMap fun t => t.1.slots.zipIdx.map fun e => (t.2, e.2, e.1.1, e.1.2), digest := placementDigest r.pb r.plan,
      mode := s.launchMode r.pnum, orpb := s.streamReg r.pnum 9, anywhere := (s.policyOf r.pnum).replay == 2 }
  { s with oprs, launches := s.launches.put (launchKey r.pnum r.number) l }

/-- The command processor has written CGRB of every company of a launch (R464). -/
def State.roomsGiven (s : State) (l : Launch) : Bool :=
  l.companies.all fun e => match s.company? e.1 e.2 with
    | none => true
    | some co => co.cgrb != 0 && ((s.clusterAt e.1).divertOf e.2).isNone

/-- The stage tasks of a launch start, once each of its companies has its green room (R448 step 8, R464). -/
def State.startTasks (s : State) (l : Launch) : State :=
  let key := launchKey l.pnum l.number
  let s := { s with launches := s.launches.upd key fun l => { l with todo := [] } }
  let s := s.trace (clusterCoord ((l.stages.head?.map Stage.cl).getD 0)) l.pnum 1 (makeGtid l.pnum l.number 0) 0 (l.utag.setWidth 64)
  let s := s.startReplay l.pnum l.number l.digest
  l.todo.foldl (fun (s : State) e => s.startReplica key e.1 e.2.1 e.2.2.1 e.2.2.2) s

/-- A launch whose tasks can start. -/
def State.startable (s : State) : Option Launch :=
  (s.launches.find? fun (e : Nat × Launch) =>
    !e.2.todo.isEmpty && !e.2.dying && !e.2.cancelled && !s.changing e.2.pnum && s.roomsGiven e.2).map Prod.snd

/-- Step 1: the playbill, the handler, the images by slot, those that no stage names among them (R448). -/
def State.readLaunch (s : State) (pnum : Nat) (e : SubEntry) : Except Nat (Playbill × ImageObj × List (Option ImageObj)) :=
  match s.readPlaybill pnum e.pb with
  | .error n => .error n
  | .ok pb =>
    let read (i : Nat) : Except Nat (Option ImageObj) :=
      let a := pb.imgs.getD i 0
      if a = 0 then .ok none else (s.readImage pnum a).map some
    match s.readHandler (s.part pnum), read 0, read 1, read 2, read 3 with
    | .ok h, .ok a, .ok b, .ok c, .ok d =>
      let l := [a, b, c, d]
      let entryOk (st : PbStage) : Bool := match l.getD st.img none with
        | none => true
        | some i => st.entry < i.entries.length
      if pb.ok && pb.stages.all entryOk then .ok (pb, h, l) else .error 1
    | .error n, _, _, _, _ => .error n
    | _, .error n, _, _, _ => .error n
    | _, _, .error n, _, _ => .error n
    | _, _, _, .error n, _ => .error n
    | _, _, _, _, .error n => .error n

/-- The addresses that step 1 reads, each with a length. -/
def State.launchReads (s : State) (pnum : Nat) (e : SubEntry) : List (Nat × Nat) :=
  let head := ((s.cpWords pnum e.pb 8).1).map pbHead
  let parts := (head.map fun h => h.parts e.pb).getD []
  let images := ((head.map PbHead.imgs).getD []).filter (· != 0)
  (e.pb, 64) :: parts.filter (fun p => p.2 != 0) ++ images.flatMap fun a =>
    let n := match (s.cpRead pnum a 0x140).1 with
      | none => 0
      | some d => leValue (slice d 4 4)
    [(a, 0x140 + if 8192 < n then 0 else 12 * n)]

/-- The walks of those reads set A (R40). -/
def State.touch (s : State) (pnum : Nat) (l : List (Nat × Nat)) : State := l.foldl (fun (s : State) e => (s.cpRead pnum e.1 e.2).2) s

/-- The policy of a partition has expired (R448 step 2, R510). -/
def State.policyPast (s : State) (pnum : Nat) : Bool :=
  match (s.part pnum).policy with
  | none => false
  | some p => s.policyExpired p

/-- Slots per frame of a partition's link share that its queues have reserved (R170). -/
def State.slotsReserved (s : State) (pnum : Nat) : Nat :=
  (s.reserved.filterMap fun (e : Nat × Nat) => if (s.queue? e.1).any (fun q => q.pnum == pnum) then some e.2 else none).sum

/-- Slots per frame that a playbill's queues reserve. -/
def Playbill.slotsWanted (pb : Playbill) : Nat := (pb.queues.map fun q => q.slots * pb.fan q).sum

/-- Slots that a partition's share of a link can hold: never slot 0 of the frame (R169, R170). -/
def slotShare (pnum : Nat) : Nat := min 255 (Config.linkShare pnum)

/-- Steps 5 to 8 for a plan: a status that refuses, resources in use, or the launch, its tasks still to start (R448). -/
def State.startPlan (s : State) (v qid pnum number : Nat) (e : SubEntry) (pb : Playbill) (h : ImageObj) (imgs : List Nat)
    (images : List (Option Image)) (plan : Plan) : Except Nat (Option State) :=
  let need := (List.range pb.stages.length).map fun i => ringBanks (pb.rings plan i)
  let claims := pb.stages.zipIdx.map fun x => pb.claimOf x.2 x.1 (need.getD x.2 0)
  if (claims.zip (pb.stages.zip need)).any fun x =>
      x.1.slots < x.2.1.minr || x.1.banks < x.2.2 || 120 < x.1.slots || 32 < x.1.banks || 16 < x.1.tiles then .error 2
  else
    match s.takeStages pnum number ((plan.clusters.zip (claims.zip (plan.cores.zip need)))) with
    | .error n => .error n
    | .ok none => .ok none
    | .ok (some (taken, s)) =>
      if slotShare pnum < pb.slotsWanted then .error 5
      else if slotShare pnum < s.slotsReserved pnum + pb.slotsWanted then .ok none
      else if pb.stages.any (fun st => (images.getD st.img none).isNone) ||
          images.any (fun i => match i with
            | none => false
            | some i => 8192 < i.base + i.nunits) then .error 6
      else
        let placed := (pb.stages.zip plan.cores).flatMap fun x => x.2.map fun c => (c, imgs.getD x.1.img 0)
        let ovl := if 2 ≤ h.entries.length then h.entries.getD 1 0 else 0
        let s := ([3, 2, 1, 0] : List Nat).foldl (fun (s : State) k =>
          match images.getD k none with
          | none => s
          | some i =>
            let cls := ((pb.stages.zip plan.clusters).filterMap fun x => if x.1.img = k then some x.2 else none).eraseDups
            cls.foldl (fun (s : State) cl => s.loadCluster placed cl (imgs.getD k 0) ovl i) s) s
        .ok (some (s.build { pnum, number, vf := v, qid, entry := e, pb, plan, taken, imgs, images }))

/-- Ids for the images that stages name, by image slot. -/
def State.imageIds (s : State) (images : List (Option Image)) : List Nat × State :=
  images.foldl (fun (acc : List Nat × State) (i : Option Image) => match i with
    | none => (acc.1 ++ [0], acc.2)
    | some i =>
      let (id, s) := acc.2.imageId acc.1 i
      (acc.1 ++ [id], s)) ([], s)

/-- The start of an entry: a status that refuses it, with the state in which it is refused, its launch number used up if step 3 had given it
one; resources in use; or the launch, its tasks still to start (R448, R450). -/
def State.startEntry (s : State) (v qid pnum : Nat) (e : SubEntry) : Except (Nat × State) (Option State) :=
  match s.readLaunch pnum e with
  | .error n => .error (n, s)
  | .ok (pb, h, objs) =>
    let s := s.touch pnum (s.launchReads pnum e)
    if s.policyPast pnum then .error (3, s)
    else
      let number := s.launchNumber pnum
      let s := s.updPart pnum fun p => { p with nextLaunch := (number + 1) % 2 ^ 18 }
      let part := s.part pnum
      let images := objs.zipIdx.map fun o => if pb.stages.any fun st => st.img == o.2 then o.1.map (placedImage h) else none
      let tooLong := objs.any fun o => match o with
        | none => false
        | some i => 8192 < h.nunits + i.nunits
      let (imgs, t) := s.imageIds images
      match t.plan part false imgs pb, t.plan part true imgs pb with
      | _, none => .error (4, s)
      | none, some _ => .ok none
      | some plan, some _ =>
        match t.startPlan v qid pnum number e pb h imgs images plan with
        | .error n => .error (n, s)
        | .ok (some u) => if tooLong then .error (6, s) else .ok (some u)
        | .ok none => .ok none

/-- Mapped slots in cyclic order after the one served last (R445). -/
def State.slotOrder (s : State) : List (Nat × Nat × Nat) :=
  (s.hwslots.filter fun e => s.lastServed < e.1) ++ s.hwslots.filter fun e => e.1 ≤ s.lastServed

/-- Ready heads, and heads to be refused for what they hold, in the order in which they are served. -/
def State.heads (s : State) : List ((Nat × Nat × Nat) × HeadAns) :=
  let l := s.slotOrder.map fun e => (e, s.headOf e.2.1 e.2.2)
  let at_ (n : Nat) : List ((Nat × Nat × Nat) × HeadAns) := l.filter fun e => match e.2 with
    | .ready _ p => p == n
    | .refuse .. => n == 3
    | _ => false
  at_ 3 ++ at_ 2 ++ at_ 1 ++ at_ 0

/-- Serves one head: none where its resources are in use. DESIGN CHOICE (log entry 131): while a forced mode change of the partition waits for
its companies, none of its entries starts. -/
def State.serveHead (s : State) (slot v qid : Nat) (h : HeadAns) : Option State :=
  let p := (s.vfPart v).getD 0
  match h with
  | .refuse cell st => some ({ s with lastServed := slot }.refuseHead v qid cell st)
  | .ready e _ =>
    if s.changing p then none else match s.startEntry v qid p e with
    | .error (st, t) => some ({ t with lastServed := slot }.refuseHead v qid e.cell st)
    | .ok none => none
    | .ok (some s) => some ({ s with lastServed := slot }.consume v qid)
  | _ => none

/-- The next start: the tasks of a launch whose companies have their green rooms, else the first head, by priority and slot order, whose
resources are not in use. -/
def State.startLaunch (s : State) : State :=
  if s.restarting then s
  else
    match s.startable with
    | some l => s.startTasks l
    | none => (s.heads.findSome? fun e => s.serveHead e.1.1 e.1.2.1 e.1.2.2 e.2).getD s

/-- LAUNCH_START. -/
def execLaunchStart (s : State) : Host.Outcome State Fault Refusal := eventM State.startLaunch s

/-! ## Retirement (R451) -/

/-- Something of a launch is still at work: a task, one still to start, a child under way, or an engine operation. -/
def State.launchBusy (s : State) (pnum launch : Nat) : Bool :=
  let mine (g : Word) : Bool := gtidPnum g == pnum && gtidLaunch g == launch
  (s.ctxs.any fun (e : Nat × Ctx) => e.2.task && mine e.2.gtid) ||
    (s.pkts.any fun (e : Nat × Packet) => match e.2 with
      | .spawn child core => mine child.gtid && (s.groupCompany? child (clusterOf core)).isSome
      | _ => false) ||
    (s.launches.look (launchKey pnum launch)).any (fun l => l.dying || (!l.cancelled && l.killCode.isNone && !l.todo.isEmpty)) ||
    s.ops.any fun (e : Nat × EngOp) => mine e.2.gtid

/-- Release records that are not kept go; DROPPED clears when none is left (R203). -/
def Cluster.dropRecords (c : Cluster) (keep : RelRecord → Bool) : Cluster :=
  let l := c.records.filter keep
  { c with records := l, recDropped := c.recDropped && !l.isEmpty }

/-- A mailbox counter keeps nothing of a launch: one of its carriers whose knowledge is of a launch that is gone is empty (R201, R202). -/
def Core.dropCarriers (c : Core) (launch : Nat) : Core :=
  { c with mail := c.mail.map fun m => if m.carrier.launch = some launch then { m with carrier := .empty } else m }

/-- Nothing is left of the log positions of a launch, whose number another may get (R450, R503, R505). -/
def State.forgetReplay (s : State) (key : Nat) : State :=
  { s with replaySeq := s.replaySeq.filter fun (e : Nat × Nat) => e.1 / 2 ^ 64 != key,
           replayPos := s.replayPos.filter fun (e : Nat × Nat) => e.1 / 2 ^ 68 != key,
           replayWritten := s.replayWritten.filter fun (e : Nat × Nat) => e.1 / 8 != key }

/-- The operators, queues and companies of a launch go. -/
def State.clearLaunch (s : State) (pnum launch : Nat) : State :=
  let s := s.clusters.foldl (fun (s : State) (c : Nat × Cluster) =>
    c.2.companies.foldl (fun (s : State) (e : Nat × Company) => if e.2.inGroup pnum launch then s.dropCompany c.1 e.1 else s) s) s
  let key := launchKey pnum launch
  let gone := (s.queues.filter fun (e : Nat × Queue) => e.2.pnum == pnum && e.2.launch == launch).map Prod.fst
  let keep (r : RelRecord) : Bool := !(r.pnum == pnum && r.carrier.launch == some launch)
  { s.forgetReplay key with
    oprs := s.oprs.filter fun (e : Nat × Opr) => !(e.2.pnum == pnum && e.2.launch == launch),
    queues := s.queues.filter fun (e : Nat × Queue) => !gone.contains e.1,
    reserved := s.reserved.filter fun (e : Nat × Nat) => !gone.contains e.1,
    clusters := s.clusters.map fun (e : Nat × Cluster) => (e.1, e.2.dropRecords keep),
    cores := s.cores.map fun (e : Nat × Core) =>
      let c := { e.2 with created := e.2.created.del key }
      (e.1, if s.owner (clusterOf (BitVec.ofNat 16 e.1)) = pnum then c.dropCarriers launch else c),
    launches := s.launches.del key }

/-- The cell of a retiring launch is written, unless a cancellation has written it (R451, R452). -/
def State.endCell (s : State) (l : Launch) : State :=
  if l.cancelled then s
  else
    match l.killCode with
    | none => s.cpCell l.vf l.pnum l.cell (.fres 0)
    | some code => s.cpCell l.vf l.pnum l.cell (.ffail code)

/-- A launch can retire. -/
def State.retirable (s : State) (l : Launch) : Bool := !s.launchBusy l.pnum l.number

/-- A launch retires. -/
def State.retire (s : State) (l : Launch) : State :=
  let at_ := clusterCoord ((l.stages.head?.map Stage.cl).getD 0)
  let s := s.trace at_ l.pnum 2 (makeGtid l.pnum l.number 0) 0 (BitVec.ofNat 64 (l.killCode.getD 0))
  (s.clearLaunch l.pnum l.number).endCell l

/-- LAUNCH_RETIRE: the first launch that can. -/
def execLaunchRetire (s : State) : Host.Outcome State Fault Refusal :=
  eventM (fun s => match (s.launches.find? fun (e : Nat × Launch) => s.retirable e.2).map Prod.snd with
    | none => s
    | some l => s.retire l) s

/-! ## Teardown (R452, R454, R515) -/

/-- A launch is cancelled: its companies are pre-empted without draining, to be killed once all are suspended (R452, R454). -/
def State.beginCancel (s : State) (l : Launch) : State :=
  let s := { s with launches := s.launches.upd (launchKey l.pnum l.number) fun l => { l with dying := true } }
  s.suspendLaunch l.pnum l.number 0

/-- Every company of a launch is suspended. -/
def State.launchSuspended (s : State) (pnum number : Nat) : Bool :=
  s.clusters.all fun (c : Nat × Cluster) => c.2.companies.all fun (e : Nat × Company) => !e.2.inGroup pnum number || (e.2.susp && !e.2.busy)

/-- Every company group of a launch is killed, and its cell is written as cancelled (R452, R454). -/
def State.cancelLaunch (s : State) (l : Launch) : State :=
  let s := (l.companies.map Prod.snd).eraseDups.foldl (fun (s : State) n => s.killGroup l.pnum l.number n 0) s
  let s := { s with launches := s.launches.upd (launchKey l.pnum l.number) fun l => { l with cancelled := true, dying := false, todo := [] } }
  if l.cancelled then s else s.cpCell l.vf l.pnum l.cell .cancel

/-- A cancelled launch has nothing left to wait for: its companies are suspended, or no task of it has started. -/
def State.cancelReady (s : State) (l : Launch) : Bool := l.dying && (!l.todo.isEmpty || s.launchSuspended l.pnum l.number)

/-- Cancelled launches whose companies are all suspended are killed. -/
def State.settleCancels (s : State) : State :=
  s.launches.foldl (fun (s : State) (e : Nat × Launch) => if s.cancelReady e.2 then s.cancelLaunch e.2 else s) s

/-- The cells of a queue's pending entries are written as cancelled. -/
def State.cancelPending (s : State) (v qid p n : Nat) : State :=
  let q := s.sw v qid
  (List.range n).foldl (fun (s : State) i =>
    match s.entryOf p q.at_ (q.head + BitVec.ofNat 32 i) with
    | none => s
    | some e => s.cpCell v p e.cell .cancel) s

/-- Launches started from a software queue that have not retired. -/
def State.launchesFrom (s : State) (v qid : Nat) : List (Nat × Launch) :=
  s.launches.filter fun (e : Nat × Launch) => e.2.vf == v && e.2.qid == qid

/-- A software queue is torn down at one instant. -/
def State.tearDown (s : State) (v qid : Nat) : State :=
  let q := s.sw v qid
  let p := (s.vfPart v).getD 0
  let s := { s with hwslots := s.hwslots.filter fun e => e.2 != (v, qid), waitingQs := s.waitingQs.filter fun e => e != (v, qid) }
  let s := s.cancelPending v qid p (q.tail - q.head).toNat
  let mine := s.launchesFrom v qid
  let s := mine.foldl (fun (s : State) e => s.beginCancel e.2) s
  let s := s.updVf v fun f => { f with tdwait := f.tdwait ++ mine.map Prod.fst }
  (s.putSw v qid { q with state := .down, head := q.tail }).remap.settleCancels

/-- A software queue of a virtual function, met or not, is torn down. -/
def State.tearDownQid (s : State) (v qid : Nat) : State :=
  let d := ((s.vfPart v).bind fun p => (s.cpWords p (s.descVa v qid) 4).1).getD []
  (s.updVf v fun g => { g with queues := g.queues.put qid (s.swQueue v qid d) }).tearDown v qid

/-- TDGO: the teardown of TDQID begins. -/
def State.startTeardown (s : State) (v : Nat) : State :=
  let f := s.vf v
  let s := s.updVf v fun f => { f with tdbusy := true }
  if f.tdqid < f.qtlen then s.tearDownQid v f.tdqid else s

/-- QUEUE_TEARDOWN. -/
def execQueueTeardown (vf : Nat) (s : State) : Host.Outcome State Fault Refusal := commandM (fun s => s.startTeardown vf) s

/-- Every kill that a virtual function waits for is complete, and every cell write has performed (R452). -/
def State.tornDown (s : State) (v : Nat) : Bool :=
  !(s.cellWrites.any fun w => w.vf == v) && (s.vf v).tdwait.all fun k => !(s.launches.look k).any Launch.dying

/-- A teardown completes: TDDONE raises the interrupt of the virtual function. -/
def State.endTeardown (s : State) (v : Nat) : State :=
  if (s.vf v).tdbusy ∧ s.tornDown v then
    { s.updVf v fun f => { f with tdbusy := false, tddone := true, tdwait := [] } with irqs := s.irqs ++ [.teardown v] }
  else s

/-- TEARDOWN_DONE. -/
def execTeardownDone (vf : Nat) (s : State) : Host.Outcome State Fault Refusal := eventM (fun s => s.endTeardown vf) s

/-- Queues that a Function Level Reset tears down, in ascending order: those of the table, and any other that has been met. -/
def State.flrQids (s : State) (v : Nat) : List Nat :=
  List.range (s.vf v).qtlen ++ (s.vf v).queues.keys.filter fun qid => (s.vf v).qtlen ≤ qid

/-- A Function Level Reset: every queue in ascending order, then the registers; doorbells that wait at the port are discarded (R515). -/
def State.resetVf (s : State) (v : Nat) : State :=
  let s := { s with heldDoorbells := s.heldDoorbells.filter fun d => d.1 != v }
  let s := (s.flrQids v).foldl (fun (s : State) qid => s.tearDownQid v qid) s
  s.updVf v fun f => { Vf.reset with queues := f.queues, conflicts := f.conflicts, tdwait := f.tdwait, flr := true }

/-- FUNCTION_LEVEL_RESET. -/
def execFunctionLevelReset (vf : Nat) (s : State) : Host.Outcome State Fault Refusal := commandM (fun s => s.resetVf vf) s

/-- A Function Level Reset completes when its teardowns have. -/
def State.endFlr (s : State) (v : Nat) : State :=
  if (s.vf v).flr ∧ s.tornDown v then s.updVf v fun f => { f with flr := false, tdwait := [] } else s

/-- What waits for suspensions or for write-block to end goes on: kills, writes to cells, and Function Level Resets (R452, R515). -/
def State.settleHost (s : State) : State :=
  let s := s.settleCancels.retryCells
  s.vfs.foldl (fun (s : State) f => s.endFlr f.1) s

/-! ## Stealing (R230) -/

/-- Ready tasks of a core. -/
def State.readyTasks (s : State) (c : Coord) : List Nat :=
  (s.ctxs.filter fun (e : Nat × Ctx) => e.2.task && e.2.core == c && s.ready e.1).map Prod.fst

/-- No slot of a core has been ready for 64 cycles. -/
def State.longIdle (s : State) (c : Coord) : Bool := (s.coreAt c).readyIn + 64 ≤ s.cycle && !(s.coreAt c).fenced

/-- A core may take a task: a free slot of its company, an equal image, at least two ready tasks where it runs, no asynchronous record
pending (R223, R230). -/
def State.mayTake (s : State) (core : Coord) (k : Nat) : Option Nat :=
  let x := s.ctx k
  if x.task && x.core != core && clusterOf x.core == clusterOf core && s.ready k && s.mayMigrate k && x.asyncs.isEmpty &&
      2 ≤ (s.readyTasks x.core).length && (s.coreAt core).img == (s.coreAt x.core).img then
    (s.groupCompany? x (clusterOf core)).bind fun _ => s.heldSlot (clusterOf core) x.company.toNat core
  else none

/-- The task that a core takes: the one that has been ready longest. -/
def State.stealChoice (s : State) (core : Coord) : Option Nat :=
  if !s.longIdle core then none
  else
    (s.ctxs.filter fun (e : Nat × Ctx) => (s.mayTake core e.1).isSome).foldl (fun (acc : Option Nat) e => match acc with
      | none => some e.1
      | some j => if e.2.readyAt < (s.ctx j).readyAt then some e.1 else some j) none

/-- What a log holds of a steal (R503). -/
def State.stealEvent (s : State) (core : Coord) (k : Nat) : LogEvent :=
  let x := s.ctx k
  { ty := 4, die := cDie core, gtid := x.gtid, digest := crc64 (x.digestBytes x.pc), coord := core, arg := 0, value := x.core.toNat }

/-- Two steals move one task between the same cores. -/
def LogEvent.sameSteal (a b : LogEvent) : Bool :=
  a.ty == b.ty && gtidSansLaunch a.gtid == gtidSansLaunch b.gtid && a.coord == b.coord && a.value == b.value

/-- A steal in a launch that records or replays: a replay makes only the steal that the log has next, and diverges where the log has none
left, or another digest (R505, R506). -/
def State.stealReplayed (s : State) (core : Coord) (k slot : Nat) : State :=
  let x := s.ctx k
  let pnum := gtidPnum x.gtid
  let number := gtidLaunch x.gtid
  let e := s.stealEvent core k
  if s.modeOf pnum number ≠ 2 then (s.logged pnum number e).2.depart k core slot
  else
    match s.nextLog pnum number e with
    | (none, s) => s.diverge pnum number e 0
    | (some (_, r), t) =>
      if !r.sameSteal e then s
      else
        match t.logged pnum number e with
        | (.diverge i, s) => s.diverge pnum number e i
        | (_, s) => s.depart k core slot

/-- TASK_STEAL. -/
def execTaskSteal (core : Coord) (k : Nat) (s : State) : Host.Outcome State Fault Refusal :=
  eventM (fun s =>
    match s.mayTake core k with
    | none => s
    | some slot =>
      if s.modeOf (gtidPnum (s.ctx k).gtid) (gtidLaunch (s.ctx k).gtid) != 2 && s.stealChoice core != some k then s
      else if !s.longIdle core then s
      else s.stealReplayed core k slot) s

end Sys2Proof.Machine
end

