-- ==== Sys2Proof/Machine/Suspend.lean ====
section
/-! DEFINITION. Suspension, reassignment, resume and kill of a company, its green room and its wings (R164, R226, R257 to R259, R404,
R464 to R476, R491). -/

namespace Sys2Proof.Machine

/-! ## The green room (R467, R468) -/

/-- Bits lo to lo + w - 1 of a word become x. -/
def withBits (v lo w x : Nat) : Nat := v - v / 2 ^ lo % 2 ^ w * 2 ^ lo + x % 2 ^ w * 2 ^ lo

/-- The header of a green room as it is read: word 0x08, the addresses that its offsets give, and its two sizes (R467). -/
structure Room where
  counts : Nat
  records : Nat
  banks : Nat
  macros : Nat
  locals : Nat
  tiles : Nat
  rings : Nat
  wings : Nat
  limit : Nat
  faults : Nat
  ringLen : Nat
  deriving DecidableEq, Repr

/-- Reads the header of a company's green room. -/
def State.room (s : State) (co : Company) : Room × State :=
  let b := co.base
  let (counts, s) := s.greenRead co.pnum (b + 0x08)
  let (w10, s) := s.greenRead co.pnum (b + 0x10)
  let (w18, s) := s.greenRead co.pnum (b + 0x18)
  let (w20, s) := s.greenRead co.pnum (b + 0x20)
  let (w28, s) := s.greenRead co.pnum (b + 0x28)
  let (w30, s) := s.greenRead co.pnum (b + 0x30)
  ({ counts, records := b + w10 % 2 ^ 32, banks := b + w10 / 2 ^ 32, macros := b + w18 % 2 ^ 32, locals := b + w18 / 2 ^ 32,
     tiles := b + w20 % 2 ^ 32, rings := b + w20 / 2 ^ 32, wings := b + w28 % 2 ^ 32, limit := w28 / 2 ^ 32,
     faults := b + w30 % 2 ^ 32, ringLen := w30 / 2 ^ 32 }, s)

/-- Writes 64-bit words to a green room. -/
def State.greenWords (s : State) (co : Company) (pa : Nat) (l : List Nat) : State :=
  l.zipIdx.foldl (fun (s : State) e => s.greenWrite co.pnum (pa + 8 * e.2) e.1) s

/-- Writes n bytes of an image whose format is not architectural: free values. -/
def State.greenFree (s : State) (co : Company) (pa n : Nat) : State :=
  s.greenWords co pa ((List.range (n / 8)).map fun i => leValue ((List.range 8).map fun j => Config.greenImage pa s.time (8 * i + j)))

/-- Writes a range of bytes to a green room, a line's worth at a time. -/
def State.greenBytes (s : State) (co : Company) (pa : Nat) (d : List Byte) : State :=
  (lineChunks (d.length / 64 + 2) pa d).foldl (fun (s : State) e =>
    if s.greenOk co.pnum e.1 e.2.length && physOk e.1 e.2.length then s.physBytesWrite e.1 e.2
    else { s with unclaimed := s.unclaimed + 1 }) s

/-- Changes word 0x08 of the header, whose reserved bits are written as zero (R8). -/
def State.greenCounts (s : State) (co : Company) (f : Nat → Nat) : State :=
  let (v, s) := s.greenRead co.pnum (co.base + 8)
  s.greenWrite co.pnum (co.base + 8) (f v &&& greenCountsMask)

/-- The trap that a task is suspended with: one that waits for service, or one that a resume was to raise. -/
def Ctx.heldTrap (x : Ctx) : Option TrapRec :=
  match x.status with
  | .trapped t _ => some t
  | _ => x.pending

/-- The PC at which a task resumes. -/
def Ctx.resumePc (x : Ctx) : Pc :=
  match x.status with
  | .trapped t _ => t.epc
  | _ => x.pc

/-- Word 0x2B8 of a task record. -/
def Ctx.flagWord (x : Ctx) (binds : Bool) : Nat :=
  (if x.know.sat then 1 else 0) + (if x.pinned then 2 else 0) + (if binds then 4 else 0) + (if x.heldTrap.isSome then 8 else 0) +
    (if x.status = .parked then 32 else 0)

/-- The frontier of a record: 8 entries of a tag of 24 bits and a count of 16. -/
def frontWords (l : List (Nat × Nat)) : List Nat :=
  let v := ((l.take 8).zipIdx.map fun e => (e.1.1 % 2 ^ 24 + e.1.2 % 2 ^ 16 * 2 ^ 24) * 2 ^ (40 * e.2)).sum
  (List.range 5).map fun i => v / 2 ^ (64 * i) % 2 ^ 64

/-- The documented words of a task record, from offset 0; the entries of the barrier record have no architectural layout. -/
def Ctx.recordWords (x : Ctx) (binds : Bool) (time : Nat) : List Nat :=
  let trap : List Nat := match x.heldTrap with
    | none => [0, 0, 0]
    | some t => [(t.cause x.slot.val).toNat, t.epc.toNat, t.tval.toNat]
  (x.g.toList.flatMap fun v => (List.range 4).map fun i => v.toNat / 2 ^ (64 * i) % 2 ^ 64) ++ [x.ftWord] ++
    x.p.toList.map BitVec.toNat ++
    [x.resumePc.toNat, x.gtid.toNat, placeWord x, x.fmt.toNat, x.rcWord.toNat, x.hbTime] ++ frontWords x.know.front ++
    (List.range 4).map (fun i => leValue ((List.range 8).map fun j => Config.greenImage x.gtid.toNat time (8 * i + j))) ++
    x.flagWord binds :: trap

/-- Tasks of a company, in ascending order of core and slot. -/
def State.companyTasks (s : State) (cl n : Nat) : List (Nat × Ctx) :=
  (s.ctxs.foldl (fun (t : Tbl (Nat × Ctx)) (e : Nat × Ctx) =>
    if e.2.inCompany cl n then t.put (e.2.core.toNat * 16 + e.2.slot.val) e else t) ([] : Tbl (Nat × Ctx))).map Prod.snd

/-- A task binds the tile unit of its core. -/
def State.bindsTile (s : State) (e : Nat × Ctx) : Bool := (s.coreAt e.2.core).tile.bound == some e.1

/-- Writes the record of a task at a place, zeros where it is reserved (R8, R468). -/
def State.saveRecord (s : State) (co : Company) (pa : Nat) (e : Nat × Ctx) : State :=
  (s.greenWords co pa (e.2.recordWords (s.bindsTile e) s.time ++ List.replicate 37 0)).greenFree co (pa + 0x400) 0x2C00

/-! ## Suspension (R465) -/

/-- A task stands at an instruction boundary, so that its company's suspension point need not wait for it. -/
def State.atBoundary (s : State) (k : Nat) (x : Ctx) : Bool :=
  x.suspended &&
    (match x.status with
     | .idle => true
     | .waiting _ => !s.grantedReq k
     | .trapped _ serving => !serving
     | .parked => true
     | .transit _ => true
     | .flight _ => false)

/-- The tile unit of a binding task has a command in progress (R404). -/
def State.tileRuns (s : State) (e : Nat × Ctx) : Bool :=
  s.bindsTile e && s.ops.any fun (o : Nat × EngOp) =>
    o.2.core == e.2.core && o.2.qsel == 4 && o.2.result.isNone && (o.2.done != 0 || o.2.flying != 0)

/-- A child of a company is on its way to its slot. -/
def State.childOf (s : State) (cl n : Nat) : Bool :=
  s.pkts.any fun (e : Nat × Packet) => match e.2 with
    | .spawn child core => child.inCompany cl n && (s.groupCompany? child (clusterOf core)).isSome
    | _ => false

/-- Every task of a company has stopped. -/
def State.allStopped (s : State) (cl n : Nat) : Bool :=
  (s.companyTasks cl n).all (fun e => s.atBoundary e.1 e.2 && !s.tileRuns e) && !s.childOf cl n

/-- Tasks whose instructions have come to wait since the suspension began stop too. -/
def State.stopAgain (s : State) (cl n : Nat) : State :=
  (s.companyTasks cl n).foldl (fun (s : State) e => s.stopTask e.1) s

/-- Installs the DIVERT entry of a company, with the header of its log, or 0 (R470). -/
def State.installDivert (s : State) (cl n log : Nat) : State :=
  let lbanks := maskOf 32 ((s.clusterAt cl).lbanks n .scratch)
  s.updCluster cl fun c => { c with diverts := c.diverts.put n (.divert n true (log == 0) log lbanks), wings := c.wings.del n }

/-- The suspension point: the DIVERT entry, and an empty wings log; without a green room HOLD and no log (R465 step 2, R472). -/
def State.suspendPoint (s : State) (cl n : Nat) (co : Company) : State :=
  let s :=
    if co.cgrb = 0 then s.installDivert cl n 0
    else
      let (r, s) := s.room co
      let log := r.wings / 64 * 64
      (s.installDivert cl n log).greenWords co log [0, 0, 0]
  (s.companyTasks cl n).foldl (fun (s : State) e =>
    (s.updCtx e.1 fun x => { x with saved := true }).updCore e.2.core fun c => { c with traps := c.traps.filter (· != e.1) }) s

/-- The records, the tile images and the header (R465 step 3), after which the company is suspended (step 4). -/
def State.saveCompany (s : State) (cl n : Nat) (co : Company) : State :=
  let tasks := s.companyTasks cl n
  let (room, s) := s.room co
  let s := tasks.zipIdx.foldl (fun (s : State) e => s.saveRecord co (room.records + e.2 * 0x3000) e.1) s
  let tiles := (tasks.filter s.bindsTile).length
  let s := (List.range tiles).foldl (fun (s : State) i => s.greenFree co (room.tiles + i * 0xC000) 0xC000) s
  let list := (s.clusterAt cl).flists.getD n []
  let s := s.greenWrite co.pnum co.base (1 + n * 2 ^ 8 + co.pnum * 2 ^ 18 + co.launch * 2 ^ 24)
  let s := s.greenCounts co fun v => withBits (withBits (withBits v 0 7 tasks.length) 28 4 tiles) 32 6 list.length
  let s := s.greenWords co (co.base + 0x38) (List.replicate 25 0)
  let s := list.zipIdx.foldl (fun (s : State) e => s.greenWords co (room.faults + 64 * e.2) e.1.full) s
  let s := s.updCompany cl n fun co => { co with stopping := false, busy := false, susp := true }
  let s := tasks.foldl (fun (s : State) e =>
    s.trace e.2.core co.pnum 6 e.2.gtid 0 (co.reason.setWidth 64)) s
  s.countCluster cl 14 2

/-- SUSPENSION_POINT: once the tasks have stopped, the entry; then, once there is a green room, the save. -/
def State.suspendStep (s : State) (cl n : Nat) : State :=
  match s.company? cl n with
  | none => s
  | some co =>
    if !co.stopping then s
    else
      let s' := s.stopAgain cl n
      if ((s.clusterAt cl).divertOf n).isSome then (if co.cgrb = 0 then s else s.saveCompany cl n co)
      else if !s'.allStopped cl n then s
      else
        let s := s'.suspendPoint cl n co
        if co.cgrb = 0 then s else s.saveCompany cl n co

/-- SUSPENSION_POINT. -/
def execSuspensionPoint (cl company : Nat) (s : State) : Host.Outcome State Fault Refusal :=
  eventM (fun s => s.suspendStep cl company) s

/-! ## Resume (R259, R466, R474, R476) -/

/-- Something of a company has been reassigned and not asked for again. -/
def Company.lacks (co : Company) : Bool :=
  !co.resuming && !(co.savedBanks.isEmpty && co.savedTiles.isEmpty && co.savedSlots.isEmpty)

/-- The command processor asks for everything that was reassigned, in one request (R259). -/
def State.askAgain (s : State) (cl n : Nat) : State :=
  let c := s.clusterAt cl
  if c.reqs.any fun r => r.company == n && r.want == .resume then s
  else
    let r : BoxReq := { key := 2 ^ 32 + cl * 16 + n, company := n, want := .resume, waits := true, phase := .fresh, redecide := false }
    s.setCluster cl { c with reqs := c.reqs ++ [r] }

/-- What was granted again stands ready: banks switched, tile units free, no task's slot away. -/
def State.mayResume (s : State) (cl n : Nat) (co : Company) : Bool :=
  (((s.clusterAt cl).banksOf n).all fun b => ((s.clusterAt cl).bankAt b).next.isNone) &&
    co.savedUnits.all (fun u => (s.coreAt u.1).tile.bound.isNone && (s.engQueue u.1 4).isEmpty) &&
    (s.companyTasks cl n).all fun e => !s.away e.2

/-- A range of a green room can be read: within the partition's regions, existing, and not poisoned (R476). -/
def State.greenSound (s : State) (co : Company) (pa n : Nat) : Bool :=
  s.greenOk co.pnum pa n && physOk pa n &&
    !(s.lines.any fun (e : Nat × Line) => e.2.poison && e.1 * 64 < pa + n && pa < e.1 * 64 + 64)

/-- Bytes of the reserve area that a ring needs: a header, and its depth in slot images (R164). -/
def Queue.reserveBytes (q : Queue) : Nat := 64 + q.ringBytes

/-- The cluster, company and logical bank of a queue that lies in a FIFO bank (R143, R144). -/
def QPlace.bank? (p : QPlace) : Option (Nat × Nat × Nat) :=
  p.ring?.map fun r => (r.1, r.2.1, r.2.2.1)

/-- A queue lies in FIFO banks of a company. -/
def Queue.ringOf (q : Queue) (cl n : Nat) : Bool :=
  match q.place.bank? with
  | some (a, b, _) => a == cl && b == n
  | none => false

/-- Bytes of the reserve area that the queues which a test takes need together. -/
def State.reserveNeed (s : State) (p : Queue → Bool) : Nat :=
  s.queues.foldl (fun (acc : Nat) (e : Nat × Queue) => if p e.2 then acc + e.2.reserveBytes else acc) 0

/-- What a resume reads of a green room, area by area: where each begins, and how much of it is read (R467, R474). -/
def State.roomAreas (s : State) (cl n : Nat) (co : Company) (r : Room) : List (Nat × Nat) :=
  [(co.base, 0x38), (r.records, r.counts % 2 ^ 7 * 0x3000), (r.tiles, r.counts / 2 ^ 28 % 2 ^ 4 * 0xC000),
   (r.banks, co.savedBanks.length * 65536), (r.locals, co.savedLocals.length * 0x18008), (r.macros, co.savedTiles.length * 0x9000),
   (r.rings, s.reserveNeed fun q => q.ringOf cl n && q.reserve), (r.faults, ((s.clusterAt cl).flists.getD n []).length * 64)]

/-- The wings log of a suspension that has one can be read as far as its TAIL says. -/
def State.logSound (s : State) (co : Company) (log : Nat) : Bool × State :=
  if log = 0 then (true, s)
  else
    let (tail, s) := s.greenRead co.pnum log
    (s.greenSound co log (64 + tail), s)

/-- What a resume reads of a green room and its wings log is sound. -/
def State.roomSound (s : State) (cl n : Nat) (co : Company) : Bool × State :=
  let (r, s) := s.room co
  let log := (((s.clusterAt cl).divertOf n).map fun d => d.2.2.1).getD 0
  let (logs, s) := s.logSound co log
  (logs && (s.roomAreas cl n co r).all fun a => a.2 == 0 || s.greenSound co a.1 a.2, s)

/-- The saved banks get their bytes back, in logical-bank order. -/
def State.restoreBanks (s : State) (cl n : Nat) (co : Company) : State :=
  let (r, s) := s.room co
  co.savedBanks.zipIdx.foldl (fun (s : State) e =>
    match (s.clusterAt cl).physBank n e.1.lbank e.1.mode with
    | none => s
    | some b => s.setTier (bankPa cl b 0) (s.physBytes (r.banks + e.2 * 65536) 65536)) s

/-- The saved data regions of local memory go to the cores that their slots were granted on. -/
def State.restoreLocals (s : State) (co : Company) : State :=
  let (r, s) := s.room co
  co.savedLocals.foldl (fun (s : State) l =>
    let from_ := (s.coreAt l.dest).xb.toNat * 12
    let d := s.physBytes (r.locals + l.place * 0x18008 + 8 + from_) (Config.localBytes - from_)
    (s.setTier (localPa l.dest from_) d).clearBad (localPa l.dest from_) d.length) s

/-- Macros and tile units get back what they held (R404). -/
def State.restoreTiles (s : State) (co : Company) : State :=
  let s := co.savedTiles.foldl (fun (s : State) t => s.updCore t.1 fun c => { c with tile := { c.tile with b := c.tile.b.put t.2.1 t.2.2 } }) s
  co.savedUnits.foldl (fun (s : State) u => s.updCore u.1 fun c =>
    { c with tile := { c.tile with bound := u.2.bound, row := u.2.row, acc0 := u.2.acc0, acc1 := u.2.acc1 } }) s

/-- The fault code of a number. -/
def codeOf (n : Nat) : Option FaultCode :=
  ([.illegalOp, .extAbsent, .operandForm, .priv, .align, .pageSplit, .xlateMiss, .xlatePerm, .mmRace, .qcue, .qunbound, .futFault,
    .doubleResolve, .claimExceeded, .noClaim, .overlay, .bkpt, .trap, .heartbeat, .neighbourFenced, .async, .scope, .tileState,
    .replayDiverged, .preempt, .sramEcc, .migrateDenied] : List FaultCode).find? fun c => c.num == n

/-- The trap that a record's %cause, %epc and %tval give. -/
def trapOf (t : TrapRec) (cause epc tval : Nat) : TrapRec :=
  { t with code := (codeOf (cause % 2 ^ 8)).getD t.code, inner := cause / 2 ^ 8 % 2 ^ 8, role := cause / 2 ^ 22 % 2 == 1,
           olnch := cause / 2 ^ 24 % 2 ^ 18, oindex := cause / 2 ^ 42 % 2 ^ 20, epc := BitVec.ofNat 32 epc, tval := BitVec.ofNat 64 tval }

/-- A task as its record has it: registers, predicates, PC, core and slot, format word, flags and trap; its streak is empty (R78). -/
def Ctx.fromRecord (x : Ctx) (w : Nat → Nat) : Ctx :=
  let flags := w 0x2B8
  let place := w 0x250
  let g (i : Fin 16) : Vec := BitVec.ofNat 256 (((List.range 4).map fun j => w (32 * i.val + 8 * j) * 2 ^ (64 * j)).sum)
  let trap := if flags / 8 % 2 = 1 && flags / 16 % 2 = 0 then x.heldTrap.map fun t => trapOf t (w 0x2C0) (w 0x2C8) (w 0x2D0) else none
  let status : Status := match x.status with
    | .transit c => .transit c
    | _ => if flags / 32 % 2 = 1 then .parked else .idle
  { x with g := Vector.ofFn g, ft := Vector.ofFn fun (i : Fin 16) => BitVec.ofNat 2 (w 0x200 / 2 ^ (2 * i.val)),
           p := Vector.ofFn fun (i : Fin 7) => BitVec.ofNat 64 (w (0x208 + 8 * i.val)), pc := BitVec.ofNat 32 (w 0x240),
           core := BitVec.ofNat 16 (place / 2 ^ 16), slot := Fin.ofNat 16 (place / 2 ^ 32), fmt := BitVec.ofNat 7 (w 0x258),
           status, pending := trap, streak := none }

/-- Words of a record from an address on, n of them. -/
def State.greenWordsAt (s : State) (co : Company) (a n : Nat) : List Nat × State :=
  (List.range n).foldl (fun (acc : List Nat × State) i =>
    let (v, s) := acc.2.greenRead co.pnum (a + 8 * i)
    (acc.1 ++ [v], s)) ([], s)

/-- Each record goes back to the slot that it names (R468). -/
def State.restoreTasks (s : State) (cl n : Nat) (co : Company) : State :=
  (s.companyTasks cl n).foldl (fun (s : State) e =>
    match s.recordPa co e.2.gtid with
    | (none, s) => s
    | (some a, s) =>
      let (w, s) := s.greenWordsAt co a 0x5B
      (s.updCtx e.1 fun x => x.fromRecord fun off => w.getD (off / 8) 0).updCtx e.1 fun x => { x with xb := (s.coreAt x.core).xb }) s

/-- Where an LWRITE record is applied: the core to which the image it belongs to was restored (R466). -/
def Company.applied (co : Company) (a : Arrival) : Arrival :=
  match a with
  | .lwrite c core off d who src =>
    .lwrite c (((co.savedLocals.find? fun l => l.core == core).map SavedLocal.dest).getD core) off d who src
  | a => a

/-- The wings log is applied in record order; the result of an arrival is discarded. -/
def State.applyWings (s : State) (cl n : Nat) (co : Company) : State :=
  ((s.clusterAt cl).wings.getD n []).foldl (fun (s : State) a => (s.performArrival cl (co.applied a)).2.2) s

/-- An arrival that was held performs; a count that waited behind its packet's data goes to its counter as that stands now (R167). -/
def State.landHeld (s : State) (cl : Nat) (a : Arrival) : State :=
  match a with
  | .count _ core tag know who =>
    let (f, s) := s.landCounter core tag know who
    if f = .held then s else s.landedFor who f 0
  | a =>
    let (f, v, s) := s.performArrival cl a
    s.landedFor a.who f v

/-- The DIVERT entry goes, and the arrivals held for the company perform in arrival order. -/
def State.releaseHeld (s : State) (cl n : Nat) (co : Company) : State :=
  let held := (s.clusterAt cl).ingress.filter fun a => a.company == n
  let s := s.updCluster cl fun c => { c with diverts := c.diverts.del n, wings := c.wings.del n,
                                             ingress := c.ingress.filter fun a => a.company != n }
  held.foldl (fun (s : State) a => s.landHeld cl (co.applied a)) s

/-- Each task takes its records of the fault list and its trap, and then issues. -/
def State.wakeTasks (s : State) (cl n : Nat) : State :=
  let list := (s.clusterAt cl).flists.getD n []
  (s.companyTasks cl n).foldl (fun (s : State) e =>
    let x := e.2
    let new : Ctx := { x with suspended := false, saved := false, readyAt := s.cycle, pending := x.heldTrap,
                              asyncs := x.asyncs ++ list.filter fun r => r.gtid == x.gtid }
    let new : Ctx := match x.status with
      | .trapped .. => { new with status := .idle }
      | _ => new
    (s.setCtx e.1 new).trace x.core (gtidPnum x.gtid) 7 x.gtid 0 0) s

/-- Rings that the reserve area holds are rebuilt in their new banks (R164, R474). -/
def State.rebuildRings (s : State) (cl n : Nat) : State :=
  s.queues.foldl (fun (s : State) (e : Nat × Queue) =>
    if e.2.ringOf cl n && e.2.reserve then (s.updQueue e.1 fun q => { q with reserve := false }).storeRing e.2 else s) s

/-- RESUME (R474), or the end of a group whose saved state cannot be read (R476). -/
def State.resumeNow (s : State) (cl n : Nat) (co : Company) : State :=
  let (sound, s) := s.roomSound cl n co
  if !sound then s.killGroup co.pnum co.launch n (FaultCode.num .sramEcc)
  else
    let s := (((s.restoreBanks cl n co).restoreTiles co).restoreLocals co).restoreTasks cl n co
    let s := s.rebuildRings cl n
    let s := ((s.applyWings cl n co).releaseHeld cl n co).wakeTasks cl n
    let s := s.updCluster cl fun c => { c with flists := c.flists.del n }
    s.updCompany cl n fun co =>
      { co with susp := false, busy := false, savedBanks := [], savedTiles := [], savedSlots := [], savedLocals := [], savedUnits := [],
                resuming := false }

/-- A company is to run again: what was reassigned is asked for first, and once that is granted it resumes (R259, R474). -/
def State.resumeCompany (s : State) (cl n : Nat) (co : Company) : State :=
  if co.lacks then s.askAgain cl n else if s.mayResume cl n co then s.resumeNow cl n co else s

/-! ## Commands (R464) -/

/-- CCTL.ERR of a company number is set. -/
def State.ctlErr (s : State) (cl n : Nat) : State :=
  s.updCluster cl fun c => { c with cerr := if c.cerr.contains n then c.cerr else n :: c.cerr }

/-- A command to a company number: refused with ERR as R464 states. -/
def State.command (s : State) (cl n : Nat) (wants : Option Bool) (f : Company → State) : State :=
  match s.company? cl n with
  | none => s.ctlErr cl n
  | some co => if co.busy || wants == some (!co.susp) then s.ctlErr cl n else f co

/-- SUSPEND. -/
def State.suspendCommand (s : State) (cl n : Nat) : State := s.command cl n (some false) fun _ => s.beginSuspend cl n 0

/-- RESUME. -/
def State.resumeCommand (s : State) (cl n : Nat) : State := s.command cl n (some true) fun co => s.resumeCompany cl n co

/-- KILL, with the code of the launch's cell. -/
def State.killCommand (s : State) (cl n : Nat) (kcode : Byte) : State :=
  s.command cl n none fun co => s.killGroup co.pnum co.launch n (if kcode = 0 then 0x120 else kcode.toNat)

/-- COMPANY_SUSPEND. -/
def execCompanySuspend (cl company : Nat) (s : State) : Host.Outcome State Fault Refusal :=
  commandM (fun s => s.suspendCommand cl company) s

/-- COMPANY_RESUME. -/
def execCompanyResume (cl company : Nat) (s : State) : Host.Outcome State Fault Refusal :=
  commandM (fun s => s.resumeCommand cl company) s

/-- COMPANY_KILL. -/
def execCompanyKill (cl company : Nat) (kcode : Byte) (s : State) : Host.Outcome State Fault Refusal :=
  commandM (fun s => s.killCommand cl company kcode) s

/-! ## Reassignment (R164, R258, R466) -/

/-- A held slot can be taken: no task holds it but one whose record stands in a green room, and none is coming to it. -/
def State.slotMovable (s : State) (co : Company) (n : Nat) (e : Coord × Nat) : Bool :=
  co.slots.contains e &&
    (s.ctxs.all fun (c : Nat × Ctx) => !(c.2.task && c.2.core == e.1 && c.2.slot.val == e.2) ||
      (c.2.saved && c.2.inGroup co.pnum co.launch n &&
        (match c.2.status with
         | .transit _ => false
         | _ => true) &&
        (match s.company? (clusterOf c.2.home) n with
         | some home => home.susp
         | none => false))) &&
    !(s.pkts.any fun (p : Nat × Packet) => match p.2 with
      | .spawn child core => core == e.1 && child.slot.val == e.2
      | _ => false)

/-- The data region of a core is saved as the next local data image, once. -/
def State.saveLocal (s : State) (cl n : Nat) (core : Coord) : State :=
  match s.company? cl n with
  | none => s
  | some co =>
    if co.savedLocals.any fun l => l.core == core then s
    else
      let place := co.savedLocals.length
      let (r, s) := s.room co
      let a := r.locals + place * 0x18008
      let from_ := (s.coreAt core).xb.toNat * 12
      let s := s.greenWrite co.pnum a core.toNat
      let s := s.greenBytes co (a + 8 + from_) (s.tierBytes (localPa core from_) (Config.localBytes - from_))
      let s := s.greenCounts co fun v => withBits v 24 4 (place + 1)
      s.updCompany cl n fun co => { co with savedLocals := co.savedLocals ++ [{ core, dest := core, place }] }

/-- A slot leaves the holdings; the tile unit that its task binds is free for others (R404). -/
def State.takeSlot (s : State) (cl n : Nat) (e : Coord × Nat) : State :=
  let u := (s.coreAt e.1).tile
  let binder := match u.bound with
    | none => false
    | some k => (s.ctx k).slot.val == e.2 && (s.ctx k).saved
  let s := s.updCompany cl n fun co =>
    { co with slots := co.slots.filter (· != e), savedSlots := co.savedSlots ++ [e],
              savedUnits := if binder then co.savedUnits ++ [(e.1, { u with b := [] })] else co.savedUnits }
  if binder then s.updCore e.1 fun c => { c with tile := { c.tile with bound := none, row := .invalid, acc0 := [], acc1 := [] } } else s

/-- A macro leaves the holdings, its contents saved. -/
def State.takeMacro (s : State) (cl n : Nat) (e : Coord × Nat) : State :=
  let b := (s.coreAt e.1).tile.b.getD e.2 TileB.granted
  let s := s.updCompany cl n fun co => { co with tiles := co.tiles.filter (· != e), savedTiles := co.savedTiles ++ [(e.1, e.2, b)] }
  s.updCore e.1 fun c => { c with tile := { c.tile with b := c.tile.b.del e.2 } }

/-- Images of the saved banks with one more, in logical-bank order. -/
def addBank (b : SavedBank) (d : List Byte) (l : List (SavedBank × List Byte)) : List (SavedBank × List Byte) :=
  match l with
  | [] => [(b, d)]
  | e :: r => if b.lbank < e.1.lbank then (b, d) :: e :: r else e :: addBank b d r

/-- Reads a range of bytes of a green room, a line's worth at a time: all ones, and counted, where a line is not to be reached (R541). -/
def State.greenReadBytes (s : State) (co : Company) (pa n : Nat) : List Byte × State :=
  (cutLines (n / 64 + 2) pa n).foldl (fun (acc : List Byte × State) e =>
    let (v, s) := acc.2.physRead (acc.2.greenOk co.pnum e.1 e.2) e.1 e.2
    (acc.1 ++ leBytes e.2 v, s)) ([], s)

/-- The images of saved banks. -/
def State.bankImages (s : State) (co : Company) (r : Room) (l : List (SavedBank × Nat)) : List (SavedBank × List Byte) × State :=
  l.foldl (fun (acc : List (SavedBank × List Byte) × State) e =>
    let (d, s) := acc.2.greenReadBytes co (r.banks + e.2 * 65536) 65536
    (acc.1 ++ [(e.1, d)], s)) ([], s)

/-- A bank leaves the holdings, its bytes saved; a FIFO bank only where the reserve area has room for its rings. -/
def State.takeBank (s : State) (cl n lbank : Nat) : State :=
  match s.company? cl n with
  | none => s
  | some co =>
    let c := s.clusterAt cl
    match (c.banksOf n).find? fun b => (c.bankAt b).lbank == lbank with
    | none => s
    | some b =>
      let k := c.bankAt b
      let inBank (q : Queue) : Bool := q.place.bank? == some (cl, n, lbank)
      let need := s.reserveNeed fun q => q.ringOf cl n && (q.reserve || inBank q)
      let (r, s) := s.room co
      if k.next.isSome || (k.mode == .fifo && r.ringLen < need) then s
      else
        let (old, s) := s.bankImages co r co.savedBanks.zipIdx
        let all := addBank { lbank, mode := k.mode } (s.tierBytes (bankPa cl b 0) 65536) old
        let s := all.zipIdx.foldl (fun (s : State) e => s.greenBytes co (r.banks + e.2 * 65536) e.1.2) s
        let s := s.greenCounts co fun v => withBits v 8 6 all.length
        let s := { s with queues := s.queues.map fun (e : Nat × Queue) => (e.1, if inBank e.2 then { e.2 with reserve := true } else e.2) }
        let s := if k.mode = .fifo then s.greenFree co r.rings need else s
        (s.bankToCache cl b).updCompany cl n fun co => { co with savedBanks := all.map Prod.fst }

/-- The command processor takes part of a suspended company's holdings. -/
def State.reassign (s : State) (cl n : Nat) (w : Holdings) : State :=
  match s.company? cl n with
  | none => s
  | some co =>
    if !co.susp || co.busy || co.resuming || (s.clusterAt cl).reqs.any (fun r => r.company == n && r.want == .resume) then s
    else
      let slots := w.slots.eraseDups.filter (s.slotMovable co n)
      let s := (slots.map Prod.fst).eraseDups.foldl (fun (s : State) c => s.saveLocal cl n c) s
      let s := slots.foldl (fun (s : State) e => s.takeSlot cl n e) s
      let macros := w.macros.eraseDups.filter fun e => co.tiles.contains e
      let s := macros.foldl (fun (s : State) e => s.takeMacro cl n e) s
      let saved := co.savedTiles.length + macros.length
      let (r, s) := s.room co
      let s := (List.range macros.length).foldl (fun (s : State) i =>
        s.greenFree co (r.macros + (co.savedTiles.length + i) * 0x9000) 0x9000) s
      let s := if macros.isEmpty then s else s.greenCounts co fun v => withBits v 16 5 saved
      let s := w.banks.eraseDups.foldl (fun (s : State) l => s.takeBank cl n l) s
      s.redecide cl

/-- HOLDINGS_REASSIGN. -/
def execHoldingsReassign (cl company : Nat) (what : Holdings) (s : State) : Host.Outcome State Fault Refusal :=
  commandM (fun s => s.reassign cl company what) s

/-! ## The limit of a wings log (R473) -/

/-- The wings log has room for an arrival. -/
def State.wingsRoom (s : State) (co : Company) (log : Nat) (a : Arrival) : Bool × State :=
  let (limit, s) := s.wingsLimit co
  let (tail, s) := s.greenRead co.pnum log
  (64 + tail + a.size ≤ limit, s)

/-- An arrival that waited becomes a record; a barrier arrival's record always carries its task's token (R471). -/
def Arrival.recorded (a : Arrival) : Arrival :=
  match a with
  | .arrive c l off scope home know _ who => .arrive c l off scope home know true who
  | a => a

/-- A held count is for a counter that a company does not own. -/
def State.countsElsewhere (s : State) (n : Nat) (a : Arrival) : Bool :=
  match a with
  | .count _ core tag _ _ => s.countOwner core tag != some n
  | _ => false

/-- Held arrivals of a company become records, in order, as far as the log has room; a count for a counter that is not the company's goes there
(R167). -/
def State.drainHeld (s : State) (cl n : Nat) (co : Company) (log : Nat) (l : List Arrival) : State :=
  match l with
  | [] => s
  | a :: rest =>
    let took (s : State) : State := s.updCluster cl fun c => { c with ingress := c.ingress.erase a }
    let (room, s) := s.wingsRoom co log a
    if s.countsElsewhere n a then ((took s).landHeld cl a).drainHeld cl n co log rest
    else if room then
      let s := took s
      let s := (s.wingsAppend cl co log a.recorded).2
      (s.landedFor a.who .diverted 0xFFFFFFFFFFFFFFFF).drainHeld cl n co log rest
    else s

/-- WLLIM may have been raised: what a suspended company's ingress holds goes to its log as far as that has room now (R473). -/
def State.drainCompany (s : State) (cl n : Nat) (co : Company) : State :=
  match (s.clusterAt cl).divertOf n with
  | some (_, false, log, _) =>
    if log = 0 then s else s.drainHeld cl n co log ((s.clusterAt cl).ingress.filter fun a => a.company == n)
  | _ => s

/-- Every company's ingress is looked at again. -/
def State.drainAll (s : State) : State :=
  s.clusters.foldl (fun (s : State) (e : Nat × Cluster) =>
    if e.2.ingress.isEmpty then s
    else e.2.companies.foldl (fun (s : State) (c : Nat × Company) => s.drainCompany e.1 c.1 c.2) s) s

/-- WLLIM of a suspended company's green room is raised. -/
def State.raiseLimit (s : State) (cl n limit : Nat) : State :=
  match s.company? cl n with
  | none => s
  | some co =>
    if !co.susp || co.cgrb = 0 then s
    else
      let (v, s) := s.greenRead co.pnum (co.base + 0x28)
      if limit ≤ v / 2 ^ 32 || 2 ^ 32 ≤ limit then s
      else (s.greenWrite co.pnum (co.base + 0x28) (v % 2 ^ 32 + limit * 2 ^ 32)).drainCompany cl n co

/-- WINGS_LOG_LIMIT_RAISE. -/
def execWingsLogLimitRaise (cl company limit : Nat) (s : State) : Host.Outcome State Fault Refusal :=
  commandM (fun s => s.raiseLimit cl company limit) s

end Sys2Proof.Machine
end

