-- ==== Sys2Proof/Machine/Partition.lean ====
section
/-! DEFINITION. Partition commands: ACTIVATE, DEACTIVATE, SETHB and QUANT (R50 to R56, R442, R453, R454, R509). -/

namespace Sys2Proof.Machine

/-! ## XPCMD (R453) -/

/-- A command is in progress. -/
def State.beginCmd (s : State) (cp : Nat) : State := s.setCsr cp 0x7C3 (s.xpcmd cp ||| 0x10000)

/-- A command completes with a status: BUSY clears and DONE is set. -/
def State.endCmd (s : State) (cp status : Nat) : State :=
  s.setCsr cp 0x7C3 ((s.xpcmd cp &&& 0x7FFF) ||| BitVec.ofNat 64 (status * 2 ^ 17 + 2 ^ 20))

/-! ## The descriptor (R50 to R53) -/

/-- A descriptor as activation reads it: EN, PNUM, and what is in force from then on. -/
structure PartDesc where
  en : Bool
  pnum : Nat
  root : Nat
  pitch : BitVec 192
  vfmask : BitVec 256
  regions : List Word
  himg : Nat
  deriving DecidableEq, Repr

/-- The fields of a descriptor's 32 words. -/
def partDesc (w : List Nat) : PartDesc :=
  let v (i : Nat) : Nat := w.getD i 0
  { en := v 0 % 2 == 1, pnum := v 0 / 2 ^ 8 % 2 ^ 6, root := v 1 / 2 ^ 13 % 2 ^ 39 * 2 ^ 13,
    pitch := BitVec.ofNat 192 (v 2 + v 3 * 2 ^ 64 + v 4 * 2 ^ 128),
    vfmask := BitVec.ofNat 256 (v 5 + v 6 * 2 ^ 64 + v 7 * 2 ^ 128 + v 8 * 2 ^ 192),
    regions := (List.range 8).map fun i => BitVec.ofNat 64 (v (9 + i)), himg := v 17 / 2 ^ 6 % 2 ^ 46 * 2 ^ 6 }

/-- Reads a descriptor. -/
def State.readDesc (s : State) (pa : Nat) : PartDesc := partDesc (wordsOf (s.physBytes pa 256))

/-- The status with which an activation is refused, 0 for none: a bad descriptor, or a cluster or VF that another partition owns
(R54, R56). -/
def State.descStatus (s : State) (pnum pa : Nat) : Nat :=
  let d := s.readDesc pa
  if pa % 256 ≠ 0 || !physOk pa 256 || !d.en || d.pnum = 0 || Config.partitions < d.pnum || d.pnum ≠ pnum || 1 < d.root / 2 ^ 48 then 3
  else if s.parts.any fun (e : Nat × Part) => e.2.active && e.1 != d.pnum && ((e.2.pitch &&& d.pitch) != 0 || (e.2.vfmask &&& d.vfmask) != 0)
  then 2
  else 0

/-- The control context of a core ends its service and stands idle: its cluster runs nothing (R54). -/
def State.stopControl (s : State) (core : Coord) : State :=
  if (s.coreAt core).active then (s.endService core).updCtx core.toNat fun y => { y.settle with status := .idle } else s

/-- Clusters leave a pitch. DESIGN CHOICE (log entry 132): a control context that is still in service there, by a kill (log entry 24) or by
START, ends its service. -/
def State.leavePitch (s : State) (gone : BitVec 192) : State :=
  (((List.range Config.clusters).filter gone.getLsbD).flatMap clusterCores).foldl State.stopControl s

/-- A descriptor comes into force. -/
def State.applyDesc (s : State) (pnum pa : Nat) : State :=
  let d := s.readDesc pa
  (s.leavePitch ((s.part pnum).pitch &&& ~~~d.pitch)).updPart pnum fun p =>
    { p with active := true, desc := pa, root := d.root, pitch := d.pitch, vfmask := d.vfmask, regions := d.regions, himg := d.himg }

/-! ## Mode changes (R454) -/

/-- A started launch of a partition has not retired. -/
def State.hasLaunch (s : State) (pnum : Nat) : Bool := s.launches.any fun (e : Nat × Launch) => e.2.pnum == pnum

/-- The companies of a partition: cluster, number and company. -/
def State.companiesOf (s : State) (pnum : Nat) : List (Nat × Nat × Company) :=
  s.clusters.flatMap fun (c : Nat × Cluster) =>
    (c.2.companies.filter fun (e : Nat × Company) => e.2.pnum == pnum).map fun e => (c.1, e.1, e.2)

/-- Every company of a partition is pre-empted. -/
def State.suspendAll (s : State) (pnum : Nat) : State :=
  (s.companiesOf pnum).foldl (fun (s : State) e => s.beginSuspend e.1 e.2.1 0) s

/-- Every company of a partition is suspended. -/
def State.allSuspended (s : State) (pnum : Nat) : Bool := (s.companiesOf pnum).all fun e => e.2.2.susp && !e.2.2.busy

/-- A company whose cluster left the pitch is killed, and its launch's cell is written as cancelled. -/
def State.killCancelled (s : State) (co : Company) (n : Nat) : State :=
  let s := s.killGroup co.pnum co.launch n 0
  match s.launches.look (launchKey co.pnum co.launch) with
  | none => s
  | some l =>
    let s := { s with launches := s.launches.put (launchKey co.pnum co.launch) { l with cancelled := true } }
    if l.cancelled then s else s.cpCell l.vf l.pnum l.cell .cancel

/-- After a forced change: companies whose clusters are still in the pitch are resumed, the others killed. -/
def State.settleCompanies (s : State) (pnum : Nat) : State :=
  (s.companiesOf pnum).foldl (fun (s : State) e =>
    match s.company? e.1 e.2.1 with
    | none => s
    | some co =>
      if (s.part pnum).pitch.getLsbD e.1 then s.resumeCompany e.1 e.2.1 co else s.killCancelled co e.2.1) s

/-- ACTIVATE: refused, made, or, with FORCE and companies that run, begun and made once all are suspended. DESIGN CHOICE (log entry 81):
where several statuses apply, BADDESC comes before CONFLICT and CONFLICT before BUSY; and a forced change reads XPARG and the descriptor
again when it is made, so that what is then at XPARG is checked and applied. -/
def State.activate (s : State) (cp : Nat) : State :=
  let w := s.xpcmd cp
  let pnum := xpPnum w
  let pa := (s.xparg cp).toNat % 2 ^ 52
  let st := s.descStatus pnum pa
  if xpBusy w then
    if xpOp w != 1 || !s.allSuspended pnum then s
    else ((if st = 0 then s.applyDesc pnum pa else s).settleCompanies pnum).endCmd cp st
  else if st ≠ 0 then s.endCmd cp st
  else if (s.part pnum).active && s.hasLaunch pnum then
    if xpForce w then (s.suspendAll pnum).beginCmd cp else s.endCmd cp 1
  else (s.applyDesc pnum pa).endCmd cp 0

/-- Every launch of a partition is cancelled. -/
def State.cancelAll (s : State) (pnum : Nat) : State :=
  s.launches.foldl (fun (s : State) (e : Nat × Launch) => if e.2.pnum = pnum then s.cancelLaunch e.2 else s) s

/-- The policy that governed a partition until now has governed its grid frames in progress (R511). -/
def State.carryPolicy (s : State) (pnum : Nat) : State :=
  let old := s.policyOf pnum
  s.updPart pnum fun p =>
    let add (t : Tbl (Nat × Nat)) (j : Nat) : Tbl (Nat × Nat) :=
      let c := t.getD j (old.lgrid, old.tgran)
      t.put j (min c.1 old.lgrid, max c.2 old.tgran)
    { p with gridCarry := add (add p.gridCarry 0) 1 }

/-- A partition ends: its descriptor is no longer in force, its policy and key are discarded (R509). -/
def State.endPart (s : State) (pnum : Nat) : State :=
  (((s.cancelAll pnum).carryPolicy pnum).leavePitch (s.part pnum).pitch).updPart pnum fun p => { p with active := false, policy := none, boundKey := none }

/-- DEACTIVATE: refused, made, or, with FORCE and companies that run, begun; once all are suspended they are killed (R454). -/
def State.deactivate (s : State) (cp : Nat) : State :=
  let w := s.xpcmd cp
  let pnum := xpPnum w
  if xpBusy w then (if xpOp w != 2 || !s.allSuspended pnum then s else (s.endPart pnum).endCmd cp 0)
  else if !(s.part pnum).active then s.endCmd cp 4
  else if s.hasLaunch pnum then (if xpForce w then (s.suspendAll pnum).beginCmd cp else s.endCmd cp 1)
  else (s.endPart pnum).endCmd cp 0

/-- SETHB: the heartbeat interval of a partition; no timer is reset. -/
def State.setHb (s : State) (cp : Nat) : State :=
  let pnum := xpPnum (s.xpcmd cp)
  if xpBusy (s.xpcmd cp) then s
  else if pnum = 0 || Config.partitions < pnum then s.endCmd cp 4
  else (s.updPart pnum fun p => { p with hbint := (s.xparg cp).setWidth 32 }).endCmd cp 0

/-- QUANT: the mapping quantum, 50 µs to 100 ms. -/
def State.setQuant (s : State) (cp : Nat) : State :=
  let q := (s.xparg cp).toNat % 2 ^ 32
  if xpBusy (s.xpcmd cp) then s
  else if q < 50 || 100000 < q then s.endCmd cp 4
  else { s with quantum := q }.endCmd cp 0

/-- GO: the command of OP; an OP of no command is refused. -/
def State.partCommand (s : State) (cp : Nat) : State :=
  match xpOp (s.xpcmd cp) with
  | 1 => s.activate cp
  | 2 => s.deactivate cp
  | 3 => s.setHb cp
  | 4 => s.setQuant cp
  | _ => s.endCmd cp 4

/-- A write of XPCMD: while a command is in progress only DONE can change. -/
def State.writeXpcmd (s : State) (cp : Nat) (v : Word) : State :=
  let w := s.xpcmd cp
  let done : Word := if v.getLsbD 20 then w &&& ~~~0x100000 else w
  if xpBusy w then s.setCsr cp 0x7C3 done
  else
    let s := s.setCsr cp 0x7C3 ((done &&& ~~~0x7FFF) ||| (v &&& 0x7FFF))
    if v.getLsbD 15 then s.partCommand cp else s

/-- XPCMD with an OP and GO, its other fields as they stand. -/
def State.commandOp (s : State) (cp op : Nat) : State :=
  if xpBusy (s.xpcmd cp) then s
  else (s.setCsr cp 0x7C3 ((s.xpcmd cp &&& ~~~0xFF) ||| BitVec.ofNat 64 op)).partCommand cp

/-- PARTITION_ACTIVATE: the command, or the end of one in progress. -/
def execPartitionActivate (cp : Fin 4) (s : State) : Host.Outcome State Fault Refusal :=
  commandM (fun s => if xpBusy (s.xpcmd cp.val) then s.activate cp.val else s.commandOp cp.val 1) s

/-- PARTITION_DEACTIVATE: the command, or the end of one in progress. -/
def execPartitionDeactivate (cp : Fin 4) (s : State) : Host.Outcome State Fault Refusal :=
  commandM (fun s => if xpBusy (s.xpcmd cp.val) then s.deactivate cp.val else s.commandOp cp.val 2) s

/-- SETHB. -/
def execSethb (cp : Fin 4) (s : State) : Host.Outcome State Fault Refusal := commandM (fun s => s.commandOp cp.val 3) s

/-- QUANT. -/
def execQuant (cp : Fin 4) (s : State) : Host.Outcome State Fault Refusal := commandM (fun s => s.commandOp cp.val 4) s

end Sys2Proof.Machine
end

