-- ==== Sys2Proof/Machine/Observe.lean ====
section
/-! DEFINITION. Totals tables, the link grid, trace rings, breakpoint tables, dumps and disclosure policies (R479 to R501, R507 to R512,
R527, R541). -/

namespace Sys2Proof.Machine

/-! ## Totals (R479, R482 to R485) -/

/-- The cluster of a unit: of a core, or a cluster itself. -/
def unitCluster (u : Nat) : Option Nat :=
  if u < 1536 then some (clusterOf (mkCoord (u / 192) (u % 192 / 16) (u % 16))) else if u < 1728 then some (u - 1536) else none

/-- The die of a unit; the package has none. -/
def unitDie (u : Nat) : Option Nat :=
  if u < 1536 then some (u / 192) else if u < 1728 then some ((u - 1536) / 24) else if u < 1736 then some (u - 1728) else none

/-- A class of events that cores count. -/
def coreClass (c : Nat) : Bool := [0, 1, 2, 4, 6, 7, 8, 9, 10].contains c

/-- A sweeper reads one counter: what it has gained since the last sweep joins its total (R483). -/
def State.readCounter (s : State) (key : Nat) (now : BitVec 32) : State :=
  let d := now - s.swept.getD key 0
  { s with totals := s.totals.put key (s.totals.getD key 0 + d.setWidth 64), swept := s.swept.put key now }

/-- A sweeper reads each counter of its die once; event 1 of class 0 counts the cycles in which no slot of a core was ready. -/
def State.readCounters (s : State) (die : Nat) : State :=
  let idle (s : State) (c : Coord) : State :=
    s.readCounter (coreUnit c * 256 + 1) (BitVec.ofNat 32 (s.cycle - (s.coreAt c).readyCycles))
  let s := (allCores.filter fun c => cDie c == die).foldl idle s
  s.counts.foldl (fun (s : State) (e : Nat × BitVec 32) =>
    if unitDie (e.1 / 256) = some die then s.readCounter e.1 e.2 else s) s

/-- Total of an event of a unit. -/
def State.totalOf (s : State) (u word : Nat) : Nat := (s.totals.getD (u * 256 + word) 0).toNat

/-- Sum of an event over units. -/
def State.totalSum (s : State) (word : Nat) (f : Nat → Bool) : Nat :=
  (s.totals.foldl (fun (n : Nat) (e : Nat × Word) => if e.1 % 256 = word ∧ f (e.1 / 256) then n + e.2.toNat else n) 0) % 2 ^ 64

/-- All ones in a word. -/
def ones64 : Nat := 2 ^ 64 - 1

/-- The partition that owns a unit; 0 for none. -/
def State.unitOwner (s : State) (u : Nat) : Nat :=
  match unitCluster u with
  | none => 0
  | some cl => s.owner cl

/-- A word of a full table: units of other partitions' pitches are withheld. -/
def State.fullTotal (s : State) (pnum u word : Nat) : Nat :=
  if s.unitOwner u ≠ 0 ∧ s.unitOwner u ≠ pnum then ones64 else s.totalOf u word

/-- Level of a class in a policy. -/
def Policy.level (p : Policy) (cls : Nat) : Nat := (p.cvis.extractLsb' (4 * cls) 4).toNat

/-- A word of a coarsened table. -/
def State.coarseTotal (s : State) (pnum : Nat) (p : Policy) (u word : Nat) : Nat :=
  let mine (u : Nat) : Bool := s.unitOwner u == pnum
  match p.level (word / 16), unitCluster u with
  | 1, none => if u = 1736 then s.totalSum word mine else ones64
  | 2, none => if u < 1736 then s.totalSum word fun v => mine v && unitDie v == some (u - 1728) else ones64
  | _, none => ones64
  | n, some cl =>
    if s.owner cl = 0 then s.totalOf u word
    else if s.owner cl ≠ pnum then ones64
    else if n = 4 then s.totalOf u word
    else if n = 3 ∧ 1536 ≤ u then
      if coreClass (word / 16) then s.totalSum word fun v => v < 1536 && unitCluster v == some cl else s.totalOf u word
    else ones64

/-- Classes that a policy withholds. -/
def Policy.withheld (p : Policy) : Nat := (((List.range 16).filter fun c => p.level c == 0).map fun c => 2 ^ c).sum

/-- Rows that a die's sweeper writes: its units, itself and the package. -/
def sweepRows (die : Nat) : List Nat :=
  (List.range 192).map (fun i => die * 192 + i) ++ (List.range 24).map (fun i => 1536 + die * 24 + i) ++ [1728 + die, 1736]

/-- Writes a table's rows between two changes of SEQ; what the header reserves is written as zero (R8). -/
def State.writeTable (s : State) (base die time whmask : Nat) (f : Nat → Nat → Nat) : State :=
  let (seq, s) := s.physRead true base 8
  let w (a v : Nat) (s : State) : State := s.physWrite true a 8 v
  let s := w (base + 16) whmask (w (base + 8) time (w base ((seq + 1) % 2 ^ 64) s))
  let s := (List.range 5).foldl (fun (s : State) k => w (base + 24 + 8 * k) 0 s) s
  let s := (sweepRows die).foldl (fun (s : State) u =>
    (List.range 256).foldl (fun (s : State) k => w (base + 64 + u * 2048 + 8 * k) (f u k) s) s) s
  w base ((seq + 2) % 2 ^ 64) s

/-- Bytes of a totals table. -/
def totBytes : Nat := 64 + 1737 * 2048

/-- One totals table of a partition, if it is enabled and due. -/
def State.sweepTable (s : State) (die pnum i : Nat) : State :=
  let r := s.streamReg pnum i
  let pol := s.policyOf pnum
  if !r.getLsbD 0 then s
  else if s.streamFull pnum r totBytes then s.writeTable (streamBase r) die s.time 0 (s.fullTotal pnum)
  else
    let last := (s.part pnum).totLast.look (i * 8 + die)
    let due := match last with
      | none => true
      | some t => t + 2 ^ pol.tgran ≤ s.time
    if due then
      (s.writeTable (streamBase r) die (roundDown s.time pol.tgran) pol.withheld (s.coarseTotal pnum pol)).updPart pnum fun p =>
        { p with totLast := p.totLast.put (i * 8 + die) s.time }
    else s

/-- A word of DTOT: a counter of a shared unit where one has its place, else a unit's total in full (R480, R482, R492). -/
def State.deviceTotal (s : State) (u word : Nat) : Nat :=
  if u < 1728 then s.totalOf u word
  else
    match Config.sharedAt u word with
    | 1 => s.traceDrops.getD (u - 1728) 0
    | 2 => s.discardedReports
    | 3 => s.unclaimed
    | 4 => (Config.sharedCount u word s.time).toNat
    | _ => s.totalOf u word

/-- A device stream register. -/
def State.deviceReg (s : State) (i : Nat) : Word := s.mmio.getD (0x342000 + 8 * i) 0

/-- A die's sweep is due (R483). -/
def State.sweepDue (s : State) (die : Nat) : Bool := die < Config.dies && s.sweepAt.getD die 0 < s.time / 50000000

/-- A sweep. -/
def State.sweep (s : State) (die : Nat) : State :=
  if !s.sweepDue die then s
  else
    let s := { s with sweepAt := s.sweepAt.put die (s.time / 50000000) }.readCounters die
    let s := s.parts.keys.foldl (fun (s : State) p => (s.sweepTable die p 0).sweepTable die p 1) s
    let r := s.deviceReg 0
    if r.getLsbD 0 then s.writeTable (streamBase r) die s.time 0 s.deviceTotal else s

/-- COUNTER_SWEEP. -/
def execCounterSweep (die : Nat) (s : State) : Host.Outcome State Fault Refusal := eventM (fun s => s.sweep die) s

/-! ## The link grid (R486 to R489, R511, R518) -/

/-- What a link joins (R486, R518): mesh positions of a die by row and column, a die-to-die port, an HBM stack by its socket, a link of an
I/O die, a peer port, or routers of the interposer. -/
inductive LinkPlace where
  | row (die r c : Nat)
  | col (die r c : Nat)
  | diePort (die p : Nat)
  | hbm (socket : Nat)
  | ioDie (io j : Nat)
  | peerPort (p : Nat)
  | router (m : Nat)
  deriving DecidableEq, Repr

/-- A link direction: its link, and whether it is the first of the two: east, south, or outbound. -/
structure LinkDir where
  place : LinkPlace
  out : Bool
  deriving DecidableEq, Repr

/-- The link of a direction of the interposer (R518). -/
def interposerLink (k : Nat) : LinkPlace :=
  if k < 16 then .hbm (k / 2 + 8)
  else if k < 32 then .ioDie ((k - 16) / 8) ((k - 16) / 2)
  else if k < 48 then .peerPort ((k - 32) / 2)
  else .router ((k - 48) / 2)

/-- The link of a direction of a die (R486). -/
def dieLink (die k : Nat) : LinkPlace :=
  if k < 36 then .row die (k / 2 / 3) (k / 2 % 3)
  else if k < 76 then .col die ((k - 36) / 2 / 4) ((k - 36) / 2 % 4)
  else .diePort die ((k - 76) / 2)

/-- The link direction of an entry of a frame: 84 of each die, then the interposer's 64 (R488). -/
def linkDir (l : Nat) : LinkDir :=
  if l < 672 then { place := dieLink (l / 84) (l % 84), out := l % 84 % 2 == 0 }
  else { place := interposerLink (l - 672), out := (l - 672) % 2 == 0 }

/-- The cluster whose router sends on a mesh link direction (R489). -/
def LinkDir.sender (d : LinkDir) : Option Nat :=
  match d.place with
  | .row die r c => some (die * 24 + r * 4 + c + if d.out then 0 else 1)
  | .col die r c => some (die * 24 + (r + if d.out then 0 else 1) * 4 + c)
  | _ => none

/-- Owner of a link direction: of a mesh link the partition whose pitch holds the sending router's cluster; 0 for none (R489). -/
def State.linkOwner (s : State) (link : Nat) : Nat :=
  match (linkDir link).sender with
  | none => 0
  | some cl => s.owner cl

/-- What a link direction counts in an interval, in 32 bits that saturate (R487, R488). -/
def linkCount (link word start len : Nat) : Nat :=
  min (Config.linkTotal link word (start + len) - Config.linkTotal link word start) 0xFFFFFFFF

/-- Words of a frame: header, and the entries of 736 links, those not shown all ones. -/
def gridFrame (seq start len : Nat) (shown : Nat → Bool) : List Nat :=
  let held := (List.range 736).any fun l => !shown l
  [seq, start, len, if held then 1 else 0, 0, 0, 0, 0] ++
    (List.range 736).flatMap fun l => (List.range 4).map fun v =>
      if shown l then linkCount l (2 * v) start len + linkCount l (2 * v + 1) start len * 2 ^ 32 else ones64

/-- Interval of a grid stream in ns: of a partition, or of the device for number 0. -/
def State.gridInterval (s : State) (pnum : Nat) : Nat := (if pnum = 0 then s.deviceReg 2 else s.streamReg pnum 6).toNat % 2 ^ 20 * 1000

/-- Register of a grid stream. -/
def State.gridReg (s : State) (stream : Nat) : Word :=
  if stream / 2 = 0 then s.deviceReg 1 else s.streamReg (stream / 2) (2 + stream % 2)

/-- Start and length so far of the frame of a grid stream. -/
def State.gridAt (s : State) (stream : Nat) : Nat × Nat := (s.part (stream / 2)).gridAcc.getD (stream % 2) (0, 0)

/-- An interval of an enabled grid stream has ended. -/
def State.gridDue (s : State) (stream : Nat) : Bool :=
  let i := s.gridInterval (stream / 2)
  let a := s.gridAt stream
  streamOn (s.gridReg stream) && i != 0 && stream != 1 && a.1 + a.2 + i ≤ s.time

/-- A grid interval ends: a frame is appended, or goes on over the next interval. -/
def State.gridEnd (s : State) (stream : Nat) : State :=
  if !s.gridDue stream then s
  else
    let pnum := stream / 2
    let j := stream % 2
    let r := s.gridReg stream
    let (start, len) := s.gridAt stream
    let len := len + s.gridInterval pnum
    let full := pnum == 0 || s.streamFull pnum r (ringExtent r 23616)
    let pol := s.policyOf pnum
    let carry := (s.part pnum).gridCarry.getD j (pol.lgrid, pol.tgran)
    let lgrid := min carry.1 pol.lgrid
    let tgran := max carry.2 pol.tgran
    if !full && len < 2 ^ tgran then s.updPart pnum fun p => { p with gridAcc := p.gridAcc.put j (start, len) }
    else
      let shown (l : Nat) : Bool :=
        let o := s.linkOwner l
        pnum == 0 || o == 0 || (o == pnum && (full || lgrid == 1))
      let seq := (s.part pnum).gridSeq.getD j 0
      let words := gridFrame seq start len shown
      let s := (s.ringAppend true (streamBase r) (r.extractLsb' 1 4).toNat 23616 fun _ => words).2
      s.updPart pnum fun p =>
        { p with gridAcc := p.gridAcc.put j (start + len, 0), gridSeq := p.gridSeq.put j (seq + 1), gridCarry := p.gridCarry.del j }

/-- GRID_INTERVAL_END: of stream 2 p + j of partition p, or of the device's stream 0. -/
def execGridIntervalEnd (stream : Nat) (s : State) : Host.Outcome State Fault Refusal := eventM (fun s => s.gridEnd stream) s

/-! ## Trace (R490 to R492) -/

/-- The words of a trace record. -/
def TraceRec.nats (r : TraceRec) : List Nat := r.words.map BitVec.toNat

/-- TYPE of a trace record. -/
def TraceRec.type (r : TraceRec) : Nat := r.nats.getD 2 0 / 2 ^ 16 % 2 ^ 8

/-- A trace record as a coarsened ring receives it under the policy that it was made under: TIME rounded down, and the PC and VALUE of types
9 and 10 withheld at level 3 (R491, R511). -/
def TraceRec.coarse (r : TraceRec) : List Nat :=
  let w := r.nats
  let t := roundDown (w.getD 1 0) r.tgran
  let w2 := w.getD 2 0
  let ty := r.type
  if r.trlvl = 3 ∧ (ty = 9 ∨ ty = 10) then [w.getD 0 0, t, w2 % 2 ^ 24 + 2 ^ 24 + (2 ^ 32 - 1) * 2 ^ 32, ones64]
  else [w.getD 0 0, t, w2, w.getD 3 0]

/-- Appends a trace record to one ring. -/
def State.traceRing (s : State) (i : Nat) (t : TraceRec) : State :=
  let r := s.streamReg t.pnum i
  let append (w : List Nat) : State := (s.ringAppend true (streamBase r) (r.extractLsb' 1 4).toNat 32 fun _ => w).2
  if !streamOn r then s
  else if s.streamFull t.pnum r (ringExtent r 32) then append t.nats
  else if traceLevel t.type ≤ t.trlvl then append t.coarse
  else s

/-- The oldest record of a core's buffer is drained. -/
def State.drainTrace (s : State) (core : Coord) : State :=
  match (s.coreAt core).trace with
  | [] => s
  | r :: rest => ((s.updCore core fun c => { c with trace := rest }).traceRing 4 r).traceRing 5 r

/-- TRACE_DRAIN. -/
def execTraceDrain (core : Coord) (s : State) : Host.Outcome State Fault Refusal := eventM (fun s => s.drainTrace core) s

/-! ## Breakpoints (R493, R494, R497) -/

/-- An entry of a breakpoint table. -/
def bpEntry (w : List Nat) : BpEntry :=
  let c := w.getD 2 0
  { gtid := BitVec.ofNat 64 (w.getD 0 0), gmask := BitVec.ofNat 64 (w.getD 1 0), pc := BitVec.ofNat 32 c, en := c / 2 ^ 32 % 2 == 1,
    cond := BitVec.ofNat 2 (c / 2 ^ 33), pred := Fin.ofNat 8 (c / 2 ^ 35), reg := Fin.ofNat 16 (c / 2 ^ 38),
    value := BitVec.ofNat 64 (w.getD 3 0) }

/-- A core replaces its table. -/
def State.loadTable (s : State) (pnum : Nat) (core : Coord) : State :=
  if !(s.part pnum).bpTodo.contains core.toNat then s
  else
    let r := s.streamReg pnum 7
    let n := (r.extractLsb' 52 5).toNat
    let (w, s) := (List.range (4 * n)).foldl (fun (acc : List Nat × State) i =>
      let (v, s) := acc.2.physRead true (streamBase r + 8 * i) 8
      (acc.1 ++ [v], s)) ([], s)
    let bps := (List.range n).map fun i => bpEntry (w.drop (4 * i))
    (s.updCore core fun c => { c with bps }).updPart pnum fun p => { p with bpTodo := p.bpTodo.filter (· != core.toNat) }

/-- BREAKPOINT_TABLE_LOAD. -/
def execBreakpointTableLoad (pnum : Nat) (core : Coord) (s : State) : Host.Outcome State Fault Refusal :=
  eventM (fun s => s.loadTable pnum core) s

/-! ## Dumps (R498 to R501) -/

/-- A record of a dump. -/
structure DumpRec where
  gtid : Nat
  addr : Nat
  data : List Byte
  space : Nat
  state : Nat
  qsel : Nat
  core : Nat
  opid : Nat
  deriving DecidableEq, Repr

/-- The record of a write of a company that stands in a packet, a wings log or at an ingress. -/
def dumpWrite (cl n dest state : Nat) (a : Arrival) : List DumpRec :=
  let mine (src : StoreSrc) (space addr core : Nat) (data : List Byte) : List DumpRec :=
    if src.cl = cl ∧ src.company = n then
      [{ gtid := src.gtid.toNat, addr, data, space, state, qsel := src.qsel, core, opid := src.opid }]
    else []
  match a with
  | .write _ lbank off data _ (some src) => mine src 1 (lbank * 65536 + off) (clusterCoord dest).toNat data
  | .lwrite _ core off data _ (some src) => mine src 2 off core.toNat data
  | _ => []

/-- The engine queue and operation of a held store in a dump: 31 and 0 for a task's; none for one of an operator or of the command
processor, which a dump does not list (R499, R500). -/
def State.heldFrom (s : State) (h : HeldStore) : Option (Nat × Nat) :=
  match h.by_ with
  | .ctx => some (31, 0)
  | .op n => (s.ops.look n).map fun o => (o.qsel, o.id.toNat)
  | _ => none

/-- Stores of a company that are held under write-block, those of tasks that have exited among them. -/
def State.dumpHeld (s : State) (cl n : Nat) : List DumpRec :=
  s.held.flatMap fun (e : Nat × HeldStore) =>
    match s.heldFrom e.2 with
    | none => []
    | some (qsel, opid) =>
      if e.2.homeCl = cl ∧ e.2.company = n ∧ (s.company? cl n).any (fun co => co.inGroup (gtidPnum e.2.gtid) (gtidLaunch e.2.gtid)) then
        [{ gtid := e.2.gtid.toNat, addr := e.2.va, data := e.2.data, space := 0, state := 2, qsel, core := 0, opid }]
      else []

/-- The coordinate of the cluster of an `.s` target. -/
def scratchCore (c : Coord) : Nat := (clusterCoord (clusterOf c)).toNat

/-- Stores of a company in packets. An exported update that has not reached its cell, and is not held, is a part of its operation that has not
started (log entry 110). -/
def State.dumpPackets (s : State) (cl n : Nat) : List DumpRec :=
  s.pkts.flatMap fun (e : Nat × Packet) => match e.2 with
    | .scratch dest a => dumpWrite cl n dest 1 a
    | .message core _ _ doff data _ (some op) =>
      match s.ops.look op with
      | none => []
      | some o =>
        if o.cl = cl ∧ o.company = n then
          [{ gtid := o.gtid.toNat, addr := doff, data, space := 1, state := 1, qsel := o.qsel, core := scratchCore core,
             opid := o.id.toNat }]
        else []
    | .cell o _ dest _ held =>
      if o.cl = cl ∧ o.company = n then
        [{ gtid := o.gtid.toNat, addr := dest.va, data := [], space := 0, state := if held then 2 else 3, qsel := o.qsel, core := 0, opid := o.id.toNat }]
      else []
    | _ => []

/-- The cluster or core of an operation's target in a space (R500). -/
def EngOp.targetCore (o : EngOp) (spc : Fin 4) (sel : BitVec 32) : Nat :=
  if spc = 0 then 0 else if spc = 1 then (clusterCoord (o.scratchCl sel)).toNat else o.core.toNat

/-- Next destination of an operation that has writes to come: space, address, and the core or cluster of its target. -/
def EngOp.nextWrite (o : EngOp) : Option (Nat × Nat × Nat) :=
  match o.body with
  | .copy _ dspc _ _ _ remote c =>
    if c.total ≤ o.done then none
    else some (dspc.val, (c.at o.done).2.1, o.targetCore dspc remote)
  | .message _ _ _ len core _ _ doff => if max 1 (units64 len) ≤ o.done then none else some (1, doff + 64 * o.done, scratchCore core)
  | .tstor spc _ base d sel =>
    let bytes := packedBytes (descFmt d) 256
    if descRows d * bytes ≤ o.done then none
    else some (spc.val, addrPlus base (((o.done / bytes : Nat) : Int) * descStride d + ((o.done % bytes : Nat) : Int)),
      o.targetCore spc sel)
  | _ => none

/-- Writes of a company's engine operations that are still to come. -/
def State.dumpOps (s : State) (cl n : Nat) : List DumpRec :=
  s.ops.flatMap fun (e : Nat × EngOp) =>
    if e.2.cl = cl ∧ e.2.company = n ∧ e.2.result.isNone then
      match e.2.nextWrite with
      | none => []
      | some (space, addr, core) =>
        [{ gtid := e.2.gtid.toNat, addr, data := [], space, state := 3, qsel := e.2.qsel, core, opid := e.2.id.toNat }]
    else []

/-- Pieces of a company's operations on their way to other packages: the last ones sent, as many as have not been answered. -/
def State.dumpRemote (s : State) (cl n : Nat) : List DumpRec :=
  s.ops.flatMap fun (e : Nat × EngOp) =>
    if e.2.cl = cl ∧ e.2.company = n then
      let mine := s.outbox.filterMap fun m => match m with
        | .write _ _ sel addr data r => if r = e.1 then some (addr, data, scratchCore (sel.extractLsb' 0 16)) else none
        | .message _ _ core _ doff data r => if r = e.1 then some (doff, data, scratchCore core) else none
        | _ => none
      (mine.drop (mine.length - e.2.flying)).map fun m =>
        { gtid := e.2.gtid.toNat, addr := m.1, data := m.2.1, space := 1, state := 1, qsel := e.2.qsel, core := m.2.2, opid := e.2.id.toNat }
    else []

/-- Stores of a company in wings logs, its own among them (log entry 110), and held at an ingress. -/
def State.dumpWings (s : State) (cl n : Nat) : List DumpRec :=
  s.clusters.flatMap fun (c : Nat × Cluster) =>
    (c.2.wings.flatMap fun (w : Nat × List Arrival) => w.2.flatMap (dumpWrite cl n c.1 4)) ++
      c.2.ingress.flatMap (dumpWrite cl n c.1 5)

/-- Every store of a company that has not performed. -/
def State.dumpRecs (s : State) (cl n : Nat) : List DumpRec :=
  s.dumpHeld cl n ++ s.dumpPackets cl n ++ s.dumpRemote cl n ++ s.dumpOps cl n ++ s.dumpWings cl n

/-- A record as it is written, full or coarsened, and whether something of it is withheld. -/
def DumpRec.bytes (r : DumpRec) (full : Bool) (p : Policy) : List Byte × Bool :=
  let hideG := !full && p.fdlvl == 0
  let hideA := !full && p.agran == 63
  let hideD := !full && p.fdlvl != 3 && !r.data.isEmpty
  let addr := if full then r.addr else if hideA then ones64 else roundDown r.addr p.agran
  let data := if hideD then List.replicate r.data.length 0xFF else r.data
  let w2 := r.data.length + r.space * 2 ^ 7 + r.state * 2 ^ 9 + r.qsel * 2 ^ 12 + r.core * 2 ^ 32
  (leBytes 8 (if hideG then ones64 else r.gtid) ++ leBytes 8 addr ++ leBytes 8 w2 ++ leBytes 8 r.opid ++
    padTo data ((data.length + 31) / 32 * 32), hideG || hideA || hideD)

/-- Records from the front of a list that fit in a space. -/
def fitRecs (l : List (List Byte)) (room : Nat) : List (List Byte) :=
  match l with
  | [] => []
  | d :: r => if d.length ≤ room then d :: fitRecs r (room - d.length) else []

/-- Writes a dump. -/
def State.writeDump (s : State) (cp pnum cl n : Nat) : State :=
  let dst := s.csr cp 0x7C6
  let base := (dst.extractLsb' 6 46).toNat * 64
  let limit := (dst.extractLsb' 52 12).toNat * 4096
  let full := (s.part pnum).region base limit
  let recs := (s.dumpRecs cl n).map fun r => r.bytes full (s.policyOf pnum)
  let body := (fitRecs (recs.map Prod.fst) (limit - 64)).flatten
  let w2 := n + (clusterCoord cl).toNat * 2 ^ 4 + (if full then 2 ^ 20 else 0) + (if recs.any Prod.snd then 2 ^ 21 else 0)
  let d := leBytes 8 recs.length ++ leBytes 8 s.time ++ leBytes 48 w2 ++ body
  let s := if limit = 0 then s
    else (lineChunks (d.length / 64 + 2) base d).foldl (fun (s : State) e =>
      if physOk e.1 e.2.length then s.physBytesWrite e.1 e.2 else { s with unclaimed := s.unclaimed + 1 }) s
  s.setCsr cp 0x7C5 ((s.csr cp 0x7C5 &&& ~~~0xFFFF6000) ||| BitVec.ofNat 64 (0x4000 + min recs.length 0xFFFF * 2 ^ 16))

/-- GO of XDMPCTL. -/
def State.dump (s : State) (cp : Nat) : State :=
  let w := s.csr cp 0x7C5
  let index := (w.extractLsb' 0 5).toNat
  let cl := (w.extractLsb' 5 3).toNat * 24 + index
  let n := (w.extractLsb' 8 4).toNat
  let pnum := (w.extractLsb' 32 6).toNat
  let ok := 0 < pnum && pnum ≤ Config.partitions && index < 24 &&
    (match s.company? cl n with
     | none => false
     | some co => co.susp && co.pnum == pnum)
  if ok then s.writeDump cp pnum cl n else s.setCsr cp 0x7C5 (w ||| 0x8000)

/-- DUMP: the dump that XDMPCTL and XDMPDST describe. -/
def execDump (cp : Fin 4) (s : State) : Host.Outcome State Fault Refusal := commandM (fun s => s.dump cp.val) s

/-! ## Policies (R507 to R511, R527) -/

/-- A policy record: its fields, and whether every field and reserved bit is valid. -/
def policyRec (d : List Byte) : Policy × Bool :=
  let w (i : Nat) : Nat := leValue (slice d (8 * i) 8)
  let c := w 3
  let p : Policy :=
    { serial := BitVec.ofNat 64 (w 1), cvis := BitVec.ofNat 64 (w 2), tgran := c % 2 ^ 6, trlvl := c / 2 ^ 8 % 2 ^ 4,
      fdlvl := c / 2 ^ 12 % 2 ^ 4, agran := c / 2 ^ 16 % 2 ^ 6, lgrid := c / 2 ^ 22 % 4, replay := c / 2 ^ 24 % 4,
      ident := c / 2 ^ 26 % 2 == 1, expiry := w 4, key := slice d 0x28 32, past := false }
  let ok := w 0 == 1 && ((List.range 16).all fun i => p.level i ≤ 4) && p.tgran ≤ 40 && c / 2 ^ 6 % 4 == 0 && p.trlvl ≤ 4 && p.fdlvl ≤ 3 &&
    ((6 ≤ p.agran && p.agran ≤ 56) || p.agran == 63) && p.lgrid ≤ 1 && p.replay ≤ 2 && c / 2 ^ 27 == 0 &&
    (slice d 0x48 0x78).all fun b => b == 0
  (p, ok)

/-- Status of a registration (R508, R509, R527). -/
def State.policyStatus (s : State) (pnum : Nat) (d : List Byte) : Nat :=
  let (p, ok) := policyRec d
  let q := s.part pnum
  match s.clockSeconds with
  | none => 5
  | some t =>
    if pnum = 0 || Config.partitions < pnum || !q.active then 6
    else if !ok then 2
    else if !signatureOk p.key (slice d 0 0xC0) (slice d 0xC0 64) then 1
    else if q.boundKey.isSome && q.boundKey != some p.key then 4
    else if (match q.policy with
      | none => false
      | some old => p.serial.toNat ≤ old.serial.toNat) then 3
    else if p.expiry ≤ t then 5
    else 0

/-- GO of XPOLCTL. -/
def State.registerPolicy (s : State) (cp : Nat) : State :=
  let w := s.csr cp 0x7C7
  let pnum := w.toNat % 2 ^ 6
  let a := ((s.csr cp 0x7C8).extractLsb' 6 46).toNat * 64
  let d := if physOk a 256 then s.physBytes a 256 else List.replicate 256 0xFF
  let st := s.policyStatus pnum d
  let p := (policyRec d).1
  let s := if st = 0 then (s.carryPolicy pnum).updPart pnum fun q => { q with policy := some p, boundKey := some (q.boundKey.getD p.key) }
    else s
  s.setCsr cp 0x7C7 (BitVec.ofNat 64 (pnum + st * 2 ^ 8 + 2 ^ 11))

/-- POLICY_REGISTER: the record that XPOLCTL and XPOLADR name. -/
def execPolicyRegister (cp : Fin 4) (s : State) : Host.Outcome State Fault Refusal := commandM (fun s => s.registerPolicy cp.val) s

/-- The installed policy of a partition has passed its expiry, and this has not taken effect yet. -/
def State.expiring (s : State) (pnum : Nat) : Bool :=
  match (s.part pnum).policy with
  | none => false
  | some p => !p.past && s.policyExpired p

/-- A policy expires: from this instant the most restrictive one governs. -/
def State.expirePolicy (s : State) (pnum : Nat) : State :=
  if s.expiring pnum then
    (s.carryPolicy pnum).updPart pnum fun q => { q with policy := q.policy.map fun p => { p with past := true } }
  else s

/-- POLICY_EXPIRY. -/
def execPolicyExpiry (pnum : Nat) (s : State) : Host.Outcome State Fault Refusal := eventM (fun s => s.expirePolicy pnum) s

end Sys2Proof.Machine
end

