-- ==== Sys2Proof/Machine/Firmware.lean ====
section
/-! DEFINITION. Firmware images, the watchdog ladder, boot, identity, die-to-die link steps and peer packets (R20, R172, R517,
R520 to R529). -/

namespace Sys2Proof.Machine

/-! ## Images (R521, R522) -/

/-- Bytes of an image's header (R521). -/
def fwHeader : Nat := 0x100

/-- The minimum SVN in force (R526). -/
def State.minSvn (s : State) : Nat := max s.flash.minSvn s.svnFloor

/-- An image's header is well formed for its bytes. -/
def fwSound (d : List Byte) : Bool :=
  fwHeader ≤ d.length && leValue (slice d 0 4) == 0x4C474658 && fwHeader + leValue (slice d 8 4) ≤ d.length &&
    leValue (slice d 12 4) < leValue (slice d 8 4)

/-- What an image's digest and signature cover: the first 64 bytes of the header and the code. -/
def fwMessage (d : List Byte) : List Byte := slice d 0 0x40 ++ slice d fwHeader (leValue (slice d 8 4))

/-- KEY of an image is a firmware key, its digest is that of its bytes, and its signature verifies. -/
def State.fwSigned (s : State) (d : List Byte) : Bool :=
  let digest := sha512 (fwMessage d)
  let key := slice d 0x40 32
  slice d 0x60 64 == leBytes 64 digest.toNat && s.flash.keyHashes.contains (sha512 key) &&
    signatureOk key (slice d 0x60 64) (slice d 0xA0 64)

/-- STATUS of the verification of an image: 0 OK, 1 BADSIG, 2 BADIMG, 3 ROLLBACK. -/
def State.fwStatusOf (s : State) (d : List Byte) : Nat :=
  if !fwSound d then 2
  else if leValue (slice d 4 2) < s.minSvn then 3
  else if !s.fwSigned d then 1
  else 0

/-- What the security core keeps of a verified image: its code stands in understudy memory. -/
def fwImage (d : List Byte) : FwImage :=
  { svn := BitVec.ofNat 16 (leValue (slice d 4 2)), entry := leValue (slice d 12 4), digest := sha512 (fwMessage d),
    code := slice d fwHeader (leValue (slice d 8 4)) }

/-- A command is refused because one runs: STATUS BUSY, and nothing else. -/
def State.fwRefuse (s : State) : State := { s with fwStatus := 5 }

/-- LOAD of the bytes of an image begins: they are copied, and BUSY is set while they are verified. -/
def State.fwLoad (s : State) (d : List Byte) (andSwitch : Bool) : State :=
  if s.fwBusy then s.fwRefuse else { s with fwBusy := true, fwLoading := some (d, andSwitch) }

/-- The verification of a LOAD is over: it replaces any understudy already held, and DONE is set. -/
def State.fwLoaded (s : State) (d : List Byte) : State :=
  let st := s.fwStatusOf d
  { s with fwBusy := false, fwLoading := none, fwStatus := BitVec.ofNat 3 st, fwDone := true,
           understudy := if st = 0 then some (fwImage d) else none }

/-- The bytes of the image at XFWADR; none where it does not lie in HBM. -/
def State.fwBytes (s : State) : List Byte :=
  let a := (s.fwAdr.extractLsb' 6 46).toNat * 64
  if !physOk a fwHeader then []
  else
    let n := fwHeader + leValue (s.physBytes (a + 8) 4)
    if physOk a n then s.physBytes a n else []

/-- FIRMWARE_LOAD. -/
def execFirmwareLoad (s : State) : Host.Outcome State Fault Refusal := commandM (fun s => s.fwLoad s.fwBytes false) s

/-- SWITCH: refused while a command runs or without an understudy; else it waits for a quiescent point. -/
def State.fwSwitch (s : State) : State :=
  if s.fwBusy then s.fwRefuse
  else if s.understudy.isNone then { s with fwStatus := 4, fwDone := true }
  else { s with fwBusy := true }

/-- FIRMWARE_SWITCH. -/
def execFirmwareSwitch (s : State) : Host.Outcome State Fault Refusal := commandM State.fwSwitch s

/-- DISCARD. -/
def State.fwDiscard (s : State) : State :=
  if s.fwBusy then s.fwRefuse else { s with understudy := none, fwStatus := 0, fwDone := true }

/-- FIRMWARE_DISCARD. -/
def execFirmwareDiscard (s : State) : Host.Outcome State Fault Refusal := commandM State.fwDiscard s

/-- A quiescent point: no command-processor core has a command in progress, and no launch has still to start its tasks, step 8 of R448
(R523). Dumps and policy registrations are one step of this model. -/
def State.quiescent (s : State) : Bool :=
  !(s.sdregs.any fun (e : Nat × SdRegs) => e.2.busy) && ((List.range 4).all fun cp => !xpBusy (s.xpcmd cp)) &&
    s.launches.all fun (e : Nat × Launch) => e.2.todo.isEmpty || e.2.dying || e.2.cancelled

/-- The command-processor cores start at the ENTRY of an image (R525). -/
def FwImage.startPcs (i : FwImage) : Tbl Word := (List.range 4).map fun cp => (cp, BitVec.ofNat 64 i.entry)

/-- The command-processor cores restart: their own device registers return to reset, but for those of a command in progress. -/
def State.resetCores (s : State) : State :=
  { s with restarting := true, cpModes := [], cpPcs := s.running.startPcs, sdregs := s.sdregs.filter fun (e : Nat × SdRegs) => e.2.busy,
           csrs := s.csrs.filter fun (e : Nat × Word) => xpBusy (s.xpcmd (e.1 / 4096)) && (e.1 % 4096 == 0x7C3 || e.1 % 4096 == 0x7C4) }

/-- The understudy, if one is held, and the running image change places. -/
def State.swapImages (s : State) : State :=
  match s.understudy with
  | none => s
  | some u => { s with running := u, understudy := some s.running }

/-- Doorbells held during a restart take effect in arrival order (R523). -/
def State.releaseDoorbells (s : State) : State :=
  s.heldDoorbells.foldl (fun (s : State) e => s.ringDoorbell e.1 e.2) { s with heldDoorbells := [] }

/-- A LOAD ends, and a SWITCH follows a PLDM update's; a SWITCH finds a quiescent point and the cores restart; or a restart ends. -/
def State.restartStep (s : State) : State :=
  match s.fwLoading with
  | some (d, andSwitch) =>
    let s := s.fwLoaded d
    if andSwitch && s.fwStatus == 0 then s.fwSwitch else s
  | none =>
    if s.restarting then
      let s := if s.fwBusy then { s with fwBusy := false, fwStatus := 0, fwDone := true } else s
      { s with restarting := false }.releaseDoorbells
    else if s.fwBusy && s.quiescent then s.swapImages.resetCores
    else s

/-- QUIESCENT_SWITCH_RESTART. -/
def execQuiescentSwitchRestart (s : State) : Host.Outcome State Fault Refusal := commandM State.restartStep s

/-! ## The watchdog ladder (R520, R524) -/

/-- Cycles of a number of milliseconds. -/
def msCycles (ms : Nat) : Nat := ms * 2700000

/-- KICK: the watchdog restarts, and a ladder of CAUSE 0 ends. -/
def State.kick (s : State) : State :=
  { s with wdLast := s.cycle, ladder := s.ladder.filter fun l => l.fence }

/-- WATCHDOG_KICK. -/
def execWatchdogKick (s : State) : Host.Outcome State Fault Refusal := commandM State.kick s

/-- ACK: a ladder of CAUSE 1 ends. -/
def State.ack (s : State) : State := { s with ladder := s.ladder.filter fun l => !l.fence }

/-- LADDER_ACK. -/
def execLadderAck (s : State) : Host.Outcome State Fault Refusal := commandM State.ack s

/-- The firmware watchdog passes T1 without a KICK. -/
def State.watchdogDue (s : State) : Bool :=
  s.boot == .running && s.wdT1 != 0 && s.ladder.isNone && s.wdLast + msCycles s.wdT1.toNat ≤ s.cycle

/-- WATCHDOG_TIMEOUT. -/
def execWatchdogTimeout (s : State) : Host.Outcome State Fault Refusal :=
  eventM (fun s => if s.watchdogDue then s.startLadder false 0 else s) s

/-- The ladder has stood at a rung for its time. -/
def State.rungDue (s : State) (rung ms : Nat) : Bool :=
  match s.ladder with
  | none => false
  | some l => l.rung == rung && l.since + msCycles ms ≤ s.cycle

/-- The ladder stands at a rung, which RUNG shows unless the rung is skipped. -/
def State.atRung (s : State) (n : Nat) (skipped : Bool) : State :=
  { s with ladder := s.ladder.map fun l => { l with rung := n, since := s.cycle },
           rung := if skipped || n ≤ s.rung.toNat then s.rung else BitVec.ofNat 3 n }

/-- Rung 2: SWITCH without a quiescent point; skipped without an understudy. -/
def State.rung2 (s : State) : State :=
  if s.rungDue 1 50 then
    if s.understudy.isNone then s.atRung 2 true
    else { (s.atRung 2 false).swapImages.resetCores with fwBusy := true, fwLoading := none }
  else s

/-- RUNG_SWITCH. -/
def execRungSwitch (s : State) : Host.Outcome State Fault Refusal := eventM State.rung2 s

/-- Rung 3: the cores are reset and boot the understudy if one is held. -/
def State.rung3 (s : State) : State := if s.rungDue 2 50 then (s.atRung 3 false).swapImages.resetCores else s

/-- RUNG_CP_RESET. -/
def execRungCpReset (s : State) : Host.Outcome State Fault Refusal := eventM State.rung3 s

/-- DEACTIVATE with FORCE of a partition begins: its companies are pre-empted (R454). -/
def State.beginCycle (s : State) (pnum : Nat) : State :=
  if (s.part pnum).active then { s.suspendAll pnum with cycling := some pnum } else s

/-- The partition's companies are all suspended: it ends, and its descriptor is activated. -/
def State.cyclePart (s : State) (pnum : Nat) : State :=
  let pa := (s.part pnum).desc
  let s : State := { s.endPart pnum with cycling := none }
  if s.descStatus pnum pa = 0 then s.applyDesc pnum pa else s

/-- Rung 4: the partition of the fence starts again; skipped after a firmware timeout. -/
def State.rung4 (s : State) : State :=
  match s.cycling with
  | some p => if s.allSuspended p then s.cyclePart p else s
  | none =>
    if s.rungDue 3 100 then
      if s.ladderCause then (s.atRung 4 false).beginCycle s.ladderPnum.toNat else s.atRung 4 true
    else s

/-- RUNG_PARTITION_RESET. -/
def execRungPartitionReset (s : State) : Host.Outcome State Fault Refusal := eventM State.rung4 s

/-- Every launch's companies are killed and its cell receives FFAIL with 0x108. -/
def State.killEverything (s : State) : State :=
  let s := s.clusters.foldl (fun (s : State) (c : Nat × Cluster) =>
    c.2.companies.foldl (fun (s : State) (e : Nat × Company) => s.killGroup e.2.pnum e.2.launch e.1 0x108) s) s
  s.launches.foldl (fun (s : State) (e : Nat × Launch) =>
    if e.2.cancelled then s else s.cpCell e.2.vf e.2.pnum e.2.cell (.ffail 0x108)) s

/-- Every software queue returns to STATE 0. -/
def State.idleQueues (s : State) : State :=
  s.vfs.foldl (fun (s : State) (f : Nat × Vf) =>
    f.2.queues.foldl (fun (s : State) (q : Nat × SwQueue) => s.putSw f.1 q.1 { q.2 with state := .idle }) s)
    { s with hwslots := [], waitingQs := [] }

/-- I/O die 0 is reset: companies and launches are gone, its registers and those of the command-processor cores return to reset; HBM,
the registers of the virtual functions, the host link and the ladder survive. -/
def State.resetIoDie (s : State) : State :=
  let s := s.killEverything.idleQueues
  { s with launches := [], queues := [], oprs := [], parts := [], mmio := [], csrs := [], sdregs := [], shootdowns := [], reports := [], lastServed := 0, quantum := 1000,
           reserved := [], unclaimed := 0, discardedReports := 0, restarting := true, fwBusy := false, fwLoading := none,
           cycling := none, replayPos := [], replaySeq := [], replayWritten := [], cpModes := [], cpPcs := s.running.startPcs, pkg := 0xFFF, fwAdr := 0 }

/-- Rung 5. -/
def State.rung5 (s : State) : State := if s.rungDue 4 200 then (s.atRung 5 false).resetIoDie else s

/-- RUNG_IO_DIE_RESET. -/
def execRungIoDieReset (s : State) : Host.Outcome State Fault Refusal := eventM State.rung5 s

/-- The package is reset: module flash, which lies outside it, keeps what it holds. -/
def State.resetPackage (s : State) : State :=
  { State.reset with flash := s.flash, recFloor := s.recFloor, svnFloor := s.svnFloor, outbox := s.outbox, agenda := s.agenda }

/-- PACKAGE_RESET: rung 6. -/
def execPackageReset (s : State) : Host.Outcome State Fault Refusal :=
  eventM (fun s => if s.rungDue 5 500 then s.resetPackage else s) s

/-- JUNCTION_ALARM: the thermal interrupt (R529). -/
def execJunctionAlarm (s : State) : Host.Outcome State Fault Refusal := eventM (fun s => { s with irqs := s.irqs ++ [.thermal] }) s

/-- JUNCTION_TRIP: rung 6 at once (R529). -/
def execJunctionTrip (s : State) : Host.Outcome State Fault Refusal := eventM State.resetPackage s

/-! ## Boot, records and attestation (R525 to R528) -/

/-- What the signature of a configuration record covers. -/
def recordBytes (r : ConfigRecord) : List Byte :=
  leBytes 4 r.version ++ leBytes 2 r.minSvn ++ r.keyHashes.flatMap (fun h => leBytes 64 h.toNat) ++ r.body

/-- The security core accepts a configuration record: its device key verifies the signature, and its version is not below the floor. -/
def State.recordOk (s : State) (r : ConfigRecord) : Bool :=
  r.version < 2 ^ 32 && s.recFloor ≤ r.version && signatureOk (Config.flashBytes 0) (recordBytes r) r.signature

/-- Power-up: the counter block and the record are verified, ports train at 8 GT/s, and the primary image is verified and started. -/
def State.powerUp (s : State) : State :=
  if s.boot ≠ .off then s
  else
    let d := Config.flashBytes 1
    if Config.counterBlockOk (s.recFloor * 2 ^ 16 + s.svnFloor) && s.recordOk s.flash && s.fwStatusOf d == 0 then
      { s with boot := .running, running := fwImage d, cpPcs := (fwImage d).startPcs, linkSteps := [], wdLast := s.cycle }
    else { s with boot := .stopped }

/-- POWER_UP_BOOT. -/
def execPowerUpBoot (s : State) : Host.Outcome State Fault Refusal := eventM State.powerUp s

/-- A record submitted through PF 0 replaces the one in flash, and the floors rise. -/
def State.installRecord (s : State) (r : ConfigRecord) : State :=
  if s.recordOk r then { s with flash := r, recFloor := max s.recFloor r.version, svnFloor := max s.svnFloor r.minSvn } else s

/-- CONFIG_RECORD_INSTALL. -/
def execConfigRecordInstall (record : ConfigRecord) (s : State) : Host.Outcome State Fault Refusal :=
  commandM (fun s => s.installRecord record) s

/-- A time record signed with the trusted-clock key, which the configuration record's body holds, sets the clock. -/
def State.setClock (s : State) (r : TimeRecord) : State :=
  if signatureOk s.flash.body (leBytes 8 r.seconds ++ r.body) r.signature then { s with clock := some (r.seconds, s.cycle) } else s

/-- TRUSTED_CLOCK_SET. -/
def execTrustedClockSet (record : TimeRecord) (s : State) : Host.Outcome State Fault Refusal := commandM (fun s => s.setClock record) s

/-- A PLDM firmware update: LOAD, and SWITCH where it succeeded. -/
def State.pldmUpdate (s : State) (d : List Byte) : State :=
  if s.fwBusy then s.fwRefuse
  else s.fwLoad d true

/-- PLDM_FIRMWARE_UPDATE. -/
def execPldmFirmwareUpdate (image : List Byte) (s : State) : Host.Outcome State Fault Refusal := commandM (fun s => s.pldmUpdate image) s

/-- KEY fields of the installed policies, in partition order. -/
def State.policyKeys (s : State) : List Byte :=
  s.parts.flatMap fun (e : Nat × Part) => match e.2.policy with
    | none => []
    | some p => p.key

/-- The measurements of R528, by index. -/
def State.measurements (s : State) : List (BitVec 512) :=
  [sha512 (Config.flashBytes 2), sha512 (recordBytes s.flash), s.running.digest, (s.understudy.map FwImage.digest).getD 0,
   sha512 s.policyKeys]

/-- The report of an attestation: the measurements, signed with the device key (R528). -/
def State.attestation (s : State) : Sent :=
  .measurements s.measurements (Config.deviceSignature (s.measurements.flatMap fun h => leBytes 64 h.toNat))

/-- SPDM_ATTESTATION. -/
def execSpdmAttestation (s : State) : Host.Outcome State Fault Refusal :=
  commandM (fun s => { s with outbox := s.outbox ++ [s.attestation] }) s

/-! ## Die-to-die link steps (R172, R520) -/

/-- CAP of a port. -/
def State.linkCap (s : State) (port : Nat) : Nat := (s.linkCaps.extractLsb' (2 * port) 2).toNat

/-- Cycles have passed since the last step of a port, or of any port under number 32. -/
def State.stepFree (s : State) (port cycles : Nat) : Bool :=
  match s.lastStep.look port with
  | none => true
  | some c => c + cycles ≤ s.cycle

/-- A port changes its step at a frame boundary, 100 µs after its last change and 2 µs after any port's, within its cap. -/
def State.stepLink (s : State) (port : Nat) (stp : Fin 4) : State :=
  if port < 32 && s.cycle % 256 == 0 && s.stepFree port 270000 && s.stepFree 32 5400 && stp.val ≤ s.linkCap port then
    { s with linkSteps := s.linkSteps.put port stp, lastStep := (s.lastStep.put port s.cycle).put 32 s.cycle,
             retraining := s.retraining.filter (fun p => p != port) ++ [port] }
  else s

/-- LINK_STEP_CHANGE. -/
def execLinkStepChange (port stp : Nat) (s : State) : Host.Outcome State Fault Refusal :=
  eventM (fun s => match Nat.decLt stp 4 with
    | isTrue h => s.stepLink port ⟨stp, h⟩
    | isFalse _ => s) s

/-- RETRAINING_END: at most 300 ns after it opened, a port's window closes. -/
def execRetrainingEnd (port : Nat) (s : State) : Host.Outcome State Fault Refusal :=
  eventM (fun s => { s with retraining := s.retraining.filter fun p => p != port }) s

/-! ## Peer packets (R20, R517) -/

/-- An answer to another package. -/
def State.answer (s : State) (request : Nat) (refusal : Option PeerRefusal) (value : Word) : State :=
  { s with outbox := s.outbox ++ [.answer request refusal value] }

/-- The landings of a packet of another package are awaited under a number. -/
def State.awaitPeer (s : State) (request left : Nat) : Nat × State :=
  (s.fresh, { s with peers := s.peers.put s.fresh { request, left, dropped := false }, fresh := s.fresh + 1 })

/-- A message packet of another package lands (R357). -/
def State.peerMessage (s : State) (company : Nat) (core : Coord) (tag : Fin 16) (doff : Nat) (d : List Byte) (request : Nat) : State :=
  let (n, s) := s.awaitPeer request 1
  let (fates, s) := s.landData (clusterOf core) company doff d none
  s.landCount core tag company none (some n) fates

/-- A piece of a remote copy of another package lands, a bank at a time (R373). -/
def State.peerWrite (s : State) (company cl addr : Nat) (d : List Byte) (request : Nat) : State :=
  if d.isEmpty || 2 ^ 21 < addr + d.length || (s.company? cl company).isNone then s.answer request (some .noTarget) 0
  else
    let first := min d.length (65536 - addr % 65536)
    let parts := [(addr, d.take first), (addr + first, d.drop first)].filter fun e => !e.2.isEmpty
    let (n, s) := s.awaitPeer request parts.length
    parts.foldl (fun (s : State) e => s.landScratch cl (.write company (e.1 / 65536) (e.1 % 65536) e.2 (some n) none)) s

/-- The update of an atomic, by its opcode (R346). -/
def atomicOf (opc : Nat) : Option AtomicOp :=
  match opc with
  | 0x205 => some fun _ old v _ => some (old + v)
  | 0x206 => some atomicMin
  | 0x207 => some atomicMax
  | 0x208 => some atomicMin
  | 0x209 => some atomicMax
  | 0x20A => some (atomicBits fun a b => a &&& b)
  | 0x20B => some (atomicBits fun a b => a ||| b)
  | 0x20C => some (atomicBits fun a b => a ^^^ b)
  | 0x20D => some fun _ _ v _ => some v
  | 0x20E => some fun _ old v d => if old = d then some v else none
  | 0x20F => some (atomicFloat (Num.add .rne))
  | 0x210 => some (atomicFloat Num.max)
  | _ => none

/-- Operands of an atomic are signed (R346). -/
def atomicSigned (opc : Nat) : Bool := opc != 0x208 && opc != 0x209 && opc != 0x20F && opc != 0x210

/-- An atomic of another package performs in one step at a company's scratch, or is refused as one of this package is (R337, R338). -/
def State.peerAtomic (s : State) (company cl addr opc n : Nat) (value expect : Word) (request : Nat) : State :=
  let c := s.clusterAt cl
  let lb := addr / 65536 % 32
  match atomicOf opc with
  | none => s.answer request (some .noTarget) 0
  | some f =>
    if !(n == 4 || n == 8) || addr % n ≠ 0 || 2 ^ 21 < addr + n || (s.company? cl company).isNone then s.answer request (some .noTarget) 0
    else if (match c.divertOf company with
      | none => false
      | some (_, _, _, lbanks) => lbanks.getLsbD lb) then s.answer request (some .suspended) 0
    else
      match c.physBank company lb .scratch with
      | none => s.answer request (some .noTarget) 0
      | some b =>
        if c.discarded company lb then s.answer request (some .noTarget) 0
        else
          let pa := bankPa cl b (addr % 65536)
          let old := leValue (s.tierBytes pa n)
          let int (w : Word) : Int := wordInt (8 * n) (atomicSigned opc) w
          let s := match f (8 * n) (int (BitVec.ofNat 64 old)) (int value) (int expect) with
            | none => s
            | some x => s.setTier pa (leBytes n (x % 2 ^ (8 * n)).toNat)
          s.answer request none (BitVec.ofNat 64 old)

/-- An answer of another package ends a packet's flight, or reaches the atomic that waits for it. -/
def State.peerAnswer (s : State) (request : Nat) (refusal : Option PeerRefusal) (value : Word) : State :=
  match s.ops.look request with
  | some o =>
    if o.flying = 0 then s
    else
      s.updOp request fun o =>
        { o with flying := o.flying - 1, dropped := o.dropped || refusal.isSome, refused := o.refused || refusal == some .wrongPackage }
  | none =>
    match s.ctxs.findKey fun _ x => x.status == .flight (.peer request none) with
    | none => s
    | some k => s.updCtx k fun x => { x with status := .flight (.peer request (some (refusal, value))) }

/-- A packet that a peer port delivers; one for another package number is dropped and refused (R517). -/
def State.peerArrival (s : State) (p : PeerPacket) : State :=
  match p with
  | .message target company core tag doff data request =>
    if target ≠ s.pkg then s.answer request (some .wrongPackage) 0
    else
      match Nat.decLt tag 16 with
      | isTrue h => if coordValid core then s.peerMessage company core ⟨tag, h⟩ doff data request else s.answer request (some .noTarget) 0
      | isFalse _ => s.answer request (some .noTarget) 0
  | .write target company core addr data request =>
    if target ≠ s.pkg then s.answer request (some .wrongPackage) 0
    else if coordValid core then s.peerWrite company (clusterOf core) addr data request
    else s.answer request (some .noTarget) 0
  | .atomic target company core addr opc size value expect request =>
    if target ≠ s.pkg then s.answer request (some .wrongPackage) 0
    else if coordValid core then s.peerAtomic company (clusterOf core) addr opc.toNat size value expect request
    else s.answer request (some .noTarget) 0
  | .answer request refusal value => s.peerAnswer request refusal value

/-- PEER_PACKET_ARRIVAL. -/
def execPeerPacketArrival (packet : PeerPacket) (s : State) : Host.Outcome State Fault Refusal := eventM (fun s => s.peerArrival packet) s

end Sys2Proof.Machine
end

