-- ==== Sys2Proof/Machine/Registers.lean ====
section
/-! DEFINITION. Writes of the device registers, and soft errors (R27, R48, R94, R165, R236, R267, R439, R453, R463, R464, R477, R478,
R480, R487, R493, R498, R502, R508, R516, R517, R519, R520). -/

namespace Sys2Proof.Machine

/-! ## Fields -/

/-- The bits of a 64-bit register that an access reaches, and their new values. -/
structure RegBits where
  value : Word
  mask : Word
  deriving DecidableEq, Repr

/-- A write of 4 or 8 bytes, aligned, at an offset; none for any other (R27). -/
def regBits (offset size : Nat) (v : Word) : Option RegBits :=
  if size = 8 ∧ offset % 8 = 0 then some { value := v, mask := BitVec.allOnes 64 }
  else if size = 4 ∧ offset % 8 = 0 then some { value := v &&& 0xFFFFFFFF, mask := 0xFFFFFFFF }
  else if size = 4 ∧ offset % 8 = 4 then some { value := v <<< 32, mask := 0xFFFFFFFF00000000 }
  else none

/-- A register after a write of those of its bits that are read and write. -/
def RegBits.into (b : RegBits) (old rw : Word) : Word :=
  let m := b.mask &&& rw
  (old &&& ~~~m) ||| (b.value &&& m)

/-- A bit is written as 1. -/
def RegBits.one (b : RegBits) (i : Nat) : Bool := b.value.getLsbD i && b.mask.getLsbD i

/-- Bits [51:6], an address in units of 64 bytes. -/
def baseBits : Word := 0x000FFFFFFFFFFFC0

/-! ## Sockets 0 to 7: core dies -/

/-- An access to an offset that is not decoded is ignored and counted (R27). -/
def State.unclaimedWrite (s : State) : State := { s with unclaimed := s.unclaimed + 1 }

/-- The core of a die that an offset names in units of a stride. -/
def dieCore (die i : Nat) : Coord := mkCoord die (i / 16) (i % 16)

/-- A write of CCTL: ERR, then the command (R464). -/
def State.writeCctl (s : State) (cl n : Nat) (b : RegBits) : State :=
  let s := if b.one 6 then s.updCluster cl fun c => { c with cerr := c.cerr.filter (· != n) } else s
  match (b.value &&& b.mask).toNat % 4 with
  | 1 => s.suspendCommand cl n
  | 2 => s.resumeCommand cl n
  | 3 => s.killCommand cl n (b.value.extractLsb' 8 8)
  | _ => s

/-- A write of CGRB (R464). -/
def State.writeCgrb (s : State) (cl n : Nat) (b : RegBits) : State :=
  s.updCompany cl n fun co => { co with cgrb := (b.into (co.cgrb.setWidth 64 <<< 12) 0x000FFFFFFFFFF000).extractLsb' 12 40 }

/-- A write of a mailbox counter: OVF is cleared (R165). -/
def State.writeMail (s : State) (core : Coord) (tag : Nat) (b : RegBits) : State :=
  match Nat.decLt tag 16 with
  | isTrue h =>
    let i : Fin 16 := ⟨tag, h⟩
    if b.one 37 then s.updCore core fun c => { c with mail := c.mail.set i { c.mail[i] with ovf := false } } else s
  | isFalse _ => s

/-- A write of CFENCE: a fence is lifted, or forced (R236). DESIGN CHOICE (log entry 111): FORCE on a core that is fenced changes nothing,
and one write that sets both bits lifts the fence first and then fences the core. -/
def State.writeCfence (s : State) (core : Coord) (b : RegBits) : State :=
  let s := if b.one 0 then s.liftFence core else s
  if b.one 1 && !(s.coreAt core).fenced then s.fence core 0 0 (s.owner (clusterOf core)) else s

/-- A write of CCODE: XB, at most 8,192, IMGID and OVL; a halted control context resumes (R267). -/
def State.writeCcode (s : State) (core : Coord) (b : RegBits) : State :=
  let s := s.updCore core fun c =>
    let old : Word := c.xb.setWidth 64 ||| (c.img.setWidth 64 <<< 16) ||| (c.ovl.setWidth 64 <<< 32)
    let v := b.into old 0x00003FFFFFFF3FFF
    { c with xb := if 8192 < (v.extractLsb' 0 14).toNat then 8192 else v.extractLsb' 0 14, img := v.extractLsb' 16 16,
             ovl := v.extractLsb' 32 14 }
  if b.one 48 then s.resumeControl core else s

/-- Offsets of a cluster's block that hold registers no write changes: bank control (R69), company records (R260) and the diversion
table (R470). -/
def readOnlyOffset (r : Nat) : Bool :=
  (0x100 ≤ r && r < 0x200) || (0x200 ≤ r && r < 0x300) || (0x800 ≤ r && r < 0xC00)

/-- A write at a core die's socket. -/
def State.writeDie (s : State) (die offset : Nat) (b : RegBits) : State :=
  let o := offset / 8 * 8
  if o < 24 * 0x10000 then
    let cl := die * 24 + o / 0x10000
    let r := o % 0x10000
    if 0x400 ≤ r ∧ r < 0x500 then
      if r % 16 = 0 then s.writeCctl cl ((r - 0x400) / 16) b else s.writeCgrb cl ((r - 0x400) / 16) b
    else if readOnlyOffset r then s
    else s.unclaimedWrite
  else if 0x400000 ≤ o ∧ o < 0x400000 + 192 * 0x100 then
    let r := o - 0x400000
    if r % 0x100 < 0x80 then s.writeMail (dieCore die (r / 0x100)) (r % 0x100 / 8) b else s.unclaimedWrite
  else if 0x500000 ≤ o ∧ o < 0x500000 + 192 * 0x10 then
    if o % 16 = 0 then s.writeCfence (dieCore die ((o - 0x500000) / 16)) b else s
  else if 0x600000 ≤ o ∧ o < 0x600000 + 192 * 0x10 then
    if o % 16 = 0 then s.writeCcode (dieCore die ((o - 0x600000) / 16)) b else s.unclaimedWrite
  else s.unclaimedWrite

/-! ## Socket 16: I/O die 0 -/

/-- The bits of a page-count register that are read and write (R94). -/
def pageCountBits (i : Nat) : Word :=
  match i with
  | 0 => 0x800FFFFFFFFFFFC0
  | 1 => 0xFFFFFFFFFFFFFFFF
  | 2 => 0xFFFFFFFF
  | _ => 0x00FFFFFFFFFFFFC0

/-- A write of a page-count register. -/
def State.writePageCount (s : State) (pnum i : Nat) (b : RegBits) : State :=
  s.updPart pnum fun p => { p with pc := p.pc.set i (b.into (p.pc.getD i 0) (pageCountBits i)) }

/-- The bits of TOT, GRID and TRC registers that are read and write (R480). -/
def streamBits : Word := 0x000FFFFFFFFFFFDF

/-- A grid interval, at most 1,000,000 µs (R487). -/
def intervalReg (b : RegBits) (old : Word) : Word :=
  let v := b.into old 0xFFFFF
  if 1000000 < v.toNat then 1000000 else v

/-- OBPT: BASE and NENT, at most 16 (R493). -/
def breakpointReg (b : RegBits) (old : Word) : Word :=
  let v := b.into old 0x01FFFFFFFFFFFFC0
  let n := v.extractLsb' 52 5
  if 16 < n.toNat then (v &&& baseBits) ||| (16#64 <<< 52) else v

/-- ORPL: MODE and ONDIV; LFULL and DIV are cleared by 1 (R502). -/
def replayReg (b : RegBits) (old : Word) : Word := b.into old 7 &&& ~~~(b.value &&& b.mask &&& 0x18)

/-- A stream register after a write. -/
def streamAfter (i : Nat) (b : RegBits) (old : Word) : Word :=
  if i ≤ 5 then b.into old streamBits
  else if i = 6 then intervalReg b old
  else if i = 7 then breakpointReg b old
  else if i = 8 then replayReg b old
  else b.into old 0x000FFFFFFFFFFFCF

/-- A grid stream whose register or interval was written starts a frame now. -/
def State.restartGrid (s : State) (pnum : Nat) (js : List Nat) : State :=
  s.updPart pnum fun p =>
    { p with gridAcc := js.foldl (fun (t : Tbl (Nat × Nat)) j => t.put j (s.time, 0)) p.gridAcc,
             gridCarry := js.foldl (fun (t : Tbl (Nat × Nat)) j => t.del j) p.gridCarry }

/-- The cores of a partition's pitch. -/
def State.pitchCores (s : State) (pnum : Nat) : List Nat :=
  ((List.range Config.clusters).filter fun c => (s.part pnum).pitch.getLsbD c).flatMap fun c => (clusterCores c).map BitVec.toNat

/-- A write of a stream register of a partition (R480, R487, R493, R502). -/
def State.writeStream (s : State) (pnum i : Nat) (b : RegBits) : State :=
  let s := s.updPart pnum fun p => { p with streams := p.streams.set i (streamAfter i b (p.streams.getD i 0)) }
  if i = 2 ∨ i = 3 then s.restartGrid pnum [i - 2]
  else if i = 6 then s.restartGrid pnum [0, 1]
  else if i = 7 ∧ b.one 57 then s.updPart pnum fun p => { p with bpTodo := s.pitchCores pnum }
  else s

/-- A write of a device stream register (R480). -/
def State.writeDevice (s : State) (i : Nat) (b : RegBits) : State :=
  let old := s.deviceReg i
  let v := if i = 2 then intervalReg b old else b.into old streamBits
  let s := { s with mmio := s.mmio.put (0x342000 + 8 * i) v }
  if i = 0 then s else s.restartGrid 0 [0]

/-- A number of a partition. -/
def isPart (p : Nat) : Bool := 0 < p && p ≤ Config.partitions

/-- A write at the socket of I/O die 0. -/
def State.writeIo (s : State) (offset : Nat) (b : RegBits) : State :=
  let o := offset / 8 * 8
  if 0x200000 ≤ o ∧ o < 0x201000 then
    let p := (o - 0x200000) / 0x40
    if isPart p ∧ o % 0x40 < 0x20 then s.writePageCount p (o % 0x40 / 8) b else s.unclaimedWrite
  else if 0x300000 ≤ o ∧ o < 0x300400 then
    let p := (o - 0x300000) / 0x10
    if isPart p ∧ o % 0x10 = 0 then s.updPart p fun q => { q with fring := b.into q.fring 0x00FFFFFFFFFFFFC0 } else s.unclaimedWrite
  else if 0x340000 ≤ o ∧ o < 0x342000 then
    let p := (o - 0x340000) / 0x80
    if isPart p ∧ o % 0x80 < 0x50 then s.writeStream p (o % 0x80 / 8) b else s.unclaimedWrite
  else if 0x342000 ≤ o ∧ o < 0x342018 then s.writeDevice ((o - 0x342000) / 8) b
  else if 0x380000 ≤ o ∧ o < 0x380000 + 8 * 4096 then { s with mmio := s.mmio.put o (b.into (s.mmio.getD o 0) 0xF) }
  else s.unclaimedWrite

/-! ## Custom registers (R519, R520) -/

/-- A write of XSDLO or XSDHI (R48). -/
def State.writeSdPage (s : State) (cp : Nat) (hi : Bool) (v : Word) : State :=
  let r := s.sdRegsOf cp
  let v := v &&& 0x00FFFFFFFFFF0000
  { s with sdregs := s.sdregs.put cp (if hi then { r with hi := v } else { r with lo := v }) }

/-- A write of XDMPCTL (R498). -/
def State.writeDumpCtl (s : State) (cp : Nat) (v : Word) : State :=
  let old := s.csr cp 0x7C5
  let keep := old &&& ~~~(v &&& 0xC000) &&& ~~~(0x3F00000FFF#64)
  let s := s.setCsr cp 0x7C5 (keep ||| (v &&& 0x3F00000FFF))
  if v.getLsbD 12 then s.dump cp else s

/-- A write of XPOLCTL (R508). -/
def State.writePolicyCtl (s : State) (cp : Nat) (v : Word) : State :=
  let old := s.csr cp 0x7C7
  let keep := old &&& ~~~(v &&& 0x800) &&& ~~~(0x3F#64)
  let s := s.setCsr cp 0x7C7 (keep ||| (v &&& 0x3F))
  if v.getLsbD 6 then s.registerPolicy cp else s

/-- A write of XWDCTL (R520). -/
def State.writeWatchdog (s : State) (v : Word) : State :=
  let s := { s with wdT1 := v.extractLsb' 0 10 }
  let s := if v.getLsbD 10 then s.kick else s
  if v.getLsbD 11 then s.ack else s

/-- A write of XFWCTL (R520, R522). -/
def State.writeFirmware (s : State) (v : Word) : State :=
  let s := if v.getLsbD 7 then { s with fwDone := false } else s
  match v.toNat % 4 with
  | 1 => s.fwLoad s.fwBytes false
  | 2 => s.fwSwitch
  | 3 => s.fwDiscard
  | _ => s

/-- The privilege mode of a command-processor core; firmware runs in machine mode (R519). -/
def State.cpMode (s : State) (cp : Nat) : Nat := s.cpModes.getD cp 3

/-- An access to a custom register raises the illegal-instruction exception: from a mode below machine mode, or at 0x7CF to 0x7FF
(R519). -/
def State.csrIllegal (s : State) (cp number : Nat) : Bool := s.cpMode cp != 3 || (0x7CF ≤ number && number ≤ 0x7FF)

/-- A write of a custom register that the core may write; 0x7CD is read-only. -/
def State.setCustom (s : State) (cp number : Nat) (v : Word) : State :=
  match number with
  | 0x7C0 => s.writeSdPage cp false v
  | 0x7C1 => s.writeSdPage cp true v
  | 0x7C2 => s.writeSdCtl cp v
  | 0x7C3 => s.writeXpcmd cp v
  | 0x7C4 => s.setCsr cp 0x7C4 v
  | 0x7C5 => s.writeDumpCtl cp v
  | 0x7C6 => s.setCsr cp 0x7C6 (v &&& 0xFFFFFFFFFFFFFFC0)
  | 0x7C7 => s.writePolicyCtl cp v
  | 0x7C8 => s.setCsr cp 0x7C8 (v &&& baseBits)
  | 0x7C9 => { s with pkg := v.extractLsb' 0 12 }
  | 0x7CA => s.writeWatchdog v
  | 0x7CB => s.writeFirmware v
  | 0x7CC => { s with fwAdr := v &&& baseBits }
  | 0x7CE => { s with linkCaps := v }
  | _ => s

/-- The machine trap registers of the RISC-V privileged specification: mstatus, mtvec, mscratch, mepc, mcause and mtval. -/
def trapCsrs : List Nat := [0x300, 0x305, 0x340, 0x341, 0x342, 0x343]

/-- A command-processor core takes the illegal-instruction exception, as the RISC-V privileged specification has it, PRESUMED (R519, log entry
123): mepc, mcause 2, mtval 0, MPP, MPIE and MIE of mstatus, and the PC at mtvec's base, in machine mode. -/
def State.cpTrap (s : State) (cp : Nat) : State :=
  let st := s.csr cp 0x300
  let mpp : Word := BitVec.ofNat 64 (s.cpMode cp * 2 ^ 11)
  let mpie : Word := if st.getLsbD 3 then 0x80 else 0
  let s := (s.setCsr cp 0x341 (s.cpPcs.getD cp 0)).setCsr cp 0x342 2
  let s := (s.setCsr cp 0x343 0).setCsr cp 0x300 ((st &&& ~~~0x1888) ||| mpp ||| mpie)
  { s with cpModes := s.cpModes.put cp 3, cpPcs := s.cpPcs.put cp (s.csr cp 0x305 &&& ~~~3), reply := .illegal }

/-- A write of a custom register of a command-processor core, or of a machine trap register. -/
def State.writeCsr (s : State) (cp number : Nat) (v : Word) : State :=
  if s.csrIllegal cp number then s.cpTrap cp
  else if trapCsrs.contains number then s.setCsr cp number v
  else s.setCustom cp number v

/-! ## Virtual functions (R439, R514) -/

/-- A write of QTCTL: QTLEN and TDQID; TDDONE is cleared, and TDGO starts a teardown. -/
def State.writeQtctl (s : State) (v : Nat) (b : RegBits) : State :=
  let s := s.updVf v fun f =>
    let w := b.into (BitVec.ofNat 64 (f.qtlen + f.tdqid * 2 ^ 16)) 0x0FFF1FFF
    { f with qtlen := (w.extractLsb' 0 13).toNat, tdqid := (w.extractLsb' 16 12).toNat, tddone := f.tddone && !b.one 30 }
  if b.one 28 && !(s.vf v).tdbusy then s.startTeardown v else s

/-- A write to BAR 0 of the virtual function of an index, 0 to 255 (R56): beyond the registers it is ignored. -/
def State.writeVf (s : State) (v offset : Nat) (b : RegBits) : State :=
  if 255 < v then s
  else
    match offset / 8 with
    | 0 => s.ringDoorbell v b.value
    | 1 => s.updVf v fun f => { f with qtbase := b.into f.qtbase 0x00FFFFFFFFFFFFC0 }
    | 2 => s.writeQtctl v b
    | _ => s

/-! ## Register writes -/

/-- A write of a device register: its writable fields take the value. In class 0xD one that is not 4 or 8 bytes wide and aligned faults
ALIGN (R27). -/
def State.registerWrite (s : State) (target : RegTarget) (value : Word) : State :=
  match target with
  | .csr cp number => s.writeCsr cp.val number value
  | .vf index offset size =>
    match regBits offset size value with
    | none => s
    | some b => s.writeVf index offset b
  | .mmio socket offset size =>
    match regBits offset size value with
    | none => { s with reply := .align }
    | some b =>
      if socket.val < 8 then s.writeDie socket.val offset b
      else if socket.val = 16 then s.writeIo offset b
      else s.unclaimedWrite

/-- REGISTER_WRITE. -/
def execRegisterWrite (target : RegTarget) (value : Word) (s : State) : Host.Outcome State Fault Refusal :=
  commandM (fun s => s.registerWrite target value) s

/-! ## Soft errors (R42, R477, R478) -/

/-- A translation cache drops an entry (R42). -/
def State.evictTlb (s : State) (cache i : Nat) : State := s.setCache cache ((s.cacheAt cache).eraseIdx i)

/-- The group of a company of a cluster is killed with SRAM_ECC. -/
def State.killFor (s : State) (cl n : Nat) : State :=
  match s.company? cl n with
  | none => s
  | some co => s.killGroup co.pnum co.launch n (FaultCode.num .sramEcc)

/-- The groups of both ends of a queue are killed with SRAM_ECC. -/
def State.killEnds (s : State) (q : Queue) : State :=
  let group (e : QEnd) : List Nat :=
    match e with
    | .task k _ => ((s.ctxs.look k).map fun x => x.company.toNat).toList
    | .port o _ => ((s.oprs.look o).map Opr.company).toList
    | .exited n => [n]
    | _ => []
  (group q.prod ++ group q.cons).eraseDups.foldl (fun (s : State) n => s.killGroup q.pnum q.launch n (FaultCode.num .sramEcc)) s

/-- An uncorrectable error in a task's registers: fatal for its group, with the register's number; in those of a control context it
halts. -/
def State.registerError (s : State) (k : Nat) (r : Nat) : State :=
  match s.ctxs.look k with
  | none => s
  | some x => s.takeFault k (trapAt .sramEcc (BitVec.ofNat 64 r) x.pc)

/-- Memory of a CXL port behind a line, which its home reads on a miss: no older data of it waits to be written back. -/
def State.cxlBehind (s : State) (line : Nat) : Bool :=
  let pa := line * 64
  pa < 2 ^ 52 && paExists pa && 0x8 ≤ paClass pa && paClass pa ≤ 0xB && !(s.clusters.any fun e => e.2.writebacks.any fun w => w.1 == line)

/-- The mark of a line whose read from a CXL port returns poison (R516): it stands at a home, in no bank of it (log entry 95). -/
def State.cxlPoison (s : State) (line : Nat) : Line :=
  { home := physHome (line * 64), bank := Config.banksPerCluster, data := BitVec.ofNat 512 (leValue (s.tierBytes (line * 64) 64)),
    dirty := true, poison := true, stamp := none }

/-- An uncorrectable error in a line: a clean one is dropped, to be filled again; a dirty one leaves its mark. Where no home holds the
line and a CXL port's memory does, a read of it returns poison from then on, which is handled like the mark (R516). -/
def State.lineError (s : State) (line : Nat) : State :=
  match s.lines.look line with
  | none => if s.cxlBehind line then { s with lines := s.lines.put line (s.cxlPoison line) } else s
  | some l =>
    if l.dirty then { s with lines := s.lines.put line { l with poison := true } } else { s with lines := s.lines.del line }

/-- An uncorrectable error, by its place (R478). -/
def State.hardError (s : State) (site : ErrSite) : State :=
  match site with
  | .register k r => s.registerError k r
  | .localWord core offset =>
    let pa := localPa core (offset / 8 * 8)
    if offset < Config.localBytes then { s with bad := pa :: s.bad.filter (· != pa) } else s
  | .line line => s.lineError line
  | .bank cl bank =>
    let b := (s.clusterAt cl).bankAt bank
    if b.held && (b.mode == .scratch || b.mode == .fifo) then s.killFor cl b.company else s
  | .tileMacro core q =>
    let cl := clusterOf core
    match (s.clusterAt cl).companies.findKey fun _ co => co.tiles.contains (core, q) with
    | none => s
    | some n => s.killFor cl n
  | .queueSlot n => match s.queue? n with
    | none => s
    | some q => s.killEnds q
  | .diversion cl entry => match (s.clusterAt cl).diverts.look entry with
    | none => s
    | some (.divert company ..) => s.killFor cl company
    | some (.discard company _) => s.killFor cl company
  | .translation cache index => s.evictTlb cache index
  | .control core => s.haltControl core (FaultCode.num .sramEcc)

/-- The cluster that counts an error of a place, if it exists (R482). -/
def State.siteCluster (s : State) (site : ErrSite) : Option Nat :=
  match site with
  | .register k _ => (s.ctxs.look k).map fun x => clusterOf x.core
  | .localWord core _ => some (clusterOf core)
  | .line line => (s.lines.look line).map Line.home
  | .bank cl _ => some cl
  | .tileMacro core _ => some (clusterOf core)
  | .queueSlot n => (s.queue? n).bind fun q => match q.place with
    | .core c => some (clusterOf c)
    | .ring cl _ _ _ => some cl
    | .bridge cl _ _ _ => some cl
    | .unplaced => none
  | .diversion cl _ => some cl
  | .translation cache _ => some (cacheCluster cache)
  | .control core => some (clusterOf core)

/-- A soft error is counted at its cluster: 0 corrected, 1 uncorrectable (R482). -/
def State.countError (s : State) (site : ErrSite) (ev : Nat) : State :=
  match s.siteCluster site with
  | none => s
  | some cl => s.countCluster cl 15 ev

/-- A soft error: a correctable one is corrected in place and counted; an entry of a translation cache is dropped either way, and the
diversion table carries only parity. -/
def State.softError (s : State) (site : ErrSite) (uncorrectable : Bool) : State :=
  match site, uncorrectable with
  | .translation cache index, _ => s.evictTlb cache index
  | .diversion cl entry, _ => (s.countError (.diversion cl entry) 1).hardError (.diversion cl entry)
  | site, true => (s.countError site 1).hardError site
  | site, false => s.countError site 0

/-- SOFT_ERROR. -/
def execSoftError (site : ErrSite) (uncorrectable : Bool) (s : State) : Host.Outcome State Fault Refusal :=
  eventM (fun s => s.softError site uncorrectable) s

end Sys2Proof.Machine
end

