-- ==== Sys2Proof/Machine/Dispatch.lean ====
section
/-! DEFINITION. The meaning of every instruction and event, one arm for each constructor. -/

namespace Sys2Proof.Machine

/-- One instruction of the current context, or one event. -/
def exec (i : Instr) (s : State) : Host.Outcome State Fault Refusal :=
  match i with
  | .nop f => Sys2Proof.Machine.execNop f s
  | .yield f => Sys2Proof.Machine.execYield f s
  | .hbeat f => Sys2Proof.Machine.execHbeat f s
  | .exit f => Sys2Proof.Machine.execExit f s
  | .br f => Sys2Proof.Machine.execBr f s
  | .brx f => Sys2Proof.Machine.execBrx f s
  | .call f => Sys2Proof.Machine.execCall f s
  | .ret f => Sys2Proof.Machine.execRet f s
  | .loop f => Sys2Proof.Machine.execLoop f s
  | .bqc f => Sys2Proof.Machine.execBqc f s
  | .trap f => Sys2Proof.Machine.execTrap f s
  | .tret f => Sys2Proof.Machine.execTret f s
  | .gets f => Sys2Proof.Machine.execGets f s
  | .sets f => Sys2Proof.Machine.execSets f s
  | .ovret f => Sys2Proof.Machine.execOvret f s
  | .isync f => Sys2Proof.Machine.execIsync f s
  | .bkpt f => Sys2Proof.Machine.execBkpt f s
  | .trace f => Sys2Proof.Machine.execTrace f s
  | .mark f => Sys2Proof.Machine.execMark f s
  | .sleep f => Sys2Proof.Machine.execSleep f s
  | .event f => Sys2Proof.Machine.execEvent f s
  | .twait f => Sys2Proof.Machine.execTwait f s
  | .pmov f => Sys2Proof.Machine.execPmov f s
  | .pand f => Sys2Proof.Machine.execPand f s
  | .por f => Sys2Proof.Machine.execPor f s
  | .pxor f => Sys2Proof.Machine.execPxor f s
  | .pandn f => Sys2Proof.Machine.execPandn f s
  | .pany f => Sys2Proof.Machine.execPany f s
  | .pall f => Sys2Proof.Machine.execPall f s
  | .pcnt f => Sys2Proof.Machine.execPcnt f s
  | .pfromg f => Sys2Proof.Machine.execPfromg f s
  | .ptog f => Sys2Proof.Machine.execPtog f s
  | .mov f => Sys2Proof.Machine.execMov f s
  | .movi f => Sys2Proof.Machine.execMovi f s
  | .movh f => Sys2Proof.Machine.execMovh f s
  | .add f => Sys2Proof.Machine.execAdd f s
  | .sub f => Sys2Proof.Machine.execSub f s
  | .neg f => Sys2Proof.Machine.execNeg f s
  | .abs f => Sys2Proof.Machine.execAbs f s
  | .mul f => Sys2Proof.Machine.execMul f s
  | .mulh f => Sys2Proof.Machine.execMulh f s
  | .mulhn f => Sys2Proof.Machine.execMulhn f s
  | .madd f => Sys2Proof.Machine.execMadd f s
  | .div f => Sys2Proof.Machine.execDiv f s
  | .divn f => Sys2Proof.Machine.execDivn f s
  | .rem f => Sys2Proof.Machine.execRem f s
  | .remn f => Sys2Proof.Machine.execRemn f s
  | .min f => Sys2Proof.Machine.execMin f s
  | .max f => Sys2Proof.Machine.execMax f s
  | .minn f => Sys2Proof.Machine.execMinn f s
  | .maxn f => Sys2Proof.Machine.execMaxn f s
  | .and f => Sys2Proof.Machine.execAnd f s
  | .or f => Sys2Proof.Machine.execOr f s
  | .xor f => Sys2Proof.Machine.execXor f s
  | .andn f => Sys2Proof.Machine.execAndn f s
  | .orn f => Sys2Proof.Machine.execOrn f s
  | .shl f => Sys2Proof.Machine.execShl f s
  | .shr f => Sys2Proof.Machine.execShr f s
  | .sra f => Sys2Proof.Machine.execSra f s
  | .rol f => Sys2Proof.Machine.execRol f s
  | .ror f => Sys2Proof.Machine.execRor f s
  | .popc f => Sys2Proof.Machine.execPopc f s
  | .clz f => Sys2Proof.Machine.execClz f s
  | .ctz f => Sys2Proof.Machine.execCtz f s
  | .brev f => Sys2Proof.Machine.execBrev f s
  | .bswap f => Sys2Proof.Machine.execBswap f s
  | .bfx f => Sys2Proof.Machine.execBfx f s
  | .bfi f => Sys2Proof.Machine.execBfi f s
  | .sext f => Sys2Proof.Machine.execSext f s
  | .zext f => Sys2Proof.Machine.execZext f s
  | .sel f => Sys2Proof.Machine.execSel f s
  | .cmp f => Sys2Proof.Machine.execCmp f s
  | .tst f => Sys2Proof.Machine.execTst f s
  | .lea f => Sys2Proof.Machine.execLea f s
  | .adds f => Sys2Proof.Machine.execAdds f s
  | .subs f => Sys2Proof.Machine.execSubs f s
  | .rect f => Sys2Proof.Machine.execRect f s
  | .cdist f => Sys2Proof.Machine.execCdist f s
  | .home f => Sys2Proof.Machine.execHome f s
  | .ld f => Sys2Proof.Machine.execLd f s
  | .st f => Sys2Proof.Machine.execSt f s
  | .ldv f => Sys2Proof.Machine.execLdv f s
  | .stv f => Sys2Proof.Machine.execStv f s
  | .ldvt f => Sys2Proof.Machine.execLdvt f s
  | .aadd f => Sys2Proof.Machine.execAadd f s
  | .amin f => Sys2Proof.Machine.execAmin f s
  | .amax f => Sys2Proof.Machine.execAmax f s
  | .aminn f => Sys2Proof.Machine.execAminn f s
  | .amaxn f => Sys2Proof.Machine.execAmaxn f s
  | .aand f => Sys2Proof.Machine.execAand f s
  | .aor f => Sys2Proof.Machine.execAor f s
  | .axor f => Sys2Proof.Machine.execAxor f s
  | .aswp f => Sys2Proof.Machine.execAswp f s
  | .acas f => Sys2Proof.Machine.execAcas f s
  | .afadd f => Sys2Proof.Machine.execAfadd f s
  | .afmax f => Sys2Proof.Machine.execAfmax f s
  | .fence f => Sys2Proof.Machine.execFence f s
  | .fjoin f => Sys2Proof.Machine.execFjoin f s
  | .pref f => Sys2Proof.Machine.execPref f s
  | .clwb f => Sys2Proof.Machine.execClwb f s
  | .clinv f => Sys2Proof.Machine.execClinv f s
  | .bari f => Sys2Proof.Machine.execBari f s
  | .bara f => Sys2Proof.Machine.execBara f s
  | .barw f => Sys2Proof.Machine.execBarw f s
  | .bars f => Sys2Proof.Machine.execBars f s
  | .msend f => Sys2Proof.Machine.execMsend f s
  | .mwait f => Sys2Proof.Machine.execMwait f s
  | .mcnt f => Sys2Proof.Machine.execMcnt f s
  | .mset f => Sys2Proof.Machine.execMset f s
  | .probe f => Sys2Proof.Machine.execProbe f s
  | .qbind f => Sys2Proof.Machine.execQbind f s
  | .qfree f => Sys2Proof.Machine.execQfree f s
  | .qadv f => Sys2Proof.Machine.execQadv f s
  | .qcom f => Sys2Proof.Machine.execQcom f s
  | .qwait f => Sys2Proof.Machine.execQwait f s
  | .qcue f => Sys2Proof.Machine.execQcue f s
  | .qskip f => Sys2Proof.Machine.execQskip f s
  | .qlen f => Sys2Proof.Machine.execQlen f s
  | .fwait f => Sys2Proof.Machine.execFwait f s
  | .ftest f => Sys2Proof.Machine.execFtest f s
  | .fcancel f => Sys2Proof.Machine.execFcancel f s
  | .fexport f => Sys2Proof.Machine.execFexport f s
  | .finit f => Sys2Proof.Machine.execFinit f s
  | .fres f => Sys2Proof.Machine.execFres f s
  | .ffail f => Sys2Proof.Machine.execFfail f s
  | .fwhen f => Sys2Proof.Machine.execFwhen f s
  | .spawn f => Sys2Proof.Machine.execSpawn f s
  | .migrate f => Sys2Proof.Machine.execMigrate f s
  | .claim f => Sys2Proof.Machine.execClaim f s
  | .acq f => Sys2Proof.Machine.execAcq f s
  | .acqt f => Sys2Proof.Machine.execAcqt f s
  | .rel f => Sys2Proof.Machine.execRel f s
  | .boxq f => Sys2Proof.Machine.execBoxq f s
  | .cpy f => Sys2Proof.Machine.execCpy f s
  | .cpys f => Sys2Proof.Machine.execCpys f s
  | .cfill f => Sys2Proof.Machine.execCfill f s
  | .cpyq f => Sys2Proof.Machine.execCpyq f s
  | .srfence f => Sys2Proof.Machine.execSrfence f s
  | .opset f => Sys2Proof.Machine.execOpset f s
  | .opget f => Sys2Proof.Machine.execOpget f s
  | .opctlStart f => Sys2Proof.Machine.execOpctlStart f s
  | .opctlStop f => Sys2Proof.Machine.execOpctlStop f s
  | .opctlStatus f => Sys2Proof.Machine.execOpctlStatus f s
  | .opctlReset f => Sys2Proof.Machine.execOpctlReset f s
  | .opctlSkiphead f => Sys2Proof.Machine.execOpctlSkiphead f s
  | .vadd f => Sys2Proof.Machine.execVadd f s
  | .vsub f => Sys2Proof.Machine.execVsub f s
  | .vmul f => Sys2Proof.Machine.execVmul f s
  | .vfma f => Sys2Proof.Machine.execVfma f s
  | .vmin f => Sys2Proof.Machine.execVmin f s
  | .vmax f => Sys2Proof.Machine.execVmax f s
  | .vabs f => Sys2Proof.Machine.execVabs f s
  | .vneg f => Sys2Proof.Machine.execVneg f s
  | .vdiv f => Sys2Proof.Machine.execVdiv f s
  | .vsqrt f => Sys2Proof.Machine.execVsqrt f s
  | .vexp2 f => Sys2Proof.Machine.execVexp2 f s
  | .vlog2 f => Sys2Proof.Machine.execVlog2 f s
  | .vcmp f => Sys2Proof.Machine.execVcmp f s
  | .vsel f => Sys2Proof.Machine.execVsel f s
  | .vand f => Sys2Proof.Machine.execVand f s
  | .vor f => Sys2Proof.Machine.execVor f s
  | .vxor f => Sys2Proof.Machine.execVxor f s
  | .vshl f => Sys2Proof.Machine.execVshl f s
  | .vshr f => Sys2Proof.Machine.execVshr f s
  | .vsra f => Sys2Proof.Machine.execVsra f s
  | .vcvt f => Sys2Proof.Machine.execVcvt f s
  | .vqnt f => Sys2Proof.Machine.execVqnt f s
  | .vdq f => Sys2Proof.Machine.execVdq f s
  | .vlut f => Sys2Proof.Machine.execVlut f s
  | .vsplat f => Sys2Proof.Machine.execVsplat f s
  | .vperm f => Sys2Proof.Machine.execVperm f s
  | .vext f => Sys2Proof.Machine.execVext f s
  | .vins f => Sys2Proof.Machine.execVins f s
  | .vred f => Sys2Proof.Machine.execVred f s
  | .vamax f => Sys2Proof.Machine.execVamax f s
  | .vdot f => Sys2Proof.Machine.execVdot f s
  | .vscan f => Sys2Proof.Machine.execVscan f s
  | .vpack f => Sys2Proof.Machine.execVpack f s
  | .vunpk f => Sys2Proof.Machine.execVunpk f s
  | .tldb f => Sys2Proof.Machine.execTldb f s
  | .tlda f => Sys2Proof.Machine.execTlda f s
  | .tldaq f => Sys2Proof.Machine.execTldaq f s
  | .tmma f => Sys2Proof.Machine.execTmma f s
  | .tzero f => Sys2Proof.Machine.execTzero f s
  | .tget f => Sys2Proof.Machine.execTget f s
  | .tstor f => Sys2Proof.Machine.execTstor f s
  | .tstat f => Sys2Proof.Machine.execTstat f s
  | .clmul f => Sys2Proof.Machine.execClmul f s
  | .clmulh f => Sys2Proof.Machine.execClmulh f s
  | .bdep f => Sys2Proof.Machine.execBdep f s
  | .bext f => Sys2Proof.Machine.execBext f s
  | .unassignedOpcode opc hint => Sys2Proof.Machine.execUnassignedOpcode opc hint s
  | .waitComplete k => Sys2Proof.Machine.execWaitComplete k s
  | .sleepEnd k => Sys2Proof.Machine.execSleepEnd k s
  | .twaitDeadline k => Sys2Proof.Machine.execTwaitDeadline k s
  | .eventLanding pkt => Sys2Proof.Machine.execEventLanding pkt s
  | .migrationArrival k => Sys2Proof.Machine.execMigrationArrival k s
  | .spawnArrival pkt => Sys2Proof.Machine.execSpawnArrival pkt s
  | .continuationStart pkt => Sys2Proof.Machine.execContinuationStart pkt s
  | .heartbeatExpiry k => Sys2Proof.Machine.execHeartbeatExpiry k s
  | .forceFence core => Sys2Proof.Machine.execForceFence core s
  | .fenceLift core => Sys2Proof.Machine.execFenceLift core s
  | .trapServiceStart core => Sys2Proof.Machine.execTrapServiceStart core s
  | .asyncTrap k => Sys2Proof.Machine.execAsyncTrap k s
  | .fetchOverlayTrap k => Sys2Proof.Machine.execFetchOverlayTrap k s
  | .breakpointTableStop k => Sys2Proof.Machine.execBreakpointTableStop k s
  | .translationMiss die => Sys2Proof.Machine.execTranslationMiss die s
  | .walkEntryRead walk => Sys2Proof.Machine.execWalkEntryRead walk s
  | .walkAdCasResult walk => Sys2Proof.Machine.execWalkAdCasResult walk s
  | .homeAccessPerform k => Sys2Proof.Machine.execHomeAccessPerform k s
  | .homeMissFill fill bank victim => Sys2Proof.Machine.execHomeMissFill fill bank victim s
  | .writebackAccept line => Sys2Proof.Machine.execWritebackAccept line s
  | .shootdownDropPoint cp cache => Sys2Proof.Machine.execShootdownDropPoint cp cache s
  | .shootdownComplete cp => Sys2Proof.Machine.execShootdownComplete cp s
  | .boxDecision cl => Sys2Proof.Machine.execBoxDecision cl s
  | .boxRedecision cl => Sys2Proof.Machine.execBoxRedecision cl s
  | .bankSwitch cl bank => Sys2Proof.Machine.execBankSwitch cl bank s
  | .discardEntryRemove cl company lbank => Sys2Proof.Machine.execDiscardEntryRemove cl company lbank s
  | .entryDelivery queue => Sys2Proof.Machine.execEntryDelivery queue s
  | .creditReturn queue => Sys2Proof.Machine.execCreditReturn queue s
  | .extensionRefill queue => Sys2Proof.Machine.execExtensionRefill queue s
  | .copyOperation op => Sys2Proof.Machine.execCopyOperation op s
  | .messageSendOperation op => Sys2Proof.Machine.execMessageSendOperation op s
  | .messagePacketLanding pkt => Sys2Proof.Machine.execMessagePacketLanding pkt s
  | .scratchLanding pkt => Sys2Proof.Machine.execScratchLanding pkt s
  | .tileCommandPerform core => Sys2Proof.Machine.execTileCommandPerform core s
  | .engineResolve op => Sys2Proof.Machine.execEngineResolve op s
  | .exportCellUpdate pkt => Sys2Proof.Machine.execExportCellUpdate pkt s
  | .seqAction opr => Sys2Proof.Machine.execSeqAction opr s
  | .refAction opr => Sys2Proof.Machine.execRefAction opr s
  | .refReadReturn opr index => Sys2Proof.Machine.execRefReadReturn opr index s
  | .putAction opr => Sys2Proof.Machine.execPutAction opr s
  | .distAction opr act => Sys2Proof.Machine.execDistAction opr act s
  | .distFrameResize opr => Sys2Proof.Machine.execDistFrameResize opr s
  | .collectAction opr => Sys2Proof.Machine.execCollectAction opr s
  | .forkAction opr => Sys2Proof.Machine.execForkAction opr s
  | .joinAction opr => Sys2Proof.Machine.execJoinAction opr s
  | .zipAction opr => Sys2Proof.Machine.execZipAction opr s
  | .reduceAction opr => Sys2Proof.Machine.execReduceAction opr s
  | .filterAction opr => Sys2Proof.Machine.execFilterAction opr s
  | .convertAction opr => Sys2Proof.Machine.execConvertAction opr s
  | .bridgeSend opr => Sys2Proof.Machine.execBridgeSend opr s
  | .bridgeReceive opr => Sys2Proof.Machine.execBridgeReceive opr s
  | .suspensionPoint cl company => Sys2Proof.Machine.execSuspensionPoint cl company s
  | .taskSteal core k => Sys2Proof.Machine.execTaskSteal core k s
  | .controlContextResume core => Sys2Proof.Machine.execControlContextResume core s
  | .pageCountReport => Sys2Proof.Machine.execPageCountReport s
  | .shootdownStart cp value => Sys2Proof.Machine.execShootdownStart cp value s
  | .linkStepChange port stp => Sys2Proof.Machine.execLinkStepChange port stp s
  | .retrainingEnd port => Sys2Proof.Machine.execRetrainingEnd port s
  | .peerPacketArrival packet => Sys2Proof.Machine.execPeerPacketArrival packet s
  | .doorbell vf value => Sys2Proof.Machine.execDoorbell vf value s
  | .dberrRead vf => Sys2Proof.Machine.execDberrRead vf s
  | .quantumExpiry slot => Sys2Proof.Machine.execQuantumExpiry slot s
  | .dependencePoll => Sys2Proof.Machine.execDependencePoll s
  | .launchStart => Sys2Proof.Machine.execLaunchStart s
  | .launchRetire => Sys2Proof.Machine.execLaunchRetire s
  | .queueTeardown vf => Sys2Proof.Machine.execQueueTeardown vf s
  | .teardownDone vf => Sys2Proof.Machine.execTeardownDone vf s
  | .partitionActivate cp => Sys2Proof.Machine.execPartitionActivate cp s
  | .partitionDeactivate cp => Sys2Proof.Machine.execPartitionDeactivate cp s
  | .sethb cp => Sys2Proof.Machine.execSethb cp s
  | .quant cp => Sys2Proof.Machine.execQuant cp s
  | .companySuspend cl company => Sys2Proof.Machine.execCompanySuspend cl company s
  | .companyResume cl company => Sys2Proof.Machine.execCompanyResume cl company s
  | .companyKill cl company kcode => Sys2Proof.Machine.execCompanyKill cl company kcode s
  | .dump cp => Sys2Proof.Machine.execDump cp s
  | .policyRegister cp => Sys2Proof.Machine.execPolicyRegister cp s
  | .policyExpiry pnum => Sys2Proof.Machine.execPolicyExpiry pnum s
  | .breakpointTableLoad pnum core => Sys2Proof.Machine.execBreakpointTableLoad pnum core s
  | .counterSweep die => Sys2Proof.Machine.execCounterSweep die s
  | .gridIntervalEnd stream => Sys2Proof.Machine.execGridIntervalEnd stream s
  | .traceDrain core => Sys2Proof.Machine.execTraceDrain core s
  | .firmwareLoad => Sys2Proof.Machine.execFirmwareLoad s
  | .firmwareSwitch => Sys2Proof.Machine.execFirmwareSwitch s
  | .quiescentSwitchRestart => Sys2Proof.Machine.execQuiescentSwitchRestart s
  | .firmwareDiscard => Sys2Proof.Machine.execFirmwareDiscard s
  | .watchdogKick => Sys2Proof.Machine.execWatchdogKick s
  | .ladderAck => Sys2Proof.Machine.execLadderAck s
  | .watchdogTimeout => Sys2Proof.Machine.execWatchdogTimeout s
  | .rungSwitch => Sys2Proof.Machine.execRungSwitch s
  | .rungCpReset => Sys2Proof.Machine.execRungCpReset s
  | .rungPartitionReset => Sys2Proof.Machine.execRungPartitionReset s
  | .rungIoDieReset => Sys2Proof.Machine.execRungIoDieReset s
  | .packageReset => Sys2Proof.Machine.execPackageReset s
  | .junctionAlarm => Sys2Proof.Machine.execJunctionAlarm s
  | .junctionTrip => Sys2Proof.Machine.execJunctionTrip s
  | .powerUpBoot => Sys2Proof.Machine.execPowerUpBoot s
  | .configRecordInstall record => Sys2Proof.Machine.execConfigRecordInstall record s
  | .trustedClockSet record => Sys2Proof.Machine.execTrustedClockSet record s
  | .pldmFirmwareUpdate image => Sys2Proof.Machine.execPldmFirmwareUpdate image s
  | .spdmAttestation => Sys2Proof.Machine.execSpdmAttestation s
  | .functionLevelReset vf => Sys2Proof.Machine.execFunctionLevelReset vf s
  | .registerWrite target value => Sys2Proof.Machine.execRegisterWrite target value s
  | .holdingsReassign cl company what => Sys2Proof.Machine.execHoldingsReassign cl company what s
  | .wingsLogLimitRaise cl company limit => Sys2Proof.Machine.execWingsLogLimitRaise cl company limit s
  | .softError site uncorrectable => Sys2Proof.Machine.execSoftError site uncorrectable s

end Sys2Proof.Machine
end

