-- ==== Sys2Proof/Machine/Outside.lean ====
section
/-! DEFINITION. What the command processor and the host read of the package, and what they do to it by physical address: reads of device
registers (R27, R48, R69, R94, R165, R236, R260, R267, R439, R453, R463, R464, R470, R480, R493, R498, R508, R514, R517, R519, R520),
accesses by physical address (R26 to R29), and the host's AtomicOps (R514). -/

namespace Sys2Proof.Machine

/-- A value at a place of a word. -/
def atBit (lo v : Nat) : Nat := v * 2 ^ lo

/-- A flag at a place of a word. -/
def flagBit (lo : Nat) (b : Bool) : Nat := if b then 2 ^ lo else 0

/-! ## Registers of the core dies -/

/-- MODE of a bank (R69). -/
def BankMode.code : BankMode → Nat
  | .cache => 0
  | .scratch => 1
  | .fifo => 2
  | .retiring => 3

/-- A diversion-table entry names a company and a logical bank. -/
def Divert.names (d : Divert) (company lbank : Nat) : Bool :=
  match d with
  | .divert c _ _ _ lbanks => c == company && lbanks.getLsbD lbank
  | .discard c l => c == company && l == lbank

/-- The control register of a bank (R69). -/
def Cluster.bankWord (c : Cluster) (b : Nat) : Nat :=
  let k := c.bankAt b
  let named := k.held || k.mode == .retiring
  k.mode.code + flagBit 2 k.next.isSome + flagBit 3 k.held + (if named then atBit 4 k.company else 0) +
    (if k.mode == .scratch || k.mode == .retiring then atBit 8 k.lbank else 0) +
    flagBit 13 (named && c.diverts.any fun e => e.2.names k.company k.lbank)

/-- BOCLM of a company number (R260). -/
def Cluster.claimWord (c : Cluster) (n : Nat) : Nat :=
  match c.companies.look n with
  | none => 0
  | some co =>
    co.claim.slots + atBit 8 co.claim.banks + atBit 16 co.claim.tiles + atBit 32 co.launch + atBit 50 co.pnum + flagBit 61 co.susp +
      flagBit 62 (c.reqs.any fun r => r.company == n && r.waits && r.phase.undecided) + flagBit 63 true

/-- BOHLD of a company number (R260). -/
def Cluster.heldWord (c : Cluster) (n : Nat) : Nat :=
  let h := c.holdings n
  h.slots + atBit 8 h.banks + atBit 16 h.tiles

/-- CCTL of a company number (R464). -/
def Cluster.controlWord (c : Cluster) (n : Nat) : Nat :=
  (match c.companies.look n with
   | none => 0
   | some co => flagBit 2 co.busy + flagBit 3 co.susp + atBit 4 co.reason.toNat) + flagBit 6 (c.cerr.contains n)

/-- CGRB of a company number (R464). -/
def Cluster.roomWord (c : Cluster) (n : Nat) : Nat :=
  match c.companies.look n with
  | none => 0
  | some co => atBit 12 co.cgrb.toNat

/-- The low word of a diversion-table entry (R470). -/
def Divert.low (d : Divert) : Nat :=
  match d with
  | .divert company mbox hold _ lbanks => 1 + atBit 2 company + flagBit 6 mbox + flagBit 7 hold + atBit 32 lbanks.toNat
  | .discard company lbank => 3 + atBit 2 company + atBit 8 lbank

/-- The high word of a diversion-table entry: LOG (R470). -/
def Divert.high (d : Divert) : Nat :=
  match d with
  | .divert _ _ _ log _ => log % 2 ^ 52 / 64 * 64
  | .discard .. => 0

/-- An entry of the diversion table. -/
def Cluster.divertWord (c : Cluster) (i : Nat) (high : Bool) : Nat :=
  match c.diverts.look i with
  | none => 0
  | some d => if high then d.high else d.low

/-- A register of a cluster's block at its die socket; none at an offset that is not decoded. -/
def Cluster.blockWord (c : Cluster) (r : Nat) : Option Nat :=
  if 0x100 ≤ r ∧ r < 0x200 then some (c.bankWord ((r - 0x100) / 8))
  else if 0x200 ≤ r ∧ r < 0x300 then some (if r % 16 = 0 then c.claimWord ((r - 0x200) / 16) else c.heldWord ((r - 0x200) / 16))
  else if 0x400 ≤ r ∧ r < 0x500 then some (if r % 16 = 0 then c.controlWord ((r - 0x400) / 16) else c.roomWord ((r - 0x400) / 16))
  else if 0x800 ≤ r ∧ r < 0xC00 then some (c.divertWord ((r - 0x800) / 16) (r % 16 == 8))
  else none

/-- A mailbox counter (R165). -/
def Mail.word (m : Mail) : Nat :=
  m.count.toNat + (if m.owned then atBit 32 m.company.toNat else 0) + flagBit 36 m.owned + flagBit 37 m.ovf

/-- CFENCE (R236). -/
def Core.fenceWord (c : Core) : Nat := flagBit 0 c.fenced + atBit 2 c.fslot.toNat + flagBit 6 c.multi

/-- CCODE (R267). -/
def Core.codeWord (c : Core) : Nat := c.xb.toNat + atBit 16 c.img.toNat + atBit 32 c.ovl.toNat + flagBit 48 c.chalt

/-- A mailbox counter of a core, by its tag. -/
def Core.mailWord (c : Core) (tag : Nat) : Nat := (c.mail.toList.getD tag .zero).word

/-- A register at a core die's socket, at an offset that is a multiple of 8. -/
def State.dieWord (s : State) (die o : Nat) : Option Nat :=
  if o < 24 * 0x10000 then (s.clusterAt (die * 24 + o / 0x10000)).blockWord (o % 0x10000)
  else if 0x400000 ≤ o ∧ o < 0x400000 + 192 * 0x100 then
    let r := o - 0x400000
    if r % 0x100 < 0x80 then some ((s.coreAt (dieCore die (r / 0x100))).mailWord (r % 0x100 / 8)) else none
  else if 0x500000 ≤ o ∧ o < 0x500000 + 192 * 0x10 then
    let c := s.coreAt (dieCore die ((o - 0x500000) / 16))
    some (if o % 16 = 0 then c.fenceWord else c.cfgtid.toNat)
  else if 0x600000 ≤ o ∧ o < 0x600000 + 192 * 0x10 then
    if o % 16 = 0 then some (s.coreAt (dieCore die ((o - 0x600000) / 16))).codeWord else none
  else none

/-! ## Registers of I/O die 0 -/

/-- Bytes of the extent of a totals, grid or trace stream. -/
def streamExtent (i : Nat) (r : Word) : Nat :=
  if i < 2 then totBytes else if i < 4 then ringExtent r 23616 else ringExtent r 32

/-- A stream register of a partition, with FULL and BUSY as they stand (R480, R493). -/
def State.streamWord (s : State) (pnum i : Nat) : Nat :=
  let r := s.streamReg pnum i
  r.toNat + flagBit 63 (i < 6 && s.streamFull pnum r (streamExtent i r)) + flagBit 58 (i == 7 && !(s.part pnum).bpTodo.isEmpty)

/-- A register at the socket of I/O die 0, at an offset that is a multiple of 8. DESIGN CHOICE (log entry 112): FULL of a device stream,
whose extent no partition's regions bound, reads 1. -/
def State.ioWord (s : State) (o : Nat) : Option Nat :=
  if 0x200000 ≤ o ∧ o < 0x201000 then
    let p := (o - 0x200000) / 0x40
    if isPart p ∧ o % 0x40 < 0x20 then some ((s.part p).pc.getD (o % 0x40 / 8) 0).toNat else none
  else if 0x300000 ≤ o ∧ o < 0x300400 then
    let p := (o - 0x300000) / 0x10
    if isPart p ∧ o % 0x10 = 0 then some (s.part p).fring.toNat else none
  else if 0x340000 ≤ o ∧ o < 0x342000 then
    let p := (o - 0x340000) / 0x80
    if isPart p ∧ o % 0x80 < 0x50 then some (s.streamWord p (o % 0x80 / 8)) else none
  else if 0x342000 ≤ o ∧ o < 0x342018 then
    some ((s.deviceReg ((o - 0x342000) / 8)).toNat + flagBit 63 (o != 0x342010))
  else if 0x380000 ≤ o ∧ o < 0x380000 + 8 * 4096 then some (s.mmio.getD o 0).toNat
  else none

/-! ## Reads of registers -/

/-- The part of a 64-bit register that a read of 4 or 8 bytes, aligned, at an offset gives; none for any other (R27). -/
def regPart (offset size v : Nat) : Option Nat :=
  if size = 8 ∧ offset % 8 = 0 then some (v % 2 ^ 64)
  else if size = 4 ∧ offset % 8 = 0 then some (v % 2 ^ 32)
  else if size = 4 ∧ offset % 8 = 4 then some (v / 2 ^ 32 % 2 ^ 32)
  else none

/-- An access from outside gives a value. -/
def State.give (s : State) (v : Nat) : State := { s with reply := .value (BitVec.ofNat 64 v) }

/-- An access from outside that nothing answers: all ones, and counted (R27, R29). -/
def State.unclaimedRead (s : State) (size : Nat) : State := { s with unclaimed := s.unclaimed + 1 }.give (2 ^ (8 * size) - 1)

/-- A read in class 0xD. -/
def State.readMmio (s : State) (socket offset size : Nat) : State :=
  let o := offset / 8 * 8
  let w : Option Nat := if socket < 8 then s.dieWord socket o else if socket = 16 then s.ioWord o else none
  match regPart offset size (w.getD 0) with
  | none => { s with reply := .align }
  | some v => if w.isSome then s.give v else s.unclaimedRead size

/-- XSDCTL (R48). -/
def SdRegs.ctlWord (r : SdRegs) : Nat :=
  r.pnum.toNat + flagBit 9 r.busy + flagBit 10 r.allva + flagBit 11 r.done + flagBit 12 r.err

/-- XWDCTL (R520). -/
def State.watchdogWord (s : State) : Nat :=
  s.wdT1.toNat + atBit 12 s.rung.toNat + flagBit 15 s.ladderCause + atBit 16 s.ladderPnum.toNat

/-- XFWCTL (R520). -/
def State.firmwareWord (s : State) : Nat :=
  flagBit 2 s.fwBusy + atBit 3 s.fwStatus.toNat + flagBit 6 s.understudy.isSome + flagBit 7 s.fwDone + atBit 16 s.running.svn.toNat +
    atBit 32 (match s.understudy with
      | none => 0
      | some u => u.svn.toNat)

/-- XLINK (R520). -/
def State.linkWord (s : State) : Nat :=
  ((List.range 32).map fun i => atBit (2 * i) (match s.linkSteps.look i with
    | none => 0
    | some f => f.val)).sum

/-- A custom register, as a core in machine mode reads it. -/
def State.customWord (s : State) (cp number : Nat) : Nat :=
  match number with
  | 0x7C0 => (s.sdRegsOf cp).lo.toNat
  | 0x7C1 => (s.sdRegsOf cp).hi.toNat
  | 0x7C2 => (s.sdRegsOf cp).ctlWord
  | 0x7C9 => s.pkg.toNat
  | 0x7CA => s.watchdogWord
  | 0x7CB => s.firmwareWord
  | 0x7CC => s.fwAdr.toNat
  | 0x7CD => s.linkWord
  | 0x7CE => s.linkCaps.toNat
  | n => (s.csr cp n).toNat

/-- A read of a custom register (R519). -/
def State.readCsr (s : State) (cp number : Nat) : State :=
  if s.csrIllegal cp number then s.cpTrap cp else s.give (s.customWord cp number)

/-- QTCTL (R439). -/
def Vf.ctlWord (f : Vf) : Nat := f.qtlen + atBit 16 f.tdqid + flagBit 29 f.tdbusy + flagBit 30 f.tddone

/-- A register of BAR 0 of a virtual function, at an offset that is a multiple of 8; the rest of the BAR reads as zero (R439, R514). -/
def Vf.word (f : Vf) (o : Nat) : Nat :=
  if o = 8 then f.qtbase.toNat else if o = 16 then f.ctlWord else if o = 24 then f.dberr.toNat else 0

/-- A read of BAR 0; one that reaches COUNT of DBERR clears it (R439). -/
def State.readVf (s : State) (v offset size : Nat) : State :=
  let s' := s.give ((regPart offset size ((s.vf v).word (offset / 8 * 8))).getD 0)
  if v ≤ 255 ∧ offset = 24 ∧ (size = 4 ∨ size = 8) then s'.updVf v fun f => { f with dberr := 0 } else s'

/-- A read of a device register. -/
def State.registerRead (s : State) (target : RegTarget) : State :=
  match target with
  | .csr cp number => s.readCsr cp.val number
  | .vf index offset size => s.readVf index offset size
  | .mmio socket offset size => s.readMmio socket.val offset size

/-! ## Accesses of the command processor by physical address (R26 to R29) -/

/-- A bank of a cluster is not a scratch bank, so that its window gives no access to it (R29). -/
def State.windowShut (s : State) (pa : Nat) : Bool :=
  paClass pa == 0xE && pa / 2 ^ 44 % 16 == 1 &&
    (let k := (s.clusterAt (clusterOf (BitVec.ofNat 16 (pa / 2 ^ 28)))).bankAt (pa / 2 ^ 16 % 32)
     k.mode != .scratch || k.next.isSome)

/-- An access by physical address is performed. -/
def State.physOpen (s : State) (pa size : Nat) : Bool :=
  paRangeExists pa size && !s.windowShut pa && !s.windowShut (pa + size - 1)

/-- A socket as a register target has it. -/
def socketOf (pa : Nat) : Fin 32 := Fin.ofNat 32 (pa / 2 ^ 43)

/-- A read by physical address: of a register, of a window, or of a line at its home. -/
def State.readPhysical (s : State) (pa size : Nat) : State :=
  if paClass pa = 0xD then s.readMmio (socketOf pa).val (pa % 2 ^ 43) size
  else if size = 0 ∨ 8 < size ∨ !s.physOpen pa size then s.unclaimedRead (min size 8)
  else if paClass pa = 0xE then s.give (leValue (s.tierBytes pa size))
  else s.give (leValue (s.physBytes pa size))

/-- A write by physical address. What it changes may let arrivals into a wings log whose WLLIM was raised (R473). -/
def State.writePhysical (s : State) (pa size : Nat) (v : Word) : State :=
  if paClass pa = 0xD then s.registerWrite (.mmio (socketOf pa) (pa % 2 ^ 43) size) v
  else if size = 0 ∨ 8 < size ∨ !s.physOpen pa size then s.unclaimedWrite
  else if paClass pa = 0xE then (s.setTier pa (leBytes size v.toNat)).clearBad pa size
  else (s.physBytesWrite pa (leBytes size v.toNat)).drainAll

/-! ## The host (R514) -/

/-- What an AtomicOp of n bits writes for the old value; none for a CAS whose comparison fails. -/
def HostAtomic.apply (op : HostAtomic) (n old value compare : Nat) : Option Nat :=
  match op with
  | .fetchAdd => some ((old + value) % 2 ^ n)
  | .swap => some (value % 2 ^ n)
  | .cas => if old = compare % 2 ^ n then some (value % 2 ^ n) else none

/-- An AtomicOp of 32 or 64 bits on BAR 0 of a virtual function: the register is read, and the result is written, in one step; a CAS whose
comparison fails writes nothing (R346, R347). DEDUCED (log entry 109). -/
def State.hostAtomic (s : State) (v offset size : Nat) (op : HostAtomic) (value compare : Word) : State :=
  let s := s.readVf v offset size
  match s.reply, regBits offset size 0 with
  | .value old, some _ =>
    match op.apply (8 * size) old.toNat value.toNat compare.toNat with
    | none => s
    | some new => s.registerWrite (.vf v offset size) (BitVec.ofNat 64 new)
  | _, _ => s

/-- A PLDM type 2 request is answered. DESIGN CHOICE (log entry 134): the answer is a free value. -/
def State.pldmControl (s : State) (request : List Byte) : State :=
  { s with outbox := s.outbox ++ [.pldm (Config.pldmAnswer s.fresh request)], fresh := s.fresh + 1 }

/-- What the agenda names of the command processor's and the host's own accesses; before the part has booted neither makes one (R525, log
entry 91). -/
def State.fromOutside (s : State) (a : Outside) : State :=
  if s.boot ≠ .running then s
  else match a with
  | .readRegister target => s.registerRead target
  | .readPhysical pa size => s.readPhysical pa size
  | .writePhysical pa size value => s.writePhysical pa size value
  | .hostAtomic vf offset size op value compare => s.hostAtomic vf offset size op value compare
  | .setMode cp mode pc => { s with cpModes := s.cpModes.put cp.val mode.val, cpPcs := s.cpPcs.put cp.val pc }
  | .pldmControl request => s.pldmControl request

end Sys2Proof.Machine
end

