-- ==== Sys2Proof/Machine/Service.lean ====
section
/-! DEFINITION. The shootdown requests that the firmware's default trap handler serves (R457, R539). -/

namespace Sys2Proof.Machine

/-- The companies of a task's group, with their clusters. -/
def State.groupOf (s : State) (x : Ctx) : List (Nat × Company) :=
  s.clusters.flatMap fun (e : Nat × Cluster) =>
    match s.groupCompany? x e.1 with
    | some co => [(e.1, co)]
    | none => []

/-- The request in the pending trap of a suspended task's record: a TRAP with the tag 0x5D, forwarded with its whole group, of a launch that
started with the default handler (R457, R539, log entry 64). -/
def State.requestOf (s : State) (x : Ctx) : Option Nat :=
  match s.company? (clusterOf x.home) x.company.toNat, x.heldTrap with
  | some co, some t =>
    if !(s.launches.look (launchKey co.pnum co.launch)).any Launch.defHandler || t.code != .trap || co.reason != 2 || !(s.groupOf x).all (fun g => g.2.susp && !g.2.busy) then none
    else
      match (s.recordPa co x.gtid).1 with
      | none => none
      | some a =>
        let v := (s.greenRead co.pnum (a + 0x2D0)).1
        if (s.greenRead co.pnum (a + 0x2B8)).1 / 2 ^ 3 % 4 = 1 && v / 2 ^ 56 = 0x5D then some v else none
  | _, _ => none

/-- A command-processor core whose shootdown registers the service may use. -/
def State.freeSdRegs (s : State) : Option Nat :=
  (List.range 4).find? fun cp =>
    let r := s.sdRegsOf cp
    !r.busy &&
      match r.client with
      | none => !r.done
      | some k => (s.requestOf (s.ctx k)).isNone

/-- The shootdown of a request begins (step 3). -/
def State.startRequest (s : State) (k cp v : Nat) : State :=
  let x := s.ctx k
  let lo := v % 2 ^ 40
  let word (vpn : Nat) : Word := BitVec.ofNat 64 (vpn * 2 ^ 16)
  let s := { s with sdregs := s.sdregs.put cp { s.sdRegsOf cp with lo := word lo, hi := word (lo + v / 2 ^ 40 % 2 ^ 8) } }
  let s := s.writeSdCtl cp (BitVec.ofNat 64 (gtidPnum x.gtid + 0x100))
  { s with sdregs := s.sdregs.upd cp fun r => { r with client := some k } }

/-- The shootdown of a request is done: PC := the recorded %epc, TRAPACT := 1, and RESUME of the group (step 4). -/
def State.finishRequest (s : State) (k cp : Nat) : State :=
  let x := s.ctx k
  let s := { s with sdregs := s.sdregs.upd cp fun r => { r with client := none, done := false } }
  match s.company? (clusterOf x.home) x.company.toNat with
  | none => s
  | some co =>
    match (s.recordPa co x.gtid).1 with
    | none => s
    | some a =>
      let s := s.greenWrite co.pnum (a + 0x240) (s.greenRead co.pnum (a + 0x2C8)).1
      let s := s.greenWrite co.pnum (a + 0x2B8) (withBits (s.greenRead co.pnum (a + 0x2B8)).1 4 1 1)
      (s.groupOf x).foldl (fun (s : State) g => s.resumeCommand g.1 x.company.toNat) s

/-- Service of one task's request: a KILL for one that is malformed or would set ERR, else a shootdown, then RESUME. -/
def State.serveRequest (s : State) (k : Nat) : State :=
  let x := s.ctx k
  match s.requestOf x with
  | none => s
  | some v =>
    if v / 2 ^ 48 % 2 ^ 8 ≠ 0 || 2 ^ 40 ≤ v % 2 ^ 40 + v / 2 ^ 40 % 2 ^ 8 then
      s.killCommand (clusterOf x.home) x.company.toNat (BitVec.ofNat 8 (FaultCode.num .trap))
    else
      match (List.range 4).find? fun cp => (s.sdRegsOf cp).client == some k with
      | some cp => if (s.sdRegsOf cp).busy then s else s.finishRequest k cp
      | none =>
        match s.freeSdRegs with
        | some cp => s.startRequest k cp v
        | none => s

/-- The firmware's service of a task's request, an internal event. -/
def execHandlerService (k : Nat) (s : State) : Host.Outcome State Fault Refusal := eventM (fun s => s.serveRequest k) s

end Sys2Proof.Machine
end

