-- ==== Sys2Proof/Machine/Schedule.lean ====
section
/-! DEFINITION. Which internal event comes next where the agenda names none (log entry 2): the first in a fixed order that changes the
state. What the host, the firmware, a peer or the environment does, the agenda alone names. -/

namespace Sys2Proof.Machine

/-! ## Events that may be due -/

/-- An event, as the function that gives its outcome. -/
abbrev Event := State → Host.Outcome State Fault Refusal

/-- Of the contexts. -/
def State.ctxEvents (s : State) : List Event :=
  s.ctxs.flatMap fun (e : Nat × Ctx) =>
    match e.2.status with
    | .waiting _ => [execWaitComplete e.1]
    | .flight (.sleep ..) => [execSleepEnd e.1]
    | .flight (.twait ..) => [execTwaitDeadline e.1]
    | .flight (.fill pa leaf va) =>
      match s.pickBank (homeOf leaf.entry pa va) with
      | none => [execHomeMissFill e.1 0 none]
      | some (b, v) => [execHomeMissFill e.1 b v]
    | .flight _ => [execHomeAccessPerform e.1]
    | .transit _ => [execMigrationArrival e.1]
    | .parked => []
    | .trapped .. => if e.2.suspended then [execHandlerService e.1] else []
    | .idle => []

/-- Of what is under way. -/
def State.packetEvents (s : State) : List Event :=
  s.pkts.map fun (e : Nat × Packet) =>
    match e.2 with
    | .event _ => execEventLanding e.1
    | .spawn .. => execSpawnArrival e.1
    | .start .. => execContinuationStart e.1
    | .message .. => execMessagePacketLanding e.1
    | .scratch .. => execScratchLanding e.1
    | .cell .. => execExportCellUpdate e.1

/-- Of walks, write-backs, shootdowns and page counts. -/
def State.memoryEvents (s : State) : List Event :=
  (s.walks.flatMap fun (e : Nat × Walk) =>
    if !e.2.started then [execTranslationMiss e.2.die] else if e.2.cas.isSome then [execWalkAdCasResult e.1] else [execWalkEntryRead e.1]) ++
  (s.clusters.flatMap fun (e : Nat × Cluster) => e.2.writebacks.map fun w => execWritebackAccept w.1) ++
  (s.shootdowns.flatMap fun (e : Nat × Shootdown) =>
    let cp : Fin 4 := Fin.ofNat 4 e.1
    (e.2.todo.map fun c => execShootdownDropPoint cp c) ++
      (s.holdPoints e.2).eraseDups.map (fun cl => execShootdownDropPoint cp (10000 + cl)) ++ [execShootdownComplete cp]) ++
  (s.held.flatMap fun (h : Nat × HeldStore) => if h.2.ready.isSome then [execHomeAccessPerform h.1] else []) ++
  (if s.reports.isEmpty then [] else [execPageCountReport])

/-- Of clusters: the box office, banks, diversion entries, suspensions, and the RESUME that follows a grant (R259, R474). -/
def State.clusterEvents (s : State) : List Event :=
  s.clusters.flatMap fun (e : Nat × Cluster) =>
    (e.2.banks.map fun b => execBankSwitch e.1 b.1) ++
      (e.2.diverts.flatMap fun d => match d.2 with
        | .discard company lbank => [execDiscardEntryRemove e.1 company lbank]
        | .divert .. => []) ++
      (if e.2.reqs.isEmpty then [] else [execBoxDecision e.1, execBoxRedecision e.1]) ++
      e.2.companies.map fun c => if c.2.resuming then execCompanyResume e.1 c.1 else execSuspensionPoint e.1 c.1

/-- Of queues, engines and tile units. -/
def State.streamEvents (s : State) : List Event :=
  (s.queues.flatMap fun (e : Nat × Queue) => [execEntryDelivery e.1, execCreditReturn e.1, execExtensionRefill e.1]) ++
  s.ops.flatMap fun (e : Nat × EngOp) =>
    if e.2.result.isSome then [execEngineResolve e.1]
    else
      match e.2.body with
      | .message .. => [execMessageSendOperation e.1]
      | .copy .. => [execCopyOperation e.1]
      | .badShape .. => [execCopyOperation e.1]
      | .toQueue .. => [execCopyOperation e.1]
      | .join .. => [execEngineResolve e.1]
      | _ => [execTileCommandPerform e.2.core]

/-- The action of an operator. -/
def Opr.action (k : Nat) (o : Opr) : List Event :=
  match o.kind with
  | .seq => [execSeqAction k]
  | .ref => (o.slots.zipIdx.map fun e => execRefReadReturn k e.2) ++ [execRefAction k]
  | .put => [execPutAction k]
  | .dist => ((List.range 16).map fun r => execDistAction k (.push r)) ++ [execDistAction k .take, execDistAction k .steal, execDistFrameResize k]
  | .collect => [execCollectAction k]
  | .fork => [execForkAction k]
  | .join => [execJoinAction k]
  | .zip => [execZipAction k]
  | .reduce => [execReduceAction k]
  | .filter => [execFilterAction k]
  | .convert => [execConvertAction k]
  | .bridge => [execBridgeReceive k, execBridgeSend k]

/-- Of operators. -/
def State.oprEvents (s : State) : List Event := s.oprs.flatMap fun (e : Nat × Opr) => e.2.action e.1

/-- The cores on which something happens. -/
def State.liveCores (s : State) : List Coord := (s.ctxs.map fun (e : Nat × Ctx) => e.2.core).eraseDups

/-- The steals that may be due, by any core of a cluster where something happens: in a replay the log says which task (R230, R505). -/
def State.steals (s : State) : List Event :=
  ((s.liveCores.map clusterOf).eraseDups.flatMap clusterCores).flatMap fun c =>
    match s.stealChoice c with
    | none => []
    | some k =>
      execTaskSteal c k :: (s.ctxs.filter fun (e : Nat × Ctx) =>
        s.modeOf (gtidPnum e.2.gtid) (gtidLaunch e.2.gtid) == 2 && (s.mayTake c e.1).isSome).map fun (e : Nat × Ctx) => execTaskSteal c e.1

/-- Of cores: trap service, breakpoint tables, traces, stealing. -/
def State.coreEvents (s : State) : List Event :=
  (s.cores.flatMap fun (e : Nat × Core) =>
    let c : Coord := BitVec.ofNat 16 e.1
    (if e.2.traps.isEmpty then [] else [execTrapServiceStart c]) ++ (if e.2.trace.isEmpty then [] else [execTraceDrain c])) ++
  s.steals ++
  s.parts.flatMap fun (e : Nat × Part) => e.2.bpTodo.map fun c => execBreakpointTableLoad e.1 (BitVec.ofNat 16 c)

/-- Of launches and host queues. -/
def State.hostEvents (s : State) : List Event :=
  (s.hwslots.keys.map execQuantumExpiry) ++ (if s.vfs.isEmpty then [] else [execDependencePoll, execLaunchRetire, execLaunchStart]) ++
  s.vfs.flatMap fun (e : Nat × Vf) => if e.2.tdbusy then [execTeardownDone e.1] else []

/-- What the passing of time brings: heartbeats, sweeps, grid frames, policies, link steps, the ladder and boot. -/
def State.timedEvents (s : State) : List Event :=
  (if s.boot = .off then [execPowerUpBoot] else []) ++
  (s.ctxs.flatMap fun (e : Nat × Ctx) => if s.missed e.2 then [execHeartbeatExpiry e.1] else []) ++
  ((List.range Config.dies).map execCounterSweep) ++ [execGridIntervalEnd 0] ++
  (s.parts.flatMap fun (e : Nat × Part) =>
    (if s.expiring e.1 then [execPolicyExpiry e.1] else []) ++ [execGridIntervalEnd (2 * e.1), execGridIntervalEnd (2 * e.1 + 1)]) ++
  (s.linkSteps.flatMap fun (e : Nat × Fin 4) => if s.linkCap e.1 < e.2.val then [execLinkStepChange e.1 (s.linkCap e.1)] else []) ++
  (s.retraining.flatMap fun p => if s.stepFree p 810 then [execRetrainingEnd p] else []) ++
  ((List.range 4).flatMap fun cp => if xpBusy (s.xpcmd cp) then [execPartitionActivate (Fin.ofNat 4 cp), execPartitionDeactivate (Fin.ofNat 4 cp)] else []) ++
  [execQuiescentSwitchRestart, execWatchdogTimeout, execRungSwitch, execRungCpReset, execRungPartitionReset, execRungIoDieReset, execPackageReset]

/-- Every event that may be due, in the order in which they are tried. -/
def State.candidates (s : State) : List Event :=
  s.packetEvents ++ s.memoryEvents ++ s.ctxEvents ++ s.clusterEvents ++ s.streamEvents ++ s.oprEvents ++ s.coreEvents ++ s.hostEvents ++
    s.timedEvents

/-- The state after an event, where the event is due: it changes the state. -/
def State.after (s : State) (e : Event) : Option State :=
  match e s with
  | .next t => if t = s then none else some t
  | _ => none

/-- The state after the first internal event that is due. -/
def State.nextEvent (s : State) : Option State := s.candidates.findSome? s.after

/-! ## Operators that lose an action slot (R421, R424) -/

/-- What the next action of DIST would meet: without one that can be made, a staged head that waits for output credit comes first. -/
def State.tryDist (s : State) (k : Nat) (o : Opr) : Act :=
  match s.actTake k o with
  | .done t => .done t
  | a =>
    if (List.range 16).any fun r => !(o.stagedKnown r).isEmpty && !s.hasRoom o (16 + r) 1 then .noCredit else a

/-- What an operator's next action would meet. -/
def State.oprTry (s : State) (k : Nat) (o : Opr) : Act :=
  match o.kind with
  | .seq => s.actSeq k o
  | .ref => s.actRef k o
  | .put => s.actPut k o
  | .dist => s.tryDist k o
  | .collect => s.actCollect k o
  | .fork => s.actFork k o
  | .join => s.actJoin k o
  | .zip => s.actZip k o
  | .reduce => s.actReduce k o
  | .filter => s.actFilter k o
  | .convert => s.actConvert k o
  | .bridge => if o.ins.isEmpty then s.actReceive k o else s.actSend k o

/-- An operator's action slot passes without an action: for want of credit or input it is lost, and counted (R421, R482). -/
def State.oprSlot (s : State) (k : Nat) (o : Opr) : State :=
  if o.state = .running ∧ s.oprTurn o ∧ o.actedAt ≠ s.cycle + 1 then
    match s.oprTry k o with
    | .noCredit => (s.updOpr k fun o => { o with ostall := o.ostall + 1 }).countCluster o.cl 12 1
    | .noInput => (s.updOpr k fun o => { o with istall := o.istall + 1 }).countCluster o.cl 12 1
    | _ => s
  else s

end Sys2Proof.Machine
end

