-- ==== Sys2Proof/Machine/Issue.lean ====
section
/-! DEFINITION. Choosing a slot, fetching and decoding its word, and what else a step may do (R68, R215 to R218, R262 to R269, R478). -/

namespace Sys2Proof.Machine

/-! ## The rotation (R217, R218) -/

/-- Place of a slot in the cyclic order that starts after the slot that issued last. -/
def slotTurn (last slot : Fin 16) : Nat := (slot.val + 15 - last.val) % 16

/-- Inserts a context by its turn. -/
def insertTurn (last : Fin 16) (e : Nat × Fin 16 × Bool) (l : List (Nat × Fin 16 × Bool)) : List (Nat × Fin 16 × Bool) :=
  match l with
  | [] => [e]
  | f :: r => if slotTurn last e.2.1 < slotTurn last f.2.1 then e :: f :: r else f :: insertTurn last e r

/-- The ready contexts of a core in turn, each with its slot and whether it passes its next turn. -/
def State.readyOn (s : State) (core : Coord) : List (Nat × Fin 16 × Bool) :=
  let l := s.ctxs.filterMap fun (e : Nat × Ctx) =>
    if e.2.core == core && s.ready e.1 then some (e.1, e.2.slot, e.2.yielded) else none
  l.foldl (fun acc e => insertTurn (s.coreAt core).last e acc) []

/-- The context that issues next on a core, and those whose turn passes: the first in turn that does not yield, and the first of all
where every ready slot yields. -/
def State.turn (s : State) (core : Coord) : Option (Nat × List Nat) :=
  if s.cycle < (s.coreAt core).issueAt then none
  else
    match s.readyOn core with
    | [] => none
    | e :: r =>
      let l := e :: r
      match l.find? fun e => !e.2.2 with
      | some f => some (f.1, (l.takeWhile fun e => e.2.2).map Prod.fst)
      | none => some (e.1, if r.isEmpty then [] else l.map Prod.fst)

/-- A slot passes its turn under a yield. -/
def State.passTurn (s : State) (k : Nat) : State :=
  (s.updCtx k fun x => { x with yielded := false }).countCore (s.ctx k).core 0 2

/-! ## Fetching (R263 to R268, R478) -/

/-- The word at a PC in a core's local memory. -/
def State.wordAt (s : State) (core : Coord) (pc : Nat) : InstrWord := wordOfBytes (s.tierBytes (localPa core (12 * pc)) 12)

/-- A byte of the word at a PC is bad (R478). -/
def State.badWord (s : State) (core : Coord) (pc : Nat) : Bool :=
  let a := localPa core (12 * pc)
  s.bad.any fun b => a / 8 ≤ b / 8 && b / 8 ≤ (a + 11) / 8

/-- A slot fetches one word ahead, at most two (R268). -/
def State.prefetch (s : State) (k : Nat) : State :=
  match s.ctxs.look k with
  | none => s
  | some x =>
    let pc : Pc := x.pc + BitVec.ofNat 32 x.fetched.length
    if 2 ≤ x.fetched.length || (x.boundary (s.coreAt x.core)).toNat ≤ pc.toNat || s.badWord x.core pc.toNat then s
    else s.setCtx k { x with fetched := x.fetched ++ [(pc, s.wordAt x.core pc.toNat)] }

/-- Extension of an opcode. -/
def extOf (opc : BitVec 12) (h : Hdr) : Ext :=
  match ofOpc opc with
  | none => .base
  | some mk => (((mk (.blank h)).sig?).map fun (e : Fields × Sig) => e.2.ext).getD .base

/-- A guard that always holds, and no hints. -/
def plainHdr : Hdr := { gpred := 7, gsense := false, issue := .none, last := false, mig := .auto }

/-- A word that is no instruction faults, OPERAND_FORM only on a core that has the extension of its opcode (R269). -/
def State.decodeFault (s : State) (e : DecErr) : State :=
  match e with
  | .illegal .. => s.faultHere .illegalOp e.tval
  | .form opc .. => runM (do checkExt (extOf opc plainHdr) opc; fault .operandForm e.tval) s

/-- A context executes a word. -/
def State.execWord (s : State) (k : Nat) (w : InstrWord) : Host.Outcome State Fault Refusal :=
  let s := s.updCtx k fun x =>
    { x with word := w, fetched := x.fetched.filter fun e => e.1 != x.pc, xb := x.boundary (s.coreAt x.core), arriving := false,
             skipBp := false, yielded := false }
  let s := { s with cur := k }
  match decode w with
  | .ok i => exec i s
  | .error e => .next (s.decodeFault e)

/-- A context's next instruction issues, or what comes before it happens. -/
def State.issueOne (s : State) (k : Nat) : Host.Outcome State Fault Refusal :=
  let x := s.ctx k
  match s.before k with
  | .breakpoint => .next (s.breakpointStop k)
  | .overlay => .next (s.overlayTrap k)
  | .async => .next (s.deliverAsync k)
  | .pending => .next (s.raisePending k)
  | .nothing =>
    let s := (s.updCore x.core fun c => { c with last := x.slot, issueAt := s.cycle + 1 }).countCore x.core 0 0
    match x.fetchedWord with
    | some w => s.execWord k w
    | none =>
      if s.badWord x.core x.pc.toNat then
        .next ({ s with cur := k }.faultHere .sramEcc (BitVec.ofNat 64 (12 * x.pc.toNat)))
      else s.execWord k (s.wordAt x.core x.pc.toNat)

/-- A slot of a core is ready in this cycle, which is counted once (R230, R482). -/
def Core.hasReady (c : Core) (cycle : Nat) : Core :=
  if c.readyIn = cycle + 1 then c else { c with readyIn := cycle + 1, readyCycles := c.readyCycles + 1 }

/-- The slot of a context issues if its turn has come. -/
def State.issue (s : State) (k : Nat) (detour : Bool) : Host.Outcome State Fault Refusal :=
  match s.turn (s.ctx k).core with
  | none => .next s
  | some (j, passed) =>
    if j = k then
      let s := passed.foldl State.passTurn (s.updCore (s.ctx k).core fun c => c.hasReady s.cycle)
      (if detour then { s with detours := k :: s.detours } else s).issueOne k
    else .next s

/-! ## Cycles -/

/-- Counters that count cycles, of a core (R482). Event 1 of class 0 is what is left of the cycles that had a ready slot. -/
def State.coreCycle (s : State) (core : Coord) : State :=
  let here := s.ctxs.filter fun (e : Nat × Ctx) => e.2.core == core
  let any (f : Status → Bool) : Bool := here.any fun (e : Nat × Ctx) => f e.2.status
  let s := if (s.readyOn core).isEmpty then s else s.updCore core fun c => c.hasReady s.cycle
  let waits (w : WaitOn) : Status → Bool := fun st => st == .waiting w
  let s := if any (waits .queue) then s.countCore core 1 0 else s
  let s := if any (waits .future) then s.countCore core 1 1 else s
  let s := if any (waits .mailbox) then s.countCore core 1 2 else s
  let s := if any (waits .barrier) then s.countCore core 1 3 else s
  let s := if any (waits .box) then s.countCore core 1 4 else s
  if any (waits .credit) then s.countCore core 6 4 else s

/-- Counters that count cycles, of a cluster (R482). -/
def State.clusterCycle (s : State) (cl : Nat) : State :=
  let c := s.clusterAt cl
  let s := if c.reqs.any fun r => r.waits then s.countCluster cl 11 3 else s
  if Config.writebackLines ≤ c.writebacks.length then s.countCluster cl 3 4 else s

/-- A cycle passes: timers, the counters of cycles, and what waits for the host or the command processor. -/
def State.tick (s : State) : State :=
  let s := s.liveCores.foldl State.coreCycle s
  let s := s.clusters.foldl (fun (s : State) (e : Nat × Cluster) => s.clusterCycle e.1) s
  let s := s.oprs.foldl (fun (s : State) (e : Nat × Opr) => s.oprSlot e.1 e.2) s
  State.settleHost { s with
    cycle := s.cycle + 1,
    ctxs := s.ctxs.map fun (e : Nat × Ctx) => (e.1, if e.2.beats then { e.2 with hb := e.2.hb + 1 } else e.2) }

/-- Cycles pass. -/
def State.ticks (s : State) (n : Nat) : State :=
  match n with
  | 0 => s
  | n + 1 => s.tick.ticks n

/-! ## A step -/

/-- An instruction is an event. -/
def isEvent : Instr → Bool
  | .unassignedOpcode .. => false
  | i => i.sig?.isNone

/-- What the agenda names. -/
def State.perform (s : State) (p : Pick) : Host.Outcome State Fault Refusal :=
  match p with
  | .issue k detour => s.issue k detour
  | .event i => if isEvent i then exec i s else .refused .notAnEvent
  | .prefetch k => .next (s.prefetch k)
  | .evictLine l => .next (s.evict l)
  | .evictTlb cache i => .next (s.evictTlb cache i)
  | .outside a => .next (s.fromOutside a)
  | .advance n => .next (s.ticks n)

/-- What every step does last: it looks at the descriptors of queues that were torn down (R452, log entry 60). -/
def stepped (o : Host.Outcome State Fault Refusal) : Host.Outcome State Fault Refusal :=
  match o with
  | .next s => .next s.lookQueues
  | .fault f => .fault f
  | .refused r => .refused r

/-- The first core on which a slot may issue, with the context whose turn it is. -/
def State.nextIssue (s : State) : Option Nat := s.liveCores.findSome? fun c => (s.turn c).map Prod.fst

/-- Where the agenda names nothing: the first internal event that is due, else the first core that can issue, else a cycle passes. -/
def State.unnamed (s : State) : Host.Outcome State Fault Refusal :=
  match s.nextEvent with
  | some t => .next t
  | none =>
    match s.nextIssue with
    | some k => s.issue k false
    | none => .next s.tick

end Sys2Proof.Machine
end

