-- ==== Sys2Proof/Machine/Step.lean ====
section
/-! DEFINITION. One step of the package, and an instruction placed where the next step fetches it. -/

namespace Sys2Proof.Machine

/-- One step: what the agenda names first, or what `State.unnamed` chooses (log entry 2), and then what every step does last. -/
def step (s : State) : Host.Outcome State Fault Refusal :=
  match s.agenda with
  | p :: r => stepped ({ s with agenda := r }.perform p)
  | [] => stepped s.unnamed

/-- The core on which an instruction placed from outside runs: a tile core for an instruction of the T extension. -/
def fetchCore (nbits w : Nat) : Coord :=
  match decodeTableWord nbits w with
  | none => 0
  | some i => match i.sig? with
    | some (_, sg) => if sg.ext = .t then 1 else 0
    | none => 0

/-- The first nbits of w, as the bytes of local memory from unit 0 of a core of cluster 0, and a task there about to issue: a task of
partition 1, company 0, in slot 1, whose turn it is (log entry 1). -/
def State.withFetchWord (s : State) (nbits w : Nat) : State :=
  let core := fetchCore nbits w
  let k := s.fresh
  let task := { newTask (makeGtid 1 0 (coreNumber core * 8192)) core 1 0 0 false 0 (Vector.replicate 16 0) with arriving := false, xb := 1 }
  let s := s.updCluster 0 fun c =>
    { c with companies := c.companies.put 0 { Company.fresh 1 0 false { slots := 1, banks := 0, tiles := 0 } with slots := [(core, 1)] } }
  let s := s.updCore core fun c => { c with xb := 1, fenced := false, last := 0, issueAt := 0, bps := [] }
  { s with
    ctxs := Tbl.put (s.ctxs.filter fun (e : Nat × Ctx) => !(e.2.core == core && e.2.slot == 1)) k task,
    mem := Mem.setBytes s.mem (localPa core 0) (wordBytes (BitVec.ofNat 96 (w % 2 ^ nbits))),
    bad := s.bad.filter fun b => !(localPa core 0 / 8 ≤ b / 8 && b / 8 ≤ (localPa core 0 + 11) / 8),
    fresh := k + 1,
    agenda := [.issue k false] }

end Sys2Proof.Machine
end

