-- ==== Sys2Proof/Safety.lean ====
section
/-! DEFINITION. What counts as a safe run, and the words in which claims about instructions are stated. -/

namespace Sys2Proof.Machine

/-- A step answers a next state. -/
def State.goesOn (s : State) : Prop := ∃ t, step s = .next t

/-- A run of n steps is safe: it neither faults nor meets an instruction without a meaning. -/
def SafeRun (n : Nat) (s : State) : Prop := ∃ t, core.run n s = .next t

/-- The agenda names as events only what is an event. -/
def State.agendaOk (s : State) : Prop :=
  ∀ p ∈ s.agenda, match p with
    | .event i => isEvent i = true
    | _ => True

/-- The executing context. -/
def State.now (s : State) : Ctx := s.ctx s.cur

/-- The register that a field names (R303). -/
def regOf (o : Operand) : Option (Fin 16) :=
  match o with
  | .g r _ => some r
  | .m r _ _ => some r
  | _ => none

/-- A field names no register that holds a handle, or a value whose resolution is still to be observed (R304, R339). -/
def Ctx.settled (x : Ctx) (o : Operand) : Prop := ∀ r : Fin 16, regOf o = some r → x.ft[r] = 0 ∧ x.fut.look r.val = none

/-- The executing context may run an instruction's effect: its guard holds, and no register it names holds a future (R273, R304). -/
def State.free (s : State) (f : Fields) : Prop :=
  s.now.guard f.h = true ∧ s.now.settled f.d ∧ s.now.settled f.a ∧ s.now.settled f.b

/-- The 64-bit value of a source that is a register lane or an immediate (R302). -/
def State.plainWord (s : State) (o : Operand) : Option Word :=
  match o with
  | .g r lane => some (laneOf s.now.g[r] lane.val)
  | .i v => some (v.signExtend 64)
  | .wide v => some (v.signExtend 64)
  | _ => none

/-- The 256-bit value of a source that is a register or an immediate (R309, R344). -/
def State.plainVec (s : State) (o : Operand) : Option Vec :=
  match o with
  | .g r _ => some s.now.g[r]
  | .i v => some (v.signExtend 256)
  | .wide v => some (v.signExtend 256)
  | _ => none

/-- A context at its next PC (R264). -/
def Ctx.next (x : Ctx) : Ctx := { x with pc := x.pc + 1 }

/-- The state in which an instruction's effect happens: the executing context at its next PC (R264). -/
def State.stepped (s : State) : State := s.setCtx s.cur s.now.next

/-- A vector or a bit instruction is counted (R482). -/
def State.counted (s : State) (e : Ext) : State :=
  match e with
  | .v => s.countCore s.now.core 10 0
  | .x => s.countCore s.now.core 10 1
  | _ => s

/-- The end of an instruction that issued in s and whose effect left t: its class is counted, a frontier that has become saturated is
counted, and the slot is ready again (R200, R216, R482). -/
def State.ended (s t : State) (e : Ext) (h : Hdr) : State :=
  (if !s.now.know.sat && (t.counted e).now.know.sat then (t.counted e).countCluster (clusterOf s.now.core) 13 1 else t.counted e).finish h

/-- The state after an instruction whose only effect is on the executing context: the next PC, the effect, the end of the instruction
(R216, R264). -/
def State.after1 (s : State) (h : Hdr) (f : Ctx → Ctx) : State :=
  (s.updCtx s.cur fun x => f x.next).finish h

/-- A context with a lane of a register replaced (R302). -/
def Ctx.withLane (x : Ctx) (r : Fin 16) (lane : Fin 64) (v : Word) : Ctx := x.setG r (setLane x.g[r] lane.val v)

end Sys2Proof.Machine
end

