-- ==== Sys2Proof/Certificates/Slice0/Obligations.lean ====
section
/-! DEFINITION. The statements for the provers, with the words they are made of. A statement of several rules is the conjunction of
propositions named after them, each of which stands before it with the rules that it formalises. -/

namespace Sys2Proof.Machine

/-- What every step keeps of the form of the state: memory is canonical, and the keys of the tables rise. It rules out no state that a run
reaches: it holds at reset, and every step keeps it. -/
def State.inv (s : State) : Prop :=
  Memory.wf s.mem = true ∧ Tbl.wf s.ctxs = true ∧ Tbl.wf s.lines = true ∧ Tbl.wf s.launches = true ∧ Tbl.wf s.counts = true ∧
    ∀ cl, Tbl.wf (s.clusterAt cl).companies = true


/-- The w-bit pattern of a 64-bit source (SrcInt(·, w, 0) of R302). -/
def pattern (w : Nat) (x : Word) : Nat := x.toNat % 2 ^ w

/-- Two-source integer instructions of R311, R312 and R313: what TY = 0 means (R301), and the value v of two 64-bit sources at a width and
a signedness. -/
def twoSource : List ((Fields → Instr) × (Nat × Bool) × (Nat → Bool → Word → Word → Int)) := [
  (.add, (64, true), fun w sg a b => wordInt w sg a + wordInt w sg b),
  (.sub, (64, true), fun w sg a b => wordInt w sg a - wordInt w sg b),
  (.mul, (64, true), fun w sg a b => wordInt w sg a * wordInt w sg b),
  (.mulh, (64, true), fun w sg a b => wordInt w sg a * wordInt w sg b / 2 ^ w),
  (.mulhn, (64, false), fun w sg a b => wordInt w sg a * wordInt w sg b / 2 ^ w),
  (.div, (64, true), fun w sg a b => if wordInt w sg b = 0 then -1 else (wordInt w sg a).tdiv (wordInt w sg b)),
  (.divn, (64, false), fun w sg a b => if wordInt w sg b = 0 then -1 else (wordInt w sg a).tdiv (wordInt w sg b)),
  (.rem, (64, true), fun w sg a b =>
    if wordInt w sg b = 0 then wordInt w sg a else wordInt w sg a - wordInt w sg b * (wordInt w sg a).tdiv (wordInt w sg b)),
  (.remn, (64, false), fun w sg a b =>
    if wordInt w sg b = 0 then wordInt w sg a else wordInt w sg a - wordInt w sg b * (wordInt w sg a).tdiv (wordInt w sg b)),
  (.min, (64, true), fun w sg a b => min (wordInt w sg a) (wordInt w sg b)),
  (.max, (64, true), fun w sg a b => max (wordInt w sg a) (wordInt w sg b)),
  (.minn, (64, false), fun w sg a b => min (wordInt w sg a) (wordInt w sg b)),
  (.maxn, (64, false), fun w sg a b => max (wordInt w sg a) (wordInt w sg b)),
  (.adds, (64, true), fun w sg a b => clampInt w sg (wordInt w sg a + wordInt w sg b)),
  (.subs, (64, true), fun w sg a b => clampInt w sg (wordInt w sg a - wordInt w sg b)),
  (.and, (64, true), fun w _ a b => (pattern w a &&& pattern w b : Nat)),
  (.or, (64, true), fun w _ a b => (pattern w a ||| pattern w b : Nat)),
  (.xor, (64, true), fun w _ a b => (pattern w a ^^^ pattern w b : Nat)),
  (.andn, (64, true), fun w _ a b => (pattern w a &&& (2 ^ w - 1 - pattern w b) : Nat)),
  (.orn, (64, true), fun w _ a b => (pattern w a ||| (2 ^ w - 1 - pattern w b) : Nat)),
  (.shl, (64, true), fun w _ a b => if w ≤ b.toNat then 0 else pattern w a * 2 ^ b.toNat),
  (.shr, (64, true), fun w _ a b => if w ≤ b.toNat then 0 else pattern w a / 2 ^ b.toNat),
  (.sra, (64, true), fun w _ a b => wordInt w true a / 2 ^ min b.toNat (w - 1)),
  (.rol, (64, true), fun w _ a b => (pattern w a * 2 ^ (b.toNat % w) + pattern w a / 2 ^ (w - b.toNat % w) : Nat)),
  (.ror, (64, true), fun w _ a b =>
    (pattern w a / 2 ^ (b.toNat % w) + pattern w a % 2 ^ (b.toNat % w) * 2 ^ (w - b.toNat % w) : Nat))]

/-- One-source integer instructions of R311 and R314, as `twoSource`. -/
def oneSource : List ((Fields → Instr) × (Nat → Bool → Word → Int)) := [
  (.neg, fun w sg a => -wordInt w sg a),
  (.abs, fun w sg a => (wordInt w sg a).natAbs),
  (.popc, fun w _ a => ((List.range w).countP fun i => (pattern w a).testBit i : Nat)),
  (.clz, fun w _ a => (if pattern w a = 0 then w else w - 1 - Nat.log2 (pattern w a) : Nat)),
  (.ctz, fun w _ a => (((List.range w).find? fun i => (pattern w a).testBit i).getD w : Nat)),
  (.brev, fun w _ a => revPieces 1 w (pattern w a)),
  (.bswap, fun w _ a => revPieces 8 (w / 8) (pattern w a))]

/-- Instructions that read field D beside A and B (R303, R311, R315), as `twoSource`; the word of D comes first. -/
def threeSource : List ((Fields → Instr) × (Nat → Bool → Word → Word → Word → Int)) := [
  (.madd, fun w sg d a b => wordInt w sg d + wordInt w sg a * wordInt w sg b),
  (.bfi, fun w _ d a c =>
    let pos := c.toNat % 256
    let len := c.toNat / 256 % 256
    let l := min (pos + len) w - pos
    (if len = 0 ∨ w ≤ pos then pattern w d
     else pattern w d / 2 ^ (pos + l) * 2 ^ (pos + l) + a.toNat % 2 ^ l * 2 ^ pos + pattern w d % 2 ^ pos : Nat)),
  (.sel, fun w _ d a b => ((d &&& a) ||| (~~~d &&& b)).toNat % 2 ^ w)]


/-- Predicate instructions of R322 with two predicate sources. -/
def predTwo : List ((Fields → Instr) × (Word → Word → Word)) := [
  (.pand, fun x y => x &&& y), (.por, fun x y => x ||| y), (.pxor, fun x y => x ^^^ y), (.pandn, fun x y => x &&& ~~~y)]

/-- Instructions of R316 and R319 that write bit 0 of a predicate from two 64-bit sources, at the width and signedness of their type. -/
def predOfWords : List ((Fields → Instr) × (Nat → Bool → Word → Word → Bool)) := [
  (.cmp, fun w sg a b => decide (wordInt w sg a < wordInt w sg b)),
  (.tst, fun w _ a b => pattern w a &&& pattern w b != 0),
  (.rect, fun _ _ a b => inRect (a.setWidth 32) (b.setWidth 16))]


/-- The special registers a task reads beside the clocks, with their values (R283, R284). -/
def taskRegisters (s : State) : List (SReg × Word) := [
  (.gtid, s.now.gtid), (.coord, s.now.core.setWidth 64), (.home, s.now.home.setWidth 64), (.slot, BitVec.ofNat 64 s.now.slot.val),
  (.company, s.now.company.setWidth 64 ||| if s.now.stage then 16 else 0), (.fmt, s.now.fmt.setWidth 64),
  (.xb, (s.coreAt s.now.core).xb.setWidth 64), (.ovl, (s.coreAt s.now.core).ovl.setWidth 64),
  (.rc, s.now.rcCount.setWidth 64 ||| if s.now.know.sat then 0x10000 else 0),
  (.hbint, (s.part (gtidPnum s.now.gtid)).hbint.setWidth 64)]

/-- The special registers that the control context reads beside the clocks, with their values: those of a task are the served task's, or 0
where none is served (R283, R458). -/
def controlRegisters (s : State) : List (SReg × Word) :=
  let c := s.coreAt s.now.core
  let task (f : Ctx → Word) : Word := match c.serving with
    | none => 0
    | some k => f (s.ctx k)
  [(.gtid, task Ctx.gtid), (.coord, s.now.core.setWidth 64), (.home, task fun x => x.home.setWidth 64),
   (.slot, task fun x => BitVec.ofNat 64 x.slot.val), (.company, task fun x => x.company.setWidth 64 ||| if x.stage then 16 else 0),
   (.fmt, task fun x => x.fmt.setWidth 64), (.xb, c.xb.setWidth 64), (.ovl, c.ovl.setWidth 64),
   (.rc, task fun x => x.rcCount.setWidth 64 ||| if x.know.sat then 0x10000 else 0),
   (.hbint, (s.part (s.pnumOf s.now)).hbint.setWidth 64), (.cause, c.cause), (.epc, c.epc), (.tval, c.tval)]

/-- No store that the executing context has ordered before its later accesses is held (R182 to R184). -/
def State.passes (s : State) : Prop := ∀ h ∈ s.held, h.2.key = s.cur → h.2.fence = false

/-- The partition is not recording or replaying the executing context's launch (R502). -/
def State.unlogged (s : State) : Prop := s.now.task = false ∨ s.modeOf (gtidPnum s.now.gtid) (gtidLaunch s.now.gtid) = 0


/-- The address of a memory operand for accesses of n bytes: the base register's low 64 bits plus the scaled offset, modulo 2^64 (R280). -/
def operandAddr (s : State) (base : Fin 16) (off : BitVec 16) (n : Nat) : Nat :=
  (s.now.g[base].setWidth 64 + off.signExtend 64 * BitVec.ofNat 64 n).toNat

/-- A `.l` access of n bytes at an address meets nothing but its bytes: it lies in the data region of the core, no byte it reads is bad, and
no store of its own task is held ahead of it (R59, R101, R478). -/
def State.localClear (s : State) (addr n : Nat) : Prop :=
  (s.coreAt s.now.core).localOk addr n = true ∧
    (∀ b ∈ s.bad, ¬(localPa s.now.core addr / 8 ≤ b / 8 ∧ b / 8 ≤ (localPa s.now.core addr + n - 1) / 8)) ∧
    ∀ h ∈ s.held, h.2.key ≠ s.cur

/-- No store of the executing context is held that a FENCE orders before its later accesses (R101, R183). -/
def State.unfenced (s : State) : Prop := ∀ h ∈ s.held, h.2.key = s.cur → h.2.fence = false

/-- No store of the executing context is held (R101). -/
def State.unheld (s : State) : Prop := ∀ h ∈ s.held, h.2.key ≠ s.cur

/-- The leaf under which an access of the executing context goes on: one that its instruction has been given, or the one that its cluster's
cache holds and that permits it (R40, R42). -/
def State.xlated (s : State) (va : Nat) (write : Bool) (l : Leaf) : Prop :=
  va < 2 ^ 56 ∧
    match s.now.leaves.find? fun m => m.vpn == va / 2 ^ 16 && (!write || m.write) with
    | some m => l = m
    | none => ∃ m : Leaf, tlbFind (s.clusterAt (clusterOf s.now.core)).tlb (s.pnumOf s.now) va = some m ∧
        (write = true → leafW m.entry = true ∧ leafD m.entry = true) ∧ l = { m with vpn := va / 2 ^ 16, write }

/-- A state but for the counters, which no instruction reads (R482). -/
def State.uncounted (s : State) : State := { s with counts := [], countAt := [] }

/-- An instruction that has reached its line faults there: nothing but counters has changed (R456, R482). -/
def State.faultsThere (s : State) (i : Instr) (code : FaultCode) (tval : Word) : Prop :=
  ∃ u : State, u.uncounted = s.uncounted ∧ exec i s = .next (u.faultHere code tval)

/-- The physical address of an access under its leaf (R34). -/
def Leaf.pa (l : Leaf) (va : Nat) : Nat := leafAddr l.entry l.level va

/-- The home of an access under its leaf (R72). -/
def Leaf.homeAt (l : Leaf) (va : Nat) : Nat := homeOf l.entry (l.pa va) va

/-- The executing task performs its access from where it is: the migration decision of the place is made, or the place asks for none
(R75 to R77). -/
def State.stays (s : State) (hint : MigHint) (l : Leaf) (va : Nat) : Prop :=
  1 ≤ s.now.streaked ∨ s.now.task = false ∨ s.now.pinned = true ∨ leafPolicy l.entry = 2 ∨ leafPolicy l.entry = 3 ∨ hint = .stay ∨
    homeDie l.entry (l.pa va) va ≠ cDie s.now.core ∨ l.homeAt va = clusterOf s.now.core

/-- The company whose scratch a base register names: its cluster and number (R62, R337). -/
def State.scratchHome (s : State) (base : Vec) : Option (Nat × Nat) :=
  let core : Coord := base.extractLsb' 96 16
  if !base.getLsbD 125 then (if s.now.task then some (clusterOf s.now.home, s.now.company.toNat) else some (clusterOf s.now.core, 16))
  else if coordValid core && !base.getLsbD 124 && (s.part (s.pnumOf s.now)).pitch.getLsbD (clusterOf core) &&
      (s.company? (clusterOf core) s.now.company.toNat).isSome then some (clusterOf core, s.now.company.toNat)
  else none

/-- The physical address of n bytes of `.s` within a line that a base register and an address name, where the company holds the bank and
nothing diverts or discards what lands there (R61, R337, R338). -/
def State.scratchPa (s : State) (base : Vec) (a n : Nat) : Option Nat :=
  match s.scratchHome base with
  | none => none
  | some (cl, co) =>
    let c := s.clusterAt cl
    if a % 64 + n ≤ 64 && a + n ≤ 2 ^ 21 && (c.divertOf co).isNone && !c.discarded co (a / 2 ^ 16 % 32) then
      (c.physBank co (a / 2 ^ 16 % 32) .scratch).map fun b => bankPa cl b (a % 2 ^ 16)
    else none

/-- The state after a `.l` access whose only other effect is on the executing context; the access is counted (R482). -/
def State.afterLocal (s : State) (h : Hdr) (f : Ctx → Ctx) : State :=
  s.ended ((s.stepped.countCore s.now.core 2 0).setCtx s.cur (f s.now.next)) .base h

/-- Nothing but the executing context and n bytes of memory at an address differs between two states, as programs can see. -/
def State.sameBut (s t : State) (pa n : Nat) : Prop :=
  (∀ a, a < pa ∨ pa + n ≤ a → Mem.byte t.mem a = Mem.byte s.mem a) ∧ (∀ k, k ≠ s.cur → t.ctx k = s.ctx k) ∧
    t.lines = s.lines ∧ t.queues = s.queues ∧ t.cores = s.cores ∧ t.ops = s.ops ∧ t.pkts = s.pkts ∧
    ∀ cl, (t.clusterAt cl).banks = (s.clusterAt cl).banks

/-- Atomics of R346 and R347: what TY = 0 means, and the new value of the old value, the operand and D; none leaves memory as it is. -/
def atomicOps : List ((Fields → Instr) × (Nat × Bool) × (Int → Int → Int → Option Int)) := [
  (.aadd, (64, true), fun old v _ => some (old + v)),
  (.amin, (64, true), fun old v _ => some (min old v)),
  (.amax, (64, true), fun old v _ => some (max old v)),
  (.aminn, (64, false), fun old v _ => some (min old v)),
  (.amaxn, (64, false), fun old v _ => some (max old v)),
  (.aand, (64, true), fun old v _ => some (BitVec.ofInt 64 old &&& BitVec.ofInt 64 v).toNat),
  (.aor, (64, true), fun old v _ => some (BitVec.ofInt 64 old ||| BitVec.ofInt 64 v).toNat),
  (.axor, (64, true), fun old v _ => some (BitVec.ofInt 64 old ^^^ BitVec.ofInt 64 v).toNat),
  (.aswp, (64, true), fun _ v _ => some v),
  (.acas, (64, true), fun old v d => if old = d then some v else none),
  (.afadd, (32, false), fun old v _ =>
    some (roundFloat fp32 .rne false ((decodeFloat fp32 old.toNat).add .rne (decodeFloat fp32 v.toNat)))),
  (.afmax, (32, false), fun old v _ =>
    some (roundFloat fp32 .rne false ((decodeFloat fp32 old.toNat).max (decodeFloat fp32 v.toNat))))]


/-- The address of the 16-aligned part of `.s` that an operand of the executing context names, in its own company's scratch or in
another cluster's, while no store of the context is held (R61, R101, R337, R338). -/
def State.barrierAt (s : State) (base : Fin 16) (off : BitVec 16) : Option Nat :=
  let a := operandAddr s base off 16
  if a % 16 == 0 && s.held.all (fun h => h.2.key != s.cur) && s.now.landed.isNone then s.scratchPa s.now.g[base] a 16
  else none

/-- The frame of an instruction that changes no context, no queue and no core but by its end (R216, R264). -/
def State.endsOnly (s t : State) (h : Hdr) : Prop :=
  t.ctx s.cur = (s.after1 h fun x => x).ctx s.cur ∧ t.queues = s.queues ∧ t.cores = s.cores ∧ ∀ k, k ≠ s.cur → t.ctx k = s.ctx k

/-- An engine queue takes one more operation of the executing context: it has room, and no store of the context is held (R184, R342). -/
def State.engineRoom (s : State) (qsel : Nat) : Prop :=
  s.unheld ∧ (s.engQueue s.now.core qsel).length < engDepth qsel

/-- The operation that the executing context enqueues, with the number of its queue's next operation (R192, R340, R342). -/
def State.newOp (s : State) (qsel : Nat) (body : OpBody) : EngOp :=
  { core := s.now.core, qsel, id := BitVec.ofNat 32 ((s.coreAt s.now.core).opIds.getD qsel 0), key := s.cur, gtid := s.now.gtid,
    pnum := s.pnumOf s.now, cl := clusterOf s.now.home, company := s.now.company.toNat, fmt := s.now.fmt, carried := s.now.carried,
    cnt := s.now.cnt, mark := s.now.mark, home := s.now.home, body, done := 0, flying := 0, dropped := false, refused := false,
    taken := [], result := s.unrouted body, exportTo := none }

/-- The executing context has enqueued an operation and holds its handle in a register; its other registers and predicates, memory, the
queues, the lines and the other contexts are as before (R340, R342). -/
def State.enqueued (s t : State) (r : Fin 16) (qsel : Nat) (body : OpBody) : Prop :=
  t.ops = s.ops.put s.fresh (s.newOp qsel body) ∧
    t.now.g = s.now.g.set r ((s.newOp qsel body).handle.setWidth 256) ∧ t.now.ft = s.now.ft.set r 1 ∧ t.now.p = s.now.p ∧
    t.now.pc = s.now.pc + 1 ∧ t.now.qregs = s.now.qregs ∧ t.cur = s.cur ∧ t.mem = s.mem ∧ t.lines = s.lines ∧ t.queues = s.queues ∧
    ∀ k, k ≠ s.cur → t.ctx k = s.ctx k


/-- A register of the executing context is bound as the consumer end of a queue, no TLDAQ holds the queue, and no fenced store of the context is
held (R142, R183, R409). -/
def State.consumes (s : State) (r : Fin 16) (n : Nat) (q : Queue) : Prop :=
  s.now.qregs[r].bound = some (n, false) ∧ s.queue? n = some q ∧ s.unfenced ∧ ∀ e ∈ s.ops, ∀ k d, e.2.body ≠ .tldaq k n d

/-- A register of the executing context is bound as the producer end of a queue that is not fenced; no CPYQ holds the queue, and no store of
the context is held (R142, R163, R184, R373). -/
def State.produces (s : State) (r : Fin 16) (n : Nat) (q : Queue) : Prop :=
  s.now.qregs[r].bound = some (n, true) ∧ s.queue? n = some q ∧ s.now.qregs[r].fenced = none ∧
    (∀ e ∈ s.ops, ∀ c a x l k g, e.2.body ≠ .toQueue c a x l k n g) ∧ s.unheld

/-- The executing context keeps its general registers and predicates and is at its next PC; memory, the lines, every queue but one, and the
other contexts are as before. -/
def State.queueFrame (s t : State) (n : Nat) : Prop :=
  t.cur = s.cur ∧ t.now.g = s.now.g ∧ t.now.p = s.now.p ∧ t.now.pc = s.now.pc + 1 ∧ t.mem = s.mem ∧ t.lines = s.lines ∧
    (∀ m, m ≠ n → t.queue? m = s.queue? m) ∧ ∀ k, k ≠ s.cur → t.ctx k = s.ctx k

/-- A queue from whose head an entry has been taken; its credit is on the way back (R149, R150). -/
def Queue.after1 (q : Queue) (rest : List Entry) : Queue :=
  { q with entries := rest, inRing := q.inRing - 1, returning := q.returning + 1, taken := q.taken + 1, carrier := .empty,
           knows := q.knows.drop 1 }

/-- A queue to which the executing context has pushed an entry; it has spent a credit (R149, R150, R201). -/
def Queue.with1 (q : Queue) (s : State) (v : Vec) (kind : Fin 8) : Queue :=
  { q with transit := q.transit ++ [{ payload := q.fit v, kind, fmark := false, tag := if q.tagged then s.pushTag s.now else 0 }],
           credits := q.credits - 1, pushed := q.pushed + 1,
           knows := q.knows ++ [.ofCarried (if s.now.task then some s.now.carried else none)],
           carrier := if s.now.task then q.carrier.merge s.now.carried else q.carrier }


/-- The executing context's access of 16 bytes at an address has its translation, and the home of its line has the line or does not allocate
it: the task goes nowhere for it, nothing is held or on a detour, no race is found, and no write-block stands (R72, R77, R85, R101, R204). -/
def State.cellReady (s : State) (h : How) (sync : Bool) (addr : Nat) (l : Leaf) : Prop :=
  let line := l.pa addr / 64
  addr % 16 = 0 ∧ s.xlated addr true l ∧ noHome l.entry = false ∧ leafWb l.entry = false ∧ s.stays h.mig l addr ∧
    (s.now.arrived = true ∨ s.detours.contains s.cur = false) ∧ s.now.probed = none ∧ s.unheld ∧ s.inv ∧ s.unlogged ∧
    ((∃ ln, s.lines.look line = some ln ∧ ln.poison = false ∧ (s.now.task = false ∨ leafPolicy l.entry = 3 ∨
        raceCheck ln.stamp (gtidLaunch s.now.gtid) (gtidTag s.now.gtid) s.now.know
          { mask := byteMask (l.pa addr % 64) 16, write := h.write, sync } = none)) ∨
      (s.lines.look line = none ∧ s.allocates l.entry (l.homeAt addr) false = false))

/-- The observation of the future that a register holds: what its operation knew is merged (R192, R201, R339). -/
def State.observed (s : State) (r : Fin 16) : State :=
  match s.now.fut.look r.val with
  | none => s
  | some k => s.updCtx s.cur fun x => x.merge k

/-- The executing context's observation of a future in a register waits for nothing (R183, R184). -/
def State.observes (s : State) (r : Fin 16) : Prop := s.now.fut.look r.val = none ∨ s.unfenced

/-- The 16 bytes of a cell as its home serves them (R85, R365). -/
def State.cellBytes (s : State) (addr : Nat) (l : Leaf) : List Byte :=
  s.homeBytes (l.homeAt addr) (l.pa addr) 16

/-- The instruction has ended, and the executing context's registers and predicates, every queue, and the other contexts are as before. -/
def State.cellFrame (s t : State) : Prop :=
  t.cur = s.cur ∧ t.now.g = s.now.g ∧ t.now.ft = s.now.ft ∧ t.now.p = s.now.p ∧ t.now.pc = s.now.pc + 1 ∧ t.now.status = .idle ∧
    t.queues = s.queues ∧ ∀ k, k ≠ s.cur → t.ctx k = s.ctx k

/-- A cell in which an operation has been applied, and the start that its continuation is sent (R365, R366). -/
def State.cellUpdated (s t : State) (addr : Nat) (l : Leaf) (c : Cell × Bool) : Prop :=
  t.cellBytes addr l = c.1.bytes ∧ s.cellFrame t ∧
    if c.2 then ∃ k, t.pkts = s.pkts.put s.fresh (.start (indexCore c.1.cont) c.1.cont (some k)) else t.pkts = s.pkts


/-- What SPAWN and FWHEN ask for is in order, and the task's group holds a free slot on the core: the entry exists, the registers to copy
hold values, the core is in the pitch, and no store of the task is held (R219, R220, R369). -/
def State.spawnReady (s : State) (w : Word) (core : Coord) (slot : Nat) (im : Image) (co : Company) : Prop :=
  let first := (w.extractLsb' 22 4).toNat
  let count := (w.extractLsb' 26 5).toNat
  w.extractLsb' 32 32 = 0 ∧ count ≤ 16 ∧ first + count ≤ 16 ∧ s.images.look s.now.img.toNat = some im ∧
    (w.extractLsb' 16 6).toNat < im.entries.length ∧ core = (if w.extractLsb' 0 16 = (0xFFFF : BitVec 16) then s.now.core else w.extractLsb' 0 16) ∧
    coordValid core = true ∧ (s.part (s.pnumOf s.now)).pitch.getLsbD (clusterOf core) = true ∧
    s.groupCompany? s.now (clusterOf core) = some co ∧
    (∀ r : Fin 16, first ≤ r.val → r.val < first + count → s.now.ft[r] = 0 ∧ s.now.fut.look r.val = none) ∧
    s.unheld ∧ s.myReq (clusterOf core) (.slot core) = none ∧
    s.heldSlot (clusterOf core) s.now.company.toNat core = some slot

/-- The task that SPAWN or FWHEN makes: its identity, its place, its first PC and its registers (R212, R213, R219). -/
def State.spawned (s : State) (w : Word) (core : Coord) (slot : Nat) (im : Image) (co : Company) (x : Ctx) : Prop :=
  x.task = true ∧ x.core = core ∧ x.home = core ∧ x.slot = Fin.ofNat 16 slot ∧ x.img = s.now.img ∧ x.company = s.now.company ∧
    x.stage = co.stage ∧ x.pinned = false ∧ x.pc = BitVec.ofNat 32 (im.base + im.entries.getD (w.extractLsb' 16 6).toNat 0) ∧
    gtidPnum x.gtid = gtidPnum s.now.gtid ∧ gtidLaunch x.gtid = gtidLaunch s.now.gtid ∧
    (∀ r : Fin 16, x.g[r] = if (w.extractLsb' 22 4).toNat ≤ r.val ∧ r.val < (w.extractLsb' 22 4).toNat + (w.extractLsb' 26 5).toNat
      then s.now.g[r] else 0) ∧
    (∀ r : Fin 16, x.ft[r] = 0) ∧ (∀ r : Fin 7, x.p[r] = 0) ∧ x.fmt = 0


/-- The operator instructions whose command the row itself gives, and OPGET. -/
def operatorRows : List (Fields → Instr) := [.opget, .opctlStop, .opctlStatus, .opctlReset, .opctlSkiphead]

/-- A selector of a remote target names a valid core, and on this package one of the pitch (R19, R337). -/
def State.remoteOk (s : State) (sel : BitVec 32) : Bool :=
  !sel.getLsbD 29 || (coordValid (sel.extractLsb' 0 16) &&
    (sel.getLsbD 28 || (s.part (s.pnumOf s.now)).pitch.getLsbD (clusterOf (sel.extractLsb' 0 16))))


/-- A vector source that is a register, or an immediate for every element of a format (R379). -/
def State.vecOperand (s : State) (fmt : Nat) (o : Operand) : Option Vec :=
  match o with
  | .g r _ => some s.now.g[r]
  | .i v => some (packWith (fmtWidth fmt) (fmtCount fmt) fun _ => immElem fmt s.now.sat v)
  | _ => none

/-- The 64-bit pattern that an immediate gives an instruction without an element format, or a register (R379). -/
def State.rawOperand (s : State) (o : Operand) : Option Vec :=
  match o with
  | .g r _ => some s.now.g[r]
  | .i v => some (packWith 64 4 fun _ => (v.signExtend 64).toNat)
  | _ => none

/-- The state after a vector instruction whose only other effect is on the executing context; the instruction is counted (R482). -/
def State.afterVec (s : State) (h : Hdr) (f : Ctx → Ctx) : State := s.ended (s.stepped.setCtx s.cur (f s.now.next)) .v h

/-- A register whose elements in a format are given by their index (R104). -/
def elems (fmt : Nat) (e : Nat → Nat) : Vec := packWith (fmtWidth fmt) (fmtCount fmt) e

/-- Elementwise instructions of R382 and R384: the formats they accept, and the value of an element of D, A and B. -/
def elementwise : List ((Fields → Instr) × List Nat × (Rnd → Num → Num → Num → Num)) := [
  (.vadd, [0, 1, 2, 6, 7, 8], fun r _ a b => a.add r b), (.vsub, [0, 1, 2, 6, 7, 8], fun r _ a b => a.add r b.neg),
  (.vmul, [0, 1, 2, 6, 7, 8], fun _ _ a b => a.mul b), (.vfma, [0, 1, 2, 6, 7, 8], fun r d a b => d.add r (a.mul b)),
  (.vmin, [0, 1, 2, 6, 7, 8], fun _ _ a b => a.min b), (.vmax, [0, 1, 2, 6, 7, 8], fun _ _ a b => a.max b),
  (.vdiv, [0], fun _ _ a b => a.div b)]

/-- Elementwise instructions with one source, as `elementwise`. -/
def elementwise1 : List ((Fields → Instr) × List Nat × (Num → Num)) := [
  (.vabs, [0, 1, 2, 6, 7, 8], Num.abs), (.vneg, [0, 1, 2, 6, 7, 8], Num.neg), (.vsqrt, [0], Num.sqrt), (.vexp2, [0], Num.exp2),
  (.vlog2, [0], Num.log2)]

/-- Shifts of R388: the width, the pattern and the count give the element. -/
def elementShifts : List ((Fields → Instr) × (Nat → Nat → Nat → Int)) := [
  (.vshl, fun w u c => if w ≤ c then 0 else u * 2 ^ c), (.vshr, fun w u c => if w ≤ c then 0 else u / 2 ^ c),
  (.vsra, fun w u c => signedOf w u / 2 ^ min c (w - 1))]

/-- Instructions on all 256 bits (R387). -/
def wholeOps : List ((Fields → Instr) × (Vec → Vec → Vec)) := [
  (.vand, fun a b => a &&& b), (.vor, fun a b => a ||| b), (.vxor, fun a b => a ^^^ b)]

/-- Vector instructions with the formats that they accept (R378, R382 to R400). -/
def formatsAccepted : List ((Fields → Instr) × List Nat) :=
  (elementwise.map fun e => (e.1, e.2.1)) ++ (elementwise1.map fun e => (e.1, e.2.1)) ++ (elementShifts.map fun e => (e.1, [6, 7, 8])) ++ [
    (.vcmp, [0, 1, 2, 3, 4, 6, 7, 8]), (.vcvt, [0, 1, 2, 3, 4, 6, 7, 8]), (.vsel, List.range 12), (.vqnt, [5, 10]), (.vdq, [5, 9, 10, 11]), (.vpack, [6, 7, 8]),
    (.vunpk, [6, 7, 11]), (.vsplat, List.range 12), (.vperm, List.range 9), (.vext, List.range 12), (.vins, List.range 12),
    (.vred, [0, 1, 2, 6, 7, 8]), (.vscan, [0, 1, 2, 6, 7, 8]), (.vamax, [0, 1, 2, 3, 4, 6, 7, 8]), (.vdot, [1, 2, 3, 4, 6])]


/-- Bit instructions of R417 on the patterns of two sources at a width. -/
def bitOps : List ((Fields → Instr) × (Nat → Nat → Nat → Nat)) := [
  (.clmul, fun w a b => clProduct w a b % 2 ^ w), (.clmulh, fun w a b => clProduct w a b / 2 ^ w),
  (.bdep, fun w a b => ((List.range w).filter fun p => b.testBit p && a.testBit (((List.range p).filter b.testBit).length)).foldl
    (fun v p => v + 2 ^ p) 0),
  (.bext, fun w a b => ((List.range w).filter fun p => b.testBit p && a.testBit p).foldl
    (fun v p => v + 2 ^ ((List.range p).filter b.testBit).length) 0)]

/-- The instructions of the T extension, but for TSTAT, with their opcodes (R401 to R416). -/
def tileRows : List ((Fields → Instr) × Nat) := [
  (.tldb, 0x500), (.tlda, 0x501), (.tldaq, 0x502), (.tmma, 0x503), (.tzero, 0x504), (.tget, 0x505), (.tstor, 0x506)]

/-- The instructions of the X extension with their opcodes (R417). -/
def bitRows : List ((Fields → Instr) × Nat) := [(.clmul, 0x600), (.clmulh, 0x601), (.bdep, 0x602), (.bext, 0x603)]

/-- A tile instruction of the executing context may go on: it is on a tile core, whose unit is unbound or bound by it (R287, R402). -/
def State.tileFree (s : State) : Prop :=
  isTile s.now.core = true ∧ ((s.coreAt s.now.core).tile.bound = none ∨ (s.coreAt s.now.core).tile.bound = some s.cur)

/-- The executing context has enqueued a tile command: the unit is bound by it and it is pinned. An unbound unit starts with its row buffer
invalid and its accumulators clear; a unit that it has bound keeps them (R211, R402). -/
def State.tileEnqueued (s t : State) (r : Fin 16) (body : OpBody) : Prop :=
  s.enqueued t r 4 body ∧ t.now.pinned = true ∧ (t.coreAt s.now.core).tile =
    (let u := (s.coreAt s.now.core).tile
     if u.bound = none then { u with bound := some s.cur, row := .invalid, acc0 := [], acc1 := [] } else u)


/-- A SLEEP of a context is in flight on a core. -/
def Ctx.sleepsOn (x : Ctx) (core : Coord) : Prop := x.core = core ∧ ∃ start due ends, x.status = .flight (.sleep start due ends)

/-- A context has been trapped: it keeps its registers and predicates, and joins the traps of its core behind those raised before; memory and
the other contexts are as before (R456). -/
def State.trappedAt (s t : State) (k : Nat) (tr : TrapRec) : Prop :=
  (t.ctx k).status = .trapped tr false ∧ (t.ctx k).g = (s.ctx k).g ∧ (t.ctx k).p = (s.ctx k).p ∧ (t.ctx k).pc = (s.ctx k).pc ∧
    (t.coreAt (s.ctx k).core).traps = (s.coreAt (s.ctx k).core).traps ++ [k] ∧ t.mem = s.mem ∧ ∀ j, j ≠ k → t.ctx j = s.ctx j


/-- A queue has become another; the other queues, the contexts, the lines and memory are as before. -/
def State.queueNow (s t : State) (n : Nat) (q : Queue) : Prop :=
  t.queue? n = some q ∧ (∀ m, m ≠ n → t.queue? m = s.queue? m) ∧ t.ctxs = s.ctxs ∧ t.lines = s.lines ∧ t.mem = s.mem

/-- A queue has become another, with an entry stored at a place of its ring, as its slot image (R147); nothing else in memory has changed. -/
def State.queueStored (s t : State) (n : Nat) (q : Queue) (i : Nat) (e : Entry) : Prop :=
  t.queue? n = some q ∧ (∀ m, m ≠ n → t.queue? m = s.queue? m) ∧ t.ctxs = s.ctxs ∧ t.lines = s.lines ∧
    (s.slotPa q i = none → t.mem = s.mem) ∧
    ∀ pa, s.slotPa q i = some pa → s.inv → (∀ cl company lbank off, q.place.ring? = some (cl, company, lbank, off) → off + q.ringBytes ≤ 65536) →
      (∀ j < (q.slotImage e).length, Mem.byte t.mem (pa + j) = (q.slotImage e).getD j 0) ∧
        ∀ a, a < pa ∨ pa + (q.slotImage e).length ≤ a → Mem.byte t.mem a = Mem.byte s.mem a

/-- A range of memory holds bytes, and every other byte is as before. -/
def State.wroteRange (s t : State) (base : Nat) (d : List Byte) : Prop :=
  (∀ i < d.length, Mem.byte t.mem (base + i) = d.getD i 0) ∧ ∀ a, a < base ∨ base + d.length ≤ a → Mem.byte t.mem a = Mem.byte s.mem a


/-- The present cycle is an action slot of an operator, and it has not used it (R424). -/
def State.mayAct (s : State) (o : Opr) : Prop := s.oprTurn o = true ∧ o.actedAt ≠ s.cycle + 1

/-- An operator that runs in an action slot of its own, and the queue of an input with its oldest entry delivered into the ring and behind no
join (R194, R418, R423). -/
def State.hasInput (s : State) (k : Nat) (o : Opr) (port n : Nat) (q : Queue) (e : Entry) (rest : List Entry) : Prop :=
  s.oprs.look k = some o ∧ o.state = .running ∧ s.mayAct o ∧ o.ins.look port = some n ∧ s.queue? n = some q ∧ q.marker = none ∧
    q.inRing ≠ 0 ∧ q.entries = e :: rest ∧ e.fmark = false ∧ s.behindJoin n q = false

/-- An output port has credits, and its queue is none of the operator's inputs. -/
def State.hasOutput (s : State) (o : Opr) (port m : Nat) (r : Queue) (credits : Nat) : Prop :=
  o.outs.look port = some m ∧ s.queue? m = some r ∧ r.discards = false ∧ credits ≤ r.credits ∧ ∀ p, o.ins.look p ≠ some m

/-- The head entry of a queue has been taken; its credit is on the way back. -/
def State.tookFrom (t : State) (n : Nat) (q : Queue) (rest : List Entry) : Prop :=
  t.queue? n = some
    { q with entries := rest, inRing := q.inRing - 1, returning := q.returning + 1, taken := q.taken + 1, carrier := .empty,
             knows := q.knows.drop 1 }

/-- Entries have been pushed to a queue, a credit spent for each; a queue that is not tagged keeps no tag. -/
def State.pushedTo (t : State) (m : Nat) (r : Queue) (l : List Entry) : Prop :=
  ∃ r', t.queue? m = some r' ∧ r'.credits = r.credits - l.length ∧ r'.entries = r.entries ∧
    r'.transit = r.transit ++ l.map fun e => { e with payload := r.fit e.payload, tag := if r.tagged then e.tag else 0 }

/-- An entry has moved from an input to an output as another. -/
def State.movedEntry (s t : State) (n : Nat) (q : Queue) (rest : List Entry) (m : Nat) (r : Queue) (l : List Entry) : Prop :=
  t.tookFrom n q rest ∧ t.pushedTo m r l ∧ t.mem = s.mem ∧ t.ctxs = s.ctxs ∧ ∀ i, i ≠ n → i ≠ m → t.queue? i = s.queue? i

/-- An operator is stopped by a cue that it has no rule for, its entries still at the heads of its inputs (R426). -/
def State.cueFaulted (s t : State) (k : Nat) : Prop :=
  ∃ o, t.oprs.look k = some o ∧ o.state = .faulted ∧ o.code = FaultCode.qcue.num ∧ t.queues = s.queues

/-- The payload that ZIP makes of two entries of one kind: both data side by side, or the cue's own (R431). -/
def zipped (a b : Entry) : Vec :=
  if a.kind = 0 then BitVec.ofNat 256 (a.payload.toNat % 2 ^ 64 + b.payload.toNat % 2 ^ 64 * 2 ^ 64) else a.payload

/-- The elements of a payload that fit both formats of a CONVERT, converted and packed (R434). -/
def Opr.packed (o : Opr) (v : Vec) : Vec :=
  packWith (fmtWidth (o.field 8 4 4)) (min (fmtCount (o.field 8 0 4)) (fmtCount (o.field 8 4 4))) fun i =>
    convertNum (o.field 8 0 4) (o.field 8 4 4) (rndOf (BitVec.ofNat 2 (o.field 8 8 2))) (o.field 8 10 1 == 1) (elem (o.field 8 0 4) v i)

/-- The loop indices of a SEQ, all 0 before its first item (R428). -/
def Opr.indices (o : Opr) : List Nat := if o.idx = [] then List.replicate o.dims 0 else o.idx

/-- The address at the loop indices of a SEQ: its base and each index times its step (R428). -/
def Opr.seqValue (o : Opr) : Word :=
  BitVec.ofInt 64 ((o.indices.zipIdx.map fun (x : Nat × Nat) => (x.1 : Int) * o.seqStep x.2).foldl (fun (a b : Int) => a + b) (o.preg 9).toNat)

/-- The events by which operators act, by kind. -/
def actionOf (kind : OprKind) (k : Nat) : List Instr :=
  match kind with
  | .seq => [.seqAction k]
  | .ref => [.refAction k]
  | .put => [.putAction k]
  | .dist => [.distAction k .take, .distAction k .steal, .distFrameResize k]
  | .collect => [.collectAction k]
  | .fork => [.forkAction k]
  | .join => [.joinAction k]
  | .zip => [.zipAction k]
  | .reduce => [.reduceAction k]
  | .filter => [.filterAction k]
  | .convert => [.convertAction k]
  | .bridge => [.bridgeSend k, .bridgeReceive k]


/-- A doorbell that names a queue of an active partition, whose descriptor the command processor reads (R440, R441). -/
def State.doorbellRead (s : State) (v : Nat) (value : Word) (p : Nat) (d : List Nat) (u : State) : Prop :=
  let qid := value.toNat % 2 ^ 12
  (s.vf v).flr = false ∧ s.restarting = false ∧ s.vfPart v = some p ∧ qid < (s.vf v).qtlen ∧ s.cpWords p (s.descVa v qid) 4 = (some d, u) ∧ u.vfs = s.vfs ∧
    u.hwslots = s.hwslots ∧ u.waitingQs = s.waitingQs

/-- A doorbell that the command processor takes: the queue is enabled, and not torn down (R441, R452). -/
def State.doorbellOk (s : State) (v : Nat) (value : Word) (p : Nat) (d : List Nat) (u : State) : Prop :=
  s.doorbellRead v value p d u ∧ d.getD 0 0 / 2 ^ 63 % 2 = 1 ∧ (u.rungQueue v (value.toNat % 2 ^ 12) d).state.isDown = false


/-- XPCMD shows a command that has ended with a status (R453). -/
def State.cmdEnded (t : State) (cp : Nat) (status : Nat) : Prop :=
  (t.csr cp 0x7C3).getLsbD 20 = true ∧ (t.csr cp 0x7C3).getLsbD 16 = false ∧ ((t.csr cp 0x7C3).extractLsb' 17 3).toNat = status

/-- A stream register after a write (R480, R487, R493, R502). -/
def streamWritten (i : Nat) (old v : Word) : Word :=
  let into (m : Word) : Word := (old &&& ~~~m) ||| (v &&& m)
  if i ≤ 5 then into 0x000FFFFFFFFFFFDF
  else if i = 6 then (if 1000000 < (into 0xFFFFF).toNat then 1000000 else into 0xFFFFF)
  else if i = 7 then
    (if 16 < ((into 0x01FFFFFFFFFFFFC0).extractLsb' 52 5).toNat then (into 0x01FFFFFFFFFFFFC0 &&& 0x000FFFFFFFFFFFC0) ||| 0x0100000000000000
     else into 0x01FFFFFFFFFFFFC0)
  else if i = 8 then into 7 &&& ~~~(v &&& 0x18)
  else into 0x000FFFFFFFFFFFCF

/-- A cluster's counter of soft errors has counted one event, if it had counted none in this cycle (R482). -/
def State.tallies (s t : State) (cl ev : Nat) : Prop :=
  let k := (1536 + cl) * 256 + 15 * 16 + ev
  t.counts.getD k 0 = s.counts.getD k 0 + if s.countAt.getD k 0 = s.cycle + 1 then 0 else 1


/-- A context issues a word: its core's rotation and counter, and what the context knows of fetched words, move on (R217, R268, R482). -/
def State.issued (s : State) (k : Nat) (w : InstrWord) : State :=
  let u := (s.updCore (s.ctx k).core fun c => { c with last := (s.ctx k).slot, issueAt := s.cycle + 1 }).countCore (s.ctx k).core 0 0
  { u.updCtx k fun x => { x with word := w, fetched := x.fetched.filter fun e => e.1 != x.pc, xb := x.boundary (u.coreAt x.core),
                                 arriving := false, skipBp := false, yielded := false }
    with cur := k }

/-- The step lets a context issue in a state: the agenda names it and its turn has come, or the agenda names nothing, no internal event is
due and its core is the first that can issue. The slots whose turn passes under a yield have passed it, and the core has counted a cycle
with a ready slot (R217, R218, R482). -/
def State.letsIssue (s : State) (k : Nat) (t : State) : Prop :=
  (∃ rest passed, s.agenda = .issue k false :: rest ∧ State.turn { s with agenda := rest } (s.ctx k).core = some (k, passed) ∧
    t = passed.foldl State.passTurn (({ s with agenda := rest } : State).updCore (s.ctx k).core fun c => c.hasReady s.cycle)) ∨
  (s.agenda = [] ∧ s.nextEvent = none ∧ s.nextIssue = some k ∧ ∃ passed, s.turn (s.ctx k).core = some (k, passed) ∧
    t = passed.foldl State.passTurn (s.updCore (s.ctx k).core fun c => c.hasReady s.cycle))

/-- The checks that step 4 makes of an instruction's immediates by way of the state pass (R247, R269, R270, R369, R389). -/
def fieldsPass (i : Instr) (s : State) : Prop :=
  match i with
  | .spawn f => ∀ v, f.a = .i v → noEntry s (v.signExtend 64) = false
  | .fwhen f => ∀ v, f.b = .i v → noEntry s (v.signExtend 64) = false
  | .acq f => ∀ v, f.a = .i v → macrosOnStream s (v.signExtend 64) = false
  | .acqt f => ∀ v, f.a = .i v → macrosOnStream s (v.signExtend 64) = false
  | .vcvt f =>
    let ns := fmtCount s.now.fmtCode
    let nd := fmtCount (tyFmt f.md.ty)
    fmtsCvt.contains s.now.fmtCode = true → 0 ≤ immOf f.b ∧ (immOf f.b).toNat < max ns nd / min ns nd
  | _ => True

/-- The form of memory: a rising list of cells, none of which holds what an unlisted address reads as. -/
def State.memInv (s : State) : Prop := Memory.wf s.mem = true

/-- The form of the tables: the keys of the contexts, lines, launches and counts, and of the companies of every cluster, rise. -/
def State.tableInv (s : State) : Prop :=
  Tbl.wf s.ctxs = true ∧ Tbl.wf s.lines = true ∧ Tbl.wf s.launches = true ∧ Tbl.wf s.counts = true ∧
    ∀ cl, Tbl.wf (s.clusterAt cl).companies = true

end Sys2Proof.Machine

open Sys2Proof Sys2Proof.Machine

/-- R302, R311, R312, R313: a two-source integer instruction whose guard holds writes WriteInt(D, w, sg, v) to the lane that D names, and
nothing else changes but the end of the instruction: the other lanes and registers, the predicates, queues, special registers and every
byte of memory keep their values. -/
def Sys2Proof.Machine.TwoSourceResultAndFrame : Prop :=
  ∀ e ∈ twoSource, ∀ (f : Fields) (s : State) (r : Fin 16) (lane : Fin 64) (a b : Word),
    f.d = .g r lane → s.plainWord f.a = some a → s.plainWord f.b = some b → s.free f →
      exec (e.1 f) s = .next (s.after1 f.h fun x => x.withLane r lane
        (intWord (tyInfo f.md.ty e.2.1).1 (tyInfo f.md.ty e.2.1).2
          (e.2.2 (tyInfo f.md.ty e.2.1).1 (tyInfo f.md.ty e.2.1).2 a b)))

/-- R302, R311, R314: a one-source integer instruction, as TwoSourceResultAndFrame. -/
def Sys2Proof.Machine.OneSourceResultAndFrame : Prop :=
  ∀ e ∈ oneSource, ∀ (f : Fields) (s : State) (r : Fin 16) (lane : Fin 64) (a : Word),
    f.d = .g r lane → s.plainWord f.a = some a → s.free f →
      exec (e.1 f) s = .next (s.after1 f.h fun x => x.withLane r lane
        (intWord (tyInfo f.md.ty (64, true)).1 (tyInfo f.md.ty (64, true)).2
          (e.2 (tyInfo f.md.ty (64, true)).1 (tyInfo f.md.ty (64, true)).2 a)))

/-- R303, R311, R315: MADD, BFI and SEL read the lane that D names at issue, and write their result to it. -/
def Sys2Proof.Machine.ThreeSourceResultAndFrame : Prop :=
  ∀ e ∈ threeSource, ∀ (f : Fields) (s : State) (r : Fin 16) (lane : Fin 64) (a b : Word),
    f.d = .g r lane → s.plainWord f.a = some a → s.plainWord f.b = some b → s.free f →
      exec (e.1 f) s = .next (s.after1 f.h fun x => x.withLane r lane
        (intWord (tyInfo f.md.ty (64, true)).1 (tyInfo f.md.ty (64, true)).2
          (e.2 (tyInfo f.md.ty (64, true)).1 (tyInfo f.md.ty (64, true)).2 (laneOf s.now.g[r] lane.val) a b)))

/-- Integer arithmetic, logic, shifts and bits: result and frame: the propositions above together. -/
def Obligations.IntegerResultsAndFrame : Prop :=
  TwoSourceResultAndFrame ∧ OneSourceResultAndFrame ∧ ThreeSourceResultAndFrame

/-- R315: BFX, SEXT and ZEXT. -/
def Sys2Proof.Machine.FieldExtractAndExtend : Prop :=
  ∀ (f : Fields) (s : State) (r : Fin 16) (lane : Fin 64) (a b : Word),
    f.d = .g r lane → s.plainWord f.a = some a → s.plainWord f.b = some b → s.free f →
      (let w := (tyInfo f.md.ty (64, true)).1
       let sg := (tyInfo f.md.ty (64, true)).2
       let pos := b.toNat % 256
       let len := b.toNat / 256 % 256
       let l := min (pos + len) w - pos
       exec (.bfx f) s = .next (s.after1 f.h fun x => x.withLane r lane
         (intWord w sg (if len = 0 ∨ w ≤ pos then 0
           else if sg then signedOf l (pattern w a / 2 ^ pos % 2 ^ l) else (pattern w a / 2 ^ pos % 2 ^ l : Nat))))) ∧
      exec (.sext f) s = .next (s.after1 f.h fun x => x.withLane r lane
        (intWord 64 true (if b.toNat = 0 then 0 else if 64 ≤ b.toNat then a.toNat else wordInt b.toNat true a))) ∧
      exec (.zext f) s = .next (s.after1 f.h fun x => x.withLane r lane
        (intWord 64 true (if b.toNat = 0 then 0 else if 64 ≤ b.toNat then a.toNat else (a.toNat % 2 ^ b.toNat : Nat))))

/-- R309, R310: MOV moves 256 bits when TY = 0 and an integer otherwise; MOVI writes its sign-extended immediate; MOVH replaces the upper 48
bits of a lane and keeps its low 16. -/
def Sys2Proof.Machine.MovesResultAndFrame : Prop :=
  ∀ (f : Fields) (s : State) (r : Fin 16) (lane : Fin 64), f.d = .g r lane → s.free f →
    (∀ v : Vec, s.plainVec f.a = some v → f.md.ty = .none → exec (.mov f) s = .next (s.after1 f.h fun x => x.setG r v)) ∧
    (∀ a : Word, s.plainWord f.a = some a → f.md.ty ≠ .none →
      exec (.mov f) s = .next (s.after1 f.h fun x => x.withLane r lane
        (intWord (tyInfo f.md.ty (64, true)).1 (tyInfo f.md.ty (64, true)).2
          (wordInt (tyInfo f.md.ty (64, true)).1 (tyInfo f.md.ty (64, true)).2 a)))) ∧
    (∀ v : BitVec 48, f.a = .wide v →
      exec (.movi f) s = .next (s.after1 f.h fun x => x.withLane r lane (intWord 64 true v.toInt)) ∧
      exec (.movh f) s = .next (s.after1 f.h fun x => x.withLane r lane (v ++ (laneOf s.now.g[r] lane.val).extractLsb' 0 16)))

/-- Field extraction, extension and moves: result and frame: the propositions above together. -/
def Obligations.MovesAndFields : Prop :=
  FieldExtractAndExtend ∧ MovesResultAndFrame

/-- R282: a P operand names p0 to p7: the kind's code is followed by an index of which only 0 to 7 is accepted. A write to p7 is discarded, and p7
reads as all ones; the other predicates hold what was written to them. -/
def Obligations.PredicateSevenReadsAllOnes : Prop :=
  (∀ index : BitVec 5, operandOfRaw (6#3 ++ index ++ 0#16) = if h : index.toNat < 8 then some (.p ⟨index.toNat, h⟩) else none) ∧
  (∀ (x : Ctx) (v : Word), x.pred 7 = 0xFFFFFFFFFFFFFFFF ∧ x.setPred 7 v = x ∧ (x.setPred 7 v).pred 7 = 0xFFFFFFFFFFFFFFFF) ∧
  ∀ (x : Ctx) (r q : Fin 8) (v : Word), r ≠ 7 → (x.setPred r v).pred q = if q = r then v else x.pred q

/-- R316, R319: CMP, TST and RECT write bit 0 of D's predicate and clear its other bits, and change nothing else. -/
def Sys2Proof.Machine.ComparisonsWriteBitZero : Prop :=
  ∀ e ∈ predOfWords, ∀ (f : Fields) (s : State) (r : Fin 8) (a b : Word),
    f.d = .p r → s.plainWord f.a = some a → s.plainWord f.b = some b → s.free f →
      exec (e.1 f) s = .next (s.after1 f.h fun x => x.setPred r
        (if e.2 (tyInfo f.md.ty (64, true)).1 (tyInfo f.md.ty (64, true)).2 a b then 1 else 0))

/-- R322: the predicate instructions: p7 reads as all ones, and a write to it is discarded, as PredicateSevenReadsAllOnes states. -/
def Sys2Proof.Machine.PredicateInstructions : Prop :=
  ∀ (f : Fields) (s : State), s.free f →
    (∀ e ∈ predTwo, ∀ r p q : Fin 8, f.d = .p r → f.a = .p p → f.b = .p q →
      exec (e.1 f) s = .next (s.after1 f.h fun x => x.setPred r (e.2 (x.pred p) (x.pred q)))) ∧
    (∀ r p : Fin 8, f.d = .p r → f.a = .p p →
      exec (.pmov f) s = .next (s.after1 f.h fun x => x.setPred r (x.pred p)) ∧
      ∀ b : Word, s.plainWord f.b = some b →
        exec (.pany f) s = .next (s.after1 f.h fun x => x.setPred r
          (if (x.pred p).toNat % 2 ^ min b.toNat 64 = 0 then 0 else 1)) ∧
        exec (.pall f) s = .next (s.after1 f.h fun x => x.setPred r
          (if (x.pred p).toNat % 2 ^ min b.toNat 64 = 2 ^ min b.toNat 64 - 1 then 1 else 0))) ∧
    (∀ (r : Fin 8) (a : Word), f.d = .p r → s.plainWord f.a = some a →
      exec (.pfromg f) s = .next (s.after1 f.h fun x => x.setPred r a)) ∧
    (∀ (r : Fin 16) (lane : Fin 64) (p : Fin 8), f.d = .g r lane → f.a = .p p →
      exec (.ptog f) s = .next (s.after1 f.h fun x => x.withLane r lane (x.pred p)) ∧
      exec (.pcnt f) s = .next (s.after1 f.h fun x => x.withLane r lane
        (intWord 64 false ((List.range 64).countP fun i => (x.pred p).toNat.testBit i))))

/-- Comparisons and predicate instructions: result and frame: the propositions above together. -/
def Obligations.ComparisonsAndPredicates : Prop :=
  ComparisonsWriteBitZero ∧ PredicateInstructions

/-- R318, R320: LEA adds the scaled offset to its base modulo 2^64 whatever the space; CDIST gives the mesh hops between two valid
coordinates, bit 16 where their dies differ, and all ones where either is invalid. -/
def Sys2Proof.Machine.AddressesAndDistances : Prop :=
  ∀ (f : Fields) (s : State) (r : Fin 16) (lane : Fin 64), f.d = .g r lane → s.free f →
    (∀ (b : Fin 16) (spc : Bool) (off : BitVec 16), f.a = .m b spc off →
      exec (.lea f) s = .next (s.after1 f.h fun x => x.withLane r lane
        (x.g[b].setWidth 64 +
          off.signExtend 64 * BitVec.ofNat 64 (if f.md.ty = .none then 1 else (tyInfo f.md.ty (64, true)).1 / 8)))) ∧
    (∀ a b : Word, s.plainWord f.a = some a → s.plainWord f.b = some b →
      exec (.cdist f) s = .next (s.after1 f.h fun x => x.withLane r lane
        (if coordValid (a.setWidth 16) && coordValid (b.setWidth 16) then
          BitVec.ofNat 64 (hops (a.setWidth 16) (b.setWidth 16) +
            if cDie (a.setWidth 16) = cDie (b.setWidth 16) then 0 else 0x10000)
         else 0xFFFFFFFFFFFFFFFF)))

/-- R321: HOME of an address whose translation for reading the task is given writes its home coordinate, with LOCAL where that is its own
cluster, or NOHOME, and accesses nothing. -/
def Sys2Proof.Machine.HomeOfTranslatedAddress : Prop :=
  ∀ (f : Fields) (s t : State) (r : Fin 16) (lane : Fin 64) (a : Word) (l : Leaf),
    f.d = .g r lane → s.plainWord f.a = some a → s.free f → translateVa a.toNat false false s.stepped = .ok (l, t) →
      exec (.home f) s = .next (s.ended (t.setCtx t.cur (t.now.withLane r lane
        (if noHome l.entry then 0x20000
         else BitVec.ofNat 64 ((clusterCoord (homeOf l.entry (leafAddr l.entry l.level a.toNat) a.toNat)).toNat +
           if homeOf l.entry (leafAddr l.entry l.level a.toNat) a.toNat = clusterOf t.now.core then 0x10000 else 0)))) .base f.h)

/-- LEA, CDIST and HOME: result and frame: the propositions above together. -/
def Obligations.AddressesAndHomes : Prop :=
  AddressesAndDistances ∧ HomeOfTranslatedAddress

/-- R323, R324: where a branch goes and what it writes. A target of CALL is relative as an immediate and absolute otherwise, and LOOP
branches while its decremented lane is not zero. -/
def Sys2Proof.Machine.BranchTargetsAndWrites : Prop :=
  ∀ (f : Fields) (s : State), s.free f →
    (∀ v : BitVec 21, f.a = .i v →
      exec (.br f) s = .next (s.after1 f.h fun x => { x with pc := s.now.pc + v.signExtend 32 })) ∧
    (∀ i n : Word, s.plainWord f.a = some i → s.plainWord f.b = some n →
      exec (.brx f) s = .next (s.after1 f.h fun x => { x with pc := s.now.pc + 1 + BitVec.ofNat 32 (min i.toNat n.toNat) })) ∧
    (∀ a : Word, s.plainWord f.a = some a →
      exec (.ret f) s = .next (s.after1 f.h fun x => { x with pc := a.setWidth 32 })) ∧
    (∀ (r : Fin 16) (lane : Fin 64), f.d = .g r lane →
      (∀ v : BitVec 21, f.a = .i v →
        exec (.call f) s = .next (s.after1 f.h fun x =>
          { x.withLane r lane ((s.now.pc + 1).setWidth 64) with pc := s.now.pc + v.signExtend 32 }) ∧
        exec (.loop f) s = .next (s.after1 f.h fun x =>
          { x.withLane r lane (laneOf s.now.g[r] lane.val - 1) with
            pc := if laneOf s.now.g[r] lane.val - 1 ≠ 0 then s.now.pc + v.signExtend 32 else s.now.pc + 1 })) ∧
      (∀ (q : Fin 16) (l : Fin 64), f.a = .g q l →
        exec (.call f) s = .next (s.after1 f.h fun x =>
          { x.withLane r lane ((s.now.pc + 1).setWidth 64) with pc := (laneOf s.now.g[q] l.val).setWidth 32 })))

/-- R328, R330, R233, R268, R334: NOP, YIELD, HBEAT and ISYNC change the scheduling, the timer, or the words fetched ahead and the execute
boundary of their own slot alone, and TRACE and MARK make a record of the trace unit and nothing a task can read. -/
def Sys2Proof.Machine.SchedulingAndMarks : Prop :=
  ∀ (f : Fields) (s : State), s.free f →
    exec (.nop f) s = .next (s.after1 f.h fun x => x) ∧
    exec (.yield f) s = .next (s.after1 f.h fun x => { x with yielded := true }) ∧
    exec (.hbeat f) s = .next (s.after1 f.h fun x => if x.task then { x with hb := 0 } else x) ∧
    exec (.isync f) s = .next (s.after1 f.h fun x => { x with fetched := [], xb := (s.coreAt s.now.core).xb }) ∧
    (∀ a : Word, s.plainWord f.a = some a →
      exec (.trace f) s = .next (s.ended
        (s.stepped.trace s.now.core (s.pnumOf s.now) 9 s.now.gtid s.now.pc.toNat a) .base f.h) ∧
      exec (.mark f) s = .next (s.ended
        (s.stepped.trace s.now.core (s.pnumOf s.now) 10 s.now.gtid s.now.pc.toNat ((a.setWidth 32).setWidth 64)) .base f.h))

/-- R221, R307, R266: EXIT removes the task, and its slot stays in its company's holdings; in the control context it halts the context, with
CHALT set and EXIT's opcode reported. -/
def Sys2Proof.Machine.ExitRetiresOrHalts : Prop :=
  ∀ (f : Fields) (s : State), s.free f →
    (s.now.task = true → ∃ t, exec (.exit f) s = .next t ∧ t.ctxs = s.ctxs.del s.cur ∧ t.mem = s.mem ∧ t.lines = s.lines ∧
      ∀ cl n, (t.company? cl n).map Company.slots = (s.company? cl n).map Company.slots) ∧
    (s.now.task = false → s.cur = s.now.core.toNat → ∃ t, exec (.exit f) s = .next t ∧ (t.coreAt s.now.core).chalt = true ∧
      (t.coreAt s.now.core).active = false ∧ t.irqs = s.irqs ++ [.controlHalt s.now.core 0x003] ∧ t.mem = s.mem ∧
      ∀ k, k ≠ s.cur → t.ctxs.look k = s.ctxs.look k)

/-- Branches, scheduling, marks and EXIT: the propositions above together. -/
def Obligations.ControlTransfersAndScheduling : Prop :=
  BranchTargetsAndWrites ∧ SchedulingAndMarks ∧ ExitRetiresOrHalts

/-- R208, R283, R284, R329, R458, R502: GETS writes the register's value to D and changes nothing else, in a task and in the control context;
%time is the package time base and %cycle counts core cycles, and a launch that is recorded or replayed takes them from its log. %time is
ordered as a load: it stays in flight while a store that a FENCE orders before it is held. How %time is rounded, and that %cycle is the
package's cycle on every core, are the model's readings (log entries 3 and 6). -/
def Sys2Proof.Machine.GetsReadsSpecialRegisters : Prop :=
  ∀ (f : Fields) (s : State) (r : Fin 16) (lane : Fin 64), f.d = .g r lane → s.free f →
    (s.now.task = true → ∀ e ∈ taskRegisters s, f.a = .s e.1 → exec (.gets f) s = .next (s.after1 f.h fun x => x.withLane r lane e.2)) ∧
    (s.now.task = false → ∀ e ∈ controlRegisters s, f.a = .s e.1 → exec (.gets f) s = .next (s.after1 f.h fun x => x.withLane r lane e.2)) ∧
    (f.a = .s .time → ¬s.passes → exec (.gets f) s = .next (s.enterFlight (.home false))) ∧
    (s.unlogged →
      (f.a = .s .time → s.passes →
        exec (.gets f) s = .next (s.after1 f.h fun x => x.withLane r lane (BitVec.ofNat 64 (s.cycle * 10 / 27)))) ∧
      (f.a = .s .cycle →
        exec (.gets f) s = .next (s.after1 f.h fun x => x.withLane r lane (BitVec.ofNat 64 s.cycle)))) ∧
    ∀ e ∈ [(SReg.time, s.cycle * 10 / 27), (.cycle, s.cycle)], ∀ (v : Option Nat) (t : State), f.a = .s e.1 → (e.1 = .time → s.passes) →
      logPoint 6 (cDie s.now.core) (sregIndex e.1).val (BitVec.ofNat 64 e.2 : Word).toNat s.stepped = .ok (v, t) →
      exec (.gets f) s = .next (s.ended (t.setCtx t.cur (t.now.withLane r lane (BitVec.ofNat 64 (v.getD e.2)))) .base f.h)

/-- R283, R307, R329, R458: SETS in a task writes %fmt alone; in the control context it writes %xb and %ovl, and, while a trap is served, the
task's %fmt, under which the context's own vector instructions act too, ACT of %cause, bits [31:0] of %epc, and %tval; a write to a read-only register, or to one of these
while no trap is served, is ignored. -/
def Sys2Proof.Machine.SetsWritesWritableFields : Prop :=
  ∀ (f : Fields) (s : State) (a : Word), s.plainWord f.a = some a → s.free f →
    (s.now.task = true → f.d = .s .fmt → exec (.sets f) s = .next (s.after1 f.h fun x => { x with fmt := a.setWidth 7 })) ∧
    (s.now.task = false → f.d = .s .fmt →
      ((s.coreAt s.now.core).serving = none → exec (.sets f) s = .next (s.after1 f.h fun x => x)) ∧
      ∀ k, (s.coreAt s.now.core).serving = some k → k ≠ s.cur → exec (.sets f) s = .next (s.ended
        ((s.stepped.updCtx k fun x => { x with fmt := a.setWidth 7 }).updCtx s.cur fun x => { x with fmt := a.setWidth 7 }) .base f.h)) ∧
    (∀ r ∈ [SReg.gtid, .coord, .home, .slot, .company, .time, .cycle, .rc, .hbint], f.d = .s r →
      exec (.sets f) s = .next (s.after1 f.h fun x => x)) ∧
    (s.now.task = true → ∀ r ∈ [SReg.xb, .ovl], f.d = .s r → exec (.sets f) s = .next (s.after1 f.h fun x => x)) ∧
    (s.now.task = false →
      (f.d = .s .xb → exec (.sets f) s = .next (s.ended (s.stepped.updCore s.now.core fun c =>
        { c with xb := BitVec.ofNat 14 (min (a.toNat % 2 ^ 14) 8192) }) .base f.h)) ∧
      (f.d = .s .ovl → exec (.sets f) s = .next (s.ended (s.stepped.updCore s.now.core fun c =>
        { c with ovl := a.setWidth 14 }) .base f.h)) ∧
      ((s.coreAt s.now.core).serving = none → ∀ r ∈ [SReg.cause, .epc, .tval], f.d = .s r →
        exec (.sets f) s = .next (s.after1 f.h fun x => x)) ∧
      ((s.coreAt s.now.core).serving.isSome = true →
        (f.d = .s .cause → exec (.sets f) s = .next (s.ended (s.stepped.updCore s.now.core fun c =>
          { c with cause := (c.cause &&& ~~~0x30000) ||| (a &&& 0x30000) }) .base f.h)) ∧
        (f.d = .s .epc → exec (.sets f) s = .next (s.ended (s.stepped.updCore s.now.core fun c =>
          { c with epc := (a.setWidth 32).setWidth 64 }) .base f.h)) ∧
        (f.d = .s .tval → exec (.sets f) s = .next (s.ended (s.stepped.updCore s.now.core fun c =>
          { c with tval := a }) .base f.h))))

/-- GETS and SETS of every special register: the propositions above together. -/
def Obligations.SpecialRegistersReadAndWritten : Prop :=
  GetsReadsSpecialRegisters ∧ SetsWritesWritableFields

/-- R272: the unassigned opcodes are exactly those of the seven ranges; a word with one of them is no other instruction, and on every core, whatever the
state, it faults ILLEGAL_OP, with the opcode and the hint byte in the tval. -/
def Obligations.UnassignedOpcodesFault : Prop :=
  (∀ opc : BitVec 12, ofOpc opc = none ↔
    (0x020 ≤ opc.toNat ∧ opc.toNat ≤ 0x0FF) ∨ (0x12F ≤ opc.toNat ∧ opc.toNat ≤ 0x1FF) ∨ (0x21F ≤ opc.toNat ∧ opc.toNat ≤ 0x2FF) ∨
    (0x31F ≤ opc.toNat ∧ opc.toNat ≤ 0x3FF) ∨ (0x422 ≤ opc.toNat ∧ opc.toNat ≤ 0x4FF) ∨ (0x508 ≤ opc.toNat ∧ opc.toNat ≤ 0x5FF) ∨
    0x604 ≤ opc.toNat) ∧
  (∀ w : InstrWord, ofOpc (w.extractLsb' 84 12) = none → decode w = .ok (.unassignedOpcode (w.extractLsb' 84 12) (w.extractLsb' 72 8))) ∧
  ∀ (opc : BitVec 12) (hint : Byte) (s : State),
    exec (.unassignedOpcode opc hint) s = .next (s.faultHere .illegalOp (BitVec.ofNat 64 (opc.toNat + hint.toNat * 0x1000)))

/-- R269, R270, R283: TRET, OVRET, and GETS or SETS naming %cause, %epc or %tval fault PRIV in a task, whatever the guard holds, with the
opcode and the register's index in the tval. -/
def Sys2Proof.Machine.PrivilegeFaults : Prop :=
  ∀ (f : Fields) (s : State), s.now.task = true →
    exec (.tret f) s = .next (s.faultHere .priv 0x00B) ∧ exec (.ovret f) s = .next (s.faultHere .priv 0x00E) ∧
    ∀ e ∈ [(SReg.cause, (12 : Nat)), (.epc, 13), (.tval, 14)],
      (f.a = .s e.1 → exec (.gets f) s = .next (s.faultHere .priv (BitVec.ofNat 64 (0x00C + e.2 * 0x1000)))) ∧
      (f.d = .s e.1 → exec (.sets f) s = .next (s.faultHere .priv (BitVec.ofNat 64 (0x00D + e.2 * 0x1000))))

/-- R59, R88, R343 to R347: a scalar access, an atomic or an element of LDVT that is not aligned faults ALIGN with its address, and a `.l` access of
any of these instructions outside the data region XLATE_PERM with reason 2; nothing is performed. -/
def Sys2Proof.Machine.AlignmentAndDataRegionFaults : Prop :=
  ∀ (f : Fields) (s : State) (b : Fin 16) (spc : Bool) (off : BitVec 16), s.free f →
    let core := s.coreAt s.now.core
    let local_ : Prop := f.md.nsp = true ∧ spc = true ∧ s.unheld
    let align (i : Instr) (a : Nat) : Prop := exec i s = .next (s.faultHere .align (BitVec.ofNat 64 a))
    let outside (i : Instr) (a : Nat) : Prop := exec i s = .next (s.faultHere .xlatePerm (BitVec.ofNat 64 (a % 2 ^ 56 + 2 * 2 ^ 58)))
    (let n := (tyInfo f.md.ty (64, false)).1 / 8
     let a := operandAddr s b off n
     (f.a = .m b spc off → (∃ r lane, f.d = .g r lane) →
       (a % n ≠ 0 → align (.ld f) a) ∧ (local_ → a % n = 0 → core.localOk a n = false → outside (.ld f) a)) ∧
     (f.d = .m b spc off →
       (a % n ≠ 0 → align (.st f) a) ∧
       (local_ → a % n = 0 → core.localOk a n = false → ∀ v : Word, s.plainWord f.a = some v → outside (.st f) a))) ∧
    (let a := operandAddr s b off 32
     local_ → core.localOk a 32 = false →
       (f.a = .m b spc off → (∃ r lane, f.d = .g r lane) → outside (.ldv f) a) ∧
       (f.d = .m b spc off → ∀ v : Vec, s.plainVec f.a = some v → outside (.stv f) a)) ∧
    (let n := (tyInfo f.md.ty (32, false)).1 / 8
     ∀ stride : Word, f.a = .m b spc off → (∃ r lane, f.d = .g r lane) → s.plainWord f.b = some stride →
       let at_ (i : Nat) : Nat := (((operandAddr s b off n : Int) + i * stride.toInt) % 2 ^ 64).toNat
       ∀ i < 32 / n,
         (at_ i % n ≠ 0 → (∀ j < i, at_ j % n = 0) → align (.ldvt f) (at_ i)) ∧
         (local_ → (∀ j < 32 / n, at_ j % n = 0) → core.localOk (at_ i) n = false → (∀ j < i, s.localClear (at_ j) n) →
           outside (.ldvt f) (at_ i))) ∧
    ∀ e ∈ atomicOps, ∀ (r : Fin 16) (lane : Fin 64) (v : Word), f.a = .m b spc off → f.d = .g r lane → s.plainWord f.b = some v →
      let n := (tyInfo f.md.ty e.2.1).1 / 8
      let a := operandAddr s b off n
      (a % n ≠ 0 → align (e.1 f) a) ∧ (local_ → a % n = 0 → core.localOk a n = false → outside (e.1 f) a)

/-- Privilege, alignment and data-region faults: the propositions above together. -/
def Obligations.PrivilegeAndAlignmentFaults : Prop :=
  PrivilegeFaults ∧ AlignmentAndDataRegionFaults

/-- R326, R456: TRAP completes and its task is trapped with the next PC; BKPT has no effect and its task is trapped at its own PC. Each joins
the traps of its core behind those raised before, and no other context and no byte of memory changes. -/
def Sys2Proof.Machine.TrapsAreTaken : Prop :=
  ∀ (f : Fields) (s : State) (a : Word), s.plainWord f.a = some a → s.free f → s.now.task = true →
    (∃ t, exec (.trap f) s = .next t ∧ (t.ctx s.cur).pc = s.now.pc + 1 ∧
      (t.ctx s.cur).status = .trapped { trapAt .trap a (s.now.pc + 1) with time := s.time } false ∧
      (t.coreAt s.now.core).traps = (s.coreAt s.now.core).traps ++ [s.cur] ∧ (t.ctx s.cur).g = s.now.g ∧ (t.ctx s.cur).p = s.now.p ∧
      (∀ k, k ≠ s.cur → t.ctx k = s.ctx k) ∧ t.mem = s.mem ∧ t.queues = s.queues) ∧
    (∃ t, exec (.bkpt f) s = .next t ∧ (t.ctx s.cur).pc = s.now.pc ∧
      (t.ctx s.cur).status = .trapped { trapAt .bkpt a s.now.pc with time := s.time } false ∧
      (t.coreAt s.now.core).traps = (s.coreAt s.now.core).traps ++ [s.cur] ∧ (t.ctx s.cur).g = s.now.g ∧ (t.ctx s.cur).p = s.now.p ∧
      (∀ k, k ≠ s.cur → t.ctx k = s.ctx k) ∧ t.mem = s.mem ∧ t.queues = s.queues)

/-- R456, R458: an idle control context that finds a trapped task enters at PC 0 of local memory, or at %ovl for an overlay fault, with %epc
and %tval set and %cause holding the code, the task's slot and ACT 0. -/
def Sys2Proof.Machine.TrapServiceEntry : Prop :=
  ∀ (s : State) (core : Coord) (k : Nat) (tr : TrapRec) (b : Bool),
    (s.coreAt core).active = false → (s.coreAt core).chalt = false → (s.coreAt core).serving = none → s.nextTrap core = some k →
    (s.ctx k).status = .trapped tr b → k ≠ core.toNat →
      ∃ t, exec (.trapServiceStart core) s = .next t ∧ (t.coreAt core).serving = some k ∧ (t.coreAt core).active = true ∧
        (t.coreAt core).epc = tr.epc.setWidth 64 ∧ (t.coreAt core).tval = tr.tval ∧
        (t.coreAt core).cause = BitVec.ofNat 64 (tr.code.num + tr.inner * 2 ^ 8 + (s.ctx k).slot.val * 2 ^ 18 +
          (if tr.role then 2 ^ 22 else 0) + tr.olnch * 2 ^ 24 + tr.oindex * 2 ^ 42) ∧
        (t.ctx core.toNat).pc = (if tr.code = .overlay then (s.coreAt core).ovl.setWidth 32 else 0) ∧
        (t.ctx core.toNat).g = (s.ctx core.toNat).g ∧ (t.ctx k).status = .trapped tr true ∧ (t.ctx k).g = (s.ctx k).g ∧ t.mem = s.mem

/-- Taking a trap and entering its service: the propositions above together. -/
def Obligations.TrapsAndTheirService : Prop :=
  TrapsAreTaken ∧ TrapServiceEntry

/-- R327, R458, R459: TRET with ACT 0 makes the served task ready at %epc, and the trap registers then read as zero; with ACT 1 the fault is
forwarded and the task's company group suspended with REASON 2; with ACT 2 or 3 the group is killed with the fault's code. OVRET acts as TRET
with ACT 0 unless the image ids differ or %epc is not below %xb: the OVERLAY trap is then taken again. With no trap served both make the
control context idle. -/
def Obligations.TrapReturn : Prop :=
  ∀ (f : Fields) (s : State), s.free f → s.now.task = false →
    ((s.coreAt s.now.core).serving = none →
      exec (.tret f) s = .next (s.ended (s.stepped.updCore s.now.core fun c => { c with active := false }) .base f.h) ∧
      exec (.ovret f) s = .next (s.ended (s.stepped.updCore s.now.core fun c => { c with active := false }) .base f.h)) ∧
    ∀ (k : Nat) (tr : TrapRec) (b : Bool), (s.coreAt s.now.core).serving = some k → (s.ctx k).status = .trapped tr b → k ≠ s.cur →
      let c := s.coreAt s.now.core
      let idle := (s.stepped.updCore s.now.core fun c => { c with serving := none, active := false, cause := 0, epc := 0, tval := 0 }).updCtx
        s.now.core.toNat fun y => { y with fmt := 0 }
      let resumed := idle.updCtx k fun x =>
        { x with status := .idle, pc := c.epc.setWidth 32, fetched := [], readyAt := s.cycle + 1, xb := (idle.coreAt x.core).xb,
                 skipBp := (tr.table && c.epc.setWidth 32 == tr.epc) || (x.skipBp && x.pc == c.epc.setWidth 32) }
      (c.cause.extractLsb' 16 2 = 0 → exec (.tret f) s = .next (s.ended resumed .base f.h)) ∧
      (c.cause.extractLsb' 16 2 = 1 → exec (.tret f) s = .next (s.ended
        (((idle.faultRing (gtidPnum (s.ctx k).gtid) (idle.forwardRecord (s.ctx k) tr)).setCtx k
          { s.ctx k with status := .trapped tr false }).suspendGroup (gtidPnum (s.ctx k).gtid) (gtidLaunch (s.ctx k).gtid)
            (s.ctx k).company.toNat 2) .base f.h)) ∧
      (2 ≤ (c.cause.extractLsb' 16 2).toNat → exec (.tret f) s = .next (s.ended
        (idle.killGroup (gtidPnum (s.ctx k).gtid) (gtidLaunch (s.ctx k).gtid) (s.ctx k).company.toNat tr.code.num) .base f.h)) ∧
      ((s.ctx k).img = c.img → (c.epc.setWidth 32).toNat < c.xb.toNat → exec (.ovret f) s = .next (s.ended resumed .base f.h)) ∧
      ((s.ctx k).img ≠ c.img ∨ c.xb.toNat ≤ (c.epc.setWidth 32).toNat →
        exec (.ovret f) s = .next (s.ended
          (idle.takeTrap k (trapAt .overlay (BitVec.ofNat 64 ((c.epc.setWidth 32).toNat + (s.ctx k).img.toNat * 2 ^ 48))
            (c.epc.setWidth 32))) .base f.h))

/-- R19, R216, R331, R332, R333: EVENT sends a wake event to a valid coordinate in the pitch and faults SCOPE for any other. SLEEP and TWAIT
that issue stay in flight for 7 cycles at least, and change nothing else; a SLEEP that is due writes 0, or the code of what ended it first:
1 for an event and 2 for a suspension; a TWAIT past its deadline writes %time. How %time is rounded is the model's reading (log entry 3). -/
def Obligations.EventSleepAndDeadline : Prop :=
  ∀ (f : Fields) (s : State) (a : Word), s.plainWord f.a = some a → s.free f →
    ((coordValid (a.setWidth 16) && (s.part (s.pnumOf s.now)).pitch.getLsbD (clusterOf (a.setWidth 16))) = true →
      exec (.event f) s = .next (s.ended (s.stepped.send (.event (a.setWidth 16))) .base f.h)) ∧
    ((coordValid (a.setWidth 16) && (s.part (s.pnumOf s.now)).pitch.getLsbD (clusterOf (a.setWidth 16))) = false →
      exec (.event f) s = .next (s.faultHere .scope ((a.setWidth 16).setWidth 64))) ∧
    ∀ (r : Fin 16) (lane : Fin 64), f.d = .g r lane →
      (s.now.status = .idle →
        exec (.sleep f) s = .next ((s.enterFlight (.sleep (s.cycle * 10 / 27) (s.cycle * 10 / 27 + a.toNat % 2 ^ 32) none)).updCtx s.cur
          fun x => { x with readyAt := s.cycle + 8 }) ∧
        exec (.twait f) s = .next ((s.enterFlight (.twait (s.cycle * 10 / 27) a.toNat)).updCtx s.cur
          fun x => { x with readyAt := s.cycle + 8 })) ∧
      (∀ (start due : Nat) (ends : Option (Fin 3)), s.now.status = .flight (.sleep start due ends) →
        (s.cycle + 1 < s.now.readyAt → exec (.sleep f) s = .next (s.enterFlight (.sleep start due ends))) ∧
        (s.unlogged → s.now.readyAt ≤ s.cycle + 1 → (due ≤ s.cycle * 10 / 27 ∨ ends.isSome = true) →
          exec (.sleep f) s = .next (s.after1 f.h fun x => x.withLane r lane (BitVec.ofNat 64 (ends.getD 0).val)))) ∧
      (∀ start deadline : Nat, s.now.status = .flight (.twait start deadline) →
        (s.cycle + 1 < s.now.readyAt → exec (.twait f) s = .next (s.enterFlight (.twait start deadline))) ∧
        (s.unlogged → s.now.readyAt ≤ s.cycle + 1 → deadline ≤ s.cycle * 10 / 27 →
          exec (.twait f) s = .next (s.after1 f.h fun x => x.withLane r lane (BitVec.ofNat 64 (s.cycle * 10 / 27)))))

/-- R59, R263, R343, R344, R345: a relaxed LD, LDV or LDVT of `.l` writes the little-endian bytes it reads to its destination, LD extended by
its type, LDVT element by element from its first address in steps of the stride. Memory, the other registers, the predicates and everything
but the executing context and a counter stay as they are. -/
def Sys2Proof.Machine.LocalLoadsResultAndFrame : Prop :=
  ∀ (f : Fields) (s : State) (b r : Fin 16) (lane : Fin 64) (off : BitVec 16),
    f.a = .m b true off → f.md.nsp = true → f.md.ord = .rlx → f.md.ty ∈ tyMemory → f.d = .g r lane → s.free f →
      (let w := (tyInfo f.md.ty (64, false)).1
       let sg := (tyInfo f.md.ty (64, false)).2
       let a := operandAddr s b off (w / 8)
       a % (w / 8) = 0 → s.localClear a (w / 8) →
         exec (.ld f) s = .next (s.afterLocal f.h fun x => x.withLane r lane
           (intWord w sg (wordInt w sg (BitVec.ofNat 64 (leValue (s.tierBytes (localPa s.now.core a) (w / 8)))))))) ∧
      (let a := operandAddr s b off 32
       s.localClear a 32 →
         exec (.ldv f) s = .next (s.afterLocal f.h fun x => x.setG r
           (BitVec.ofNat 256 (leValue (s.tierBytes (localPa s.now.core a) 32))))) ∧
      (let n := (tyInfo f.md.ty (32, false)).1 / 8
       let a := operandAddr s b off n
       ∀ stride : Word, s.plainWord f.b = some stride →
         let at_ (i : Nat) : Nat := (((a : Int) + i * stride.toInt) % 2 ^ 64).toNat
         (∀ i < 32 / n, at_ i % n = 0 ∧ s.localClear (at_ i) n) →
           exec (.ldvt f) s = .next (s.afterLocal f.h fun x => x.setG r
             (BitVec.ofNat 256 (leValue ((List.range (32 / n)).flatMap fun i => s.tierBytes (localPa s.now.core (at_ i)) n)))))

/-- R59, R343, R344: a relaxed ST or STV to `.l` stores the low bytes of its source at the operand's address and changes no other byte, no
register, no other context, queue, line or core. -/
def Sys2Proof.Machine.LocalStoresResultAndFrame : Prop :=
  ∀ (f : Fields) (s : State) (b : Fin 16) (off : BitVec 16),
    f.d = .m b true off → f.md.nsp = true → f.md.ord = .rlx → s.free f → s.inv →
      (∀ v : Word, s.plainWord f.a = some v →
        let n := (tyInfo f.md.ty (64, false)).1 / 8
        let a := operandAddr s b off n
        a % n = 0 → s.localClear a n →
          ∃ t, exec (.st f) s = .next t ∧ t.tierBytes (localPa s.now.core a) n = leBytes n v.toNat ∧
            s.sameBut t (localPa s.now.core a) n ∧ t.ctx s.cur = (s.after1 f.h fun x => x).ctx s.cur) ∧
      (∀ v : Vec, s.plainVec f.a = some v →
        let a := operandAddr s b off 32
        s.localClear a 32 →
          ∃ t, exec (.stv f) s = .next t ∧ t.tierBytes (localPa s.now.core a) 32 = leBytes 32 v.toNat ∧
            s.sameBut t (localPa s.now.core a) 32 ∧ t.ctx s.cur = (s.after1 f.h fun x => x).ctx s.cur)

/-- R346, R347: a relaxed atomic on `.l` writes the old value to D and the new value to its bytes, or leaves them where ACAS finds another
value than D's, and changes no other byte and no other register. -/
def Sys2Proof.Machine.LocalAtomicsResultAndFrame : Prop :=
  ∀ e ∈ atomicOps, ∀ (f : Fields) (s : State) (b r : Fin 16) (lane : Fin 64) (off : BitVec 16) (v : Word),
    f.a = .m b true off → f.md.nsp = true → f.md.ord = .rlx → f.d = .g r lane → s.plainWord f.b = some v → s.free f → s.inv → s.unlogged →
      let w := (tyInfo f.md.ty e.2.1).1
      let sg := (tyInfo f.md.ty e.2.1).2
      let a := operandAddr s b off (w / 8)
      let pa := localPa s.now.core a
      let old := wordInt w sg (BitVec.ofNat 64 (leValue (s.tierBytes pa (w / 8))))
      a % (w / 8) = 0 → s.localClear a (w / 8) →
        ∃ t, exec (e.1 f) s = .next t ∧
          t.tierBytes pa (w / 8) = (match e.2.2 old (wordInt w sg v) (wordInt w sg (laneOf s.now.g[r] lane.val)) with
            | some u => leBytes (w / 8) (u % 2 ^ w).toNat
            | none => s.tierBytes pa (w / 8)) ∧
          s.sameBut t pa (w / 8) ∧ t.ctx s.cur = (s.after1 f.h fun x => x.withLane r lane (intWord w sg old)).ctx s.cur

/-- Loads, stores and atomics of local memory: result and frame: the propositions above together. -/
def Obligations.LocalMemoryResultAndFrame : Prop :=
  LocalLoadsResultAndFrame ∧ LocalStoresResultAndFrame ∧ LocalAtomicsResultAndFrame

/-- R301, R343, R344, R346, R347: in every space and with every ordering, LD and LDV write what the access read, ST and STV hand the access the bytes
of their source, and an atomic that no other package performs hands it what it makes of the old value, and writes the old value. -/
def Sys2Proof.Machine.LoadsAndStoresInEverySpace : Prop :=
  ∀ (f : Fields) (s : State), s.free f →
    (∀ (b r : Fin 16) (lane : Fin 64) (spc : Bool) (off : BitVec 16), f.a = .m b spc off → f.d = .g r lane →
      let target (n : Nat) : Target := { space := mSpace spc f.md.nsp, addr := operandAddr s b off n,
                                         scope := s.now.g[b].extractLsb' 64 32, base := s.now.g[b] }
      (let w := (tyInfo f.md.ty (64, false)).1
       let sg := (tyInfo f.md.ty (64, false)).2
       operandAddr s b off (w / 8) % (w / 8) = 0 → ∀ (d : List Byte) (t : State),
         loadBytes f (target (w / 8)) (w / 8) s.stepped = .ok (d, t) →
           exec (.ld f) s = .next (s.ended (t.setCtx t.cur (t.now.withLane r lane
             (intWord w sg (wordInt w sg (BitVec.ofNat 64 (leValue d)))))) .base f.h)) ∧
      ∀ (d : List Byte) (t : State), loadBytes f (target 32) 32 s.stepped = .ok (d, t) →
        exec (.ldv f) s = .next (s.ended (t.setCtx t.cur (t.now.setG r (BitVec.ofNat 256 (leValue d)))) .base f.h)) ∧
    (∀ (b : Fin 16) (spc : Bool) (off : BitVec 16), f.d = .m b spc off →
      let target (n : Nat) : Target := { space := mSpace spc f.md.nsp, addr := operandAddr s b off n,
                                         scope := s.now.g[b].extractLsb' 64 32, base := s.now.g[b] }
      (let n := (tyInfo f.md.ty (64, false)).1 / 8
       operandAddr s b off n % n = 0 → ∀ (v : Word) (t : State), s.plainWord f.a = some v →
         storeBytes f (target n) (leBytes n v.toNat) s.stepped = .ok ((), t) → exec (.st f) s = .next (s.ended t .base f.h)) ∧
      ∀ (v : Vec) (t : State), s.plainVec f.a = some v →
        storeBytes f (target 32) (leBytes 32 v.toNat) s.stepped = .ok ((), t) → exec (.stv f) s = .next (s.ended t .base f.h)) ∧
    ∀ e ∈ atomicOps, ∀ (b r : Fin 16) (lane : Fin 64) (spc : Bool) (off : BitVec 16) (v : Word), f.a = .m b spc off → f.d = .g r lane →
      s.plainWord f.b = some v →
      let w := (tyInfo f.md.ty e.2.1).1
      let sg := (tyInfo f.md.ty e.2.1).2
      let a := operandAddr s b off (w / 8)
      let target : Target := { space := mSpace spc f.md.nsp, addr := a, scope := s.now.g[b].extractLsb' 64 32, base := s.now.g[b] }
      let update (old : List Byte) : Option (List Byte) :=
        (e.2.2 (wordInt w sg (BitVec.ofNat 64 (leValue old))) (wordInt w sg v) (wordInt w sg (laneOf s.now.g[r] lane.val))).map fun u =>
          leBytes (w / 8) (u % 2 ^ w).toNat
      a % (w / 8) = 0 → ¬(target.space = .s ∧ s.now.g[b].getLsbD 125 = true ∧ s.now.g[b].getLsbD 124 = true) →
        ∀ (d : List Byte) (t : State), atomicMem target (howOf f true true target.scope) (w / 8) update (pure []) s.stepped = .ok (d, t) →
          exec (e.1 f) s = .next (s.ended (t.setCtx t.cur (t.now.withLane r lane
            (intWord w sg (wordInt w sg (BitVec.ofNat 64 (leValue d)))))) .base f.h)

/-- R61, R337, R338, R343, R346, R347: a relaxed LD or atomic of `.s` on bytes that its company holds, in its own cluster or in another, reads
them, little-endian; the atomic writes the new value to its bytes, or leaves them where ACAS finds another value than D's. Nothing else changes. -/
def Sys2Proof.Machine.ScratchResultAndFrame : Prop :=
  ∀ (f : Fields) (s : State) (b r : Fin 16) (lane : Fin 64) (spc : Bool) (off : BitVec 16), f.a = .m b spc off → mSpace spc f.md.nsp = .s →
    f.md.ord = .rlx → f.d = .g r lane → s.free f → s.unheld →
    (let w := (tyInfo f.md.ty (64, false)).1
     let sg := (tyInfo f.md.ty (64, false)).2
     let a := operandAddr s b off (w / 8)
     a % (w / 8) = 0 → ∀ pa, s.scratchPa s.now.g[b] a (w / 8) = some pa →
       ∃ t, exec (.ld f) s = .next t ∧ t.mem = s.mem ∧ s.sameBut t pa 0 ∧ t.ctx s.cur = (s.after1 f.h fun x => x.withLane r lane
         (intWord w sg (wordInt w sg (BitVec.ofNat 64 (leValue (s.tierBytes pa (w / 8))))))).ctx s.cur) ∧
    ∀ e ∈ atomicOps, ∀ v : Word, s.plainWord f.b = some v → s.inv → s.unlogged →
      let w := (tyInfo f.md.ty e.2.1).1
      let sg := (tyInfo f.md.ty e.2.1).2
      let a := operandAddr s b off (w / 8)
      a % (w / 8) = 0 → ∀ pa, s.scratchPa s.now.g[b] a (w / 8) = some pa →
        let old := wordInt w sg (BitVec.ofNat 64 (leValue (s.tierBytes pa (w / 8))))
        ∃ t, exec (e.1 f) s = .next t ∧
          t.tierBytes pa (w / 8) = (match e.2.2 old (wordInt w sg v) (wordInt w sg (laneOf s.now.g[r] lane.val)) with
            | some u => leBytes (w / 8) (u % 2 ^ w).toNat
            | none => s.tierBytes pa (w / 8)) ∧
          s.sameBut t pa (w / 8) ∧ t.ctx s.cur = (s.after1 f.h fun x => x.withLane r lane (intWord w sg old)).ctx s.cur

/-- R71, R85, R180 to R187, R203, R344, R347: an access of `.g` whose places are ready, of one line or of two. A read gives the bytes of its places: of
the line at its home, or of the tier where it is not present. A write that is not held changes its places in order; one within a line changes
exactly the bytes it names. An atomic replaces the old bytes of its one place in one step. An acquire merges what was released at each place, and
a release is recorded at each, with the task's count moved on. -/
def Sys2Proof.Machine.GlobalAccessAtItsHome : Prop :=
  ∀ (h : How) (sync split : Bool) (s t : State) (addr : Nat), t.unlogged →
    (∀ (pieces : List (Nat × Nat × Nat)) (ps : List Place), gReady h sync split addr pieces s = .ok (ps, t) →
      ∃ u, gRead h sync split addr pieces s = .ok (ps.flatMap t.placeBytes, u) ∧ u.mem = t.mem ∧
        (∀ q : Place, u.placeBytes q = t.placeBytes q) ∧
        u.now = if h.acquire && t.now.task then
            ps.foldl (fun (x : Ctx) p => x.acquire (t.clusterAt p.key.1) p.key.2 h.scope (stateWords (p.pa % 64) p.len)) t.now
          else t.now) ∧
    (∀ (d : List Byte) (ps : List Place), gReady h sync split addr (linePieces 0 addr d.length) s = .ok (ps, t) →
      (∀ p ∈ ps, leafWb p.leaf.entry = false) →
      let v := ps.foldl (fun (u : State) p => u.placeWrite p (slice d p.off p.len)) t
      let released : State := (ps.map Place.key).foldl (fun (u : State) k =>
        u.releaseAt k.1 k.2 (gtidPnum t.now.gtid) t.now.carried h.scope t.now.home) t
      ∃ u, gWrite h sync split addr d s = .ok ((), u) ∧ u.mem = v.mem ∧ (∀ q : Place, u.placeBytes q = v.placeBytes q) ∧
        (u.now = if h.release && t.now.task then t.now.bump else t.now) ∧
        (∀ cl, (u.clusterAt cl).records = ((if h.release && t.now.task then released else t).clusterAt cl).records) ∧
        ∀ p : Place, ps = [p] → p.homed = true → p.off = 0 → p.len = d.length → p.pa % 64 + p.len ≤ 64 →
          ((t.lineAt p.pa).isSome = true →
            u.homeBytes p.home p.pa p.len = d ∧ u.mem = t.mem ∧ (∀ k, k ≠ p.pa / 64 → u.lines.look k = t.lines.look k) ∧
            ∀ i < 64, (i < p.pa % 64 ∨ p.pa % 64 + p.len ≤ i) →
              u.homeBytes p.home (p.pa / 64 * 64 + i) 1 = t.homeBytes p.home (p.pa / 64 * 64 + i) 1) ∧
          (t.lineAt p.pa = none → t.inv →
            u.homeBytes p.home p.pa p.len = d ∧ u.lines = t.lines ∧
            ∀ a, (∀ i < 64, cellAddr (p.pa / 64 * 64 + i) ≠ a) → Mem.byte u.mem a = Mem.byte t.mem a)) ∧
    ∀ (n : Nat) (f : List Byte → Option (List Byte)) (cell : Bool) (p : Place), gReady h true false addr [(0, addr, n)] s = .ok ([p], t) →
      leafWb p.leaf.entry = false → s.now.probed = none →
      let v := match f (t.placeBytes p) with
        | some d => t.placeWrite p d
        | none => t
      ∃ u, gAtomic h addr n f cell s = .ok (t.placeBytes p, u) ∧ u.mem = v.mem ∧ ∀ q : Place, u.placeBytes q = v.placeBytes q

/-- Loads, stores and atomics in every space: the propositions above together. -/
def Obligations.AccessesInEverySpace : Prop :=
  LoadsAndStoresInEverySpace ∧ ScratchResultAndFrame ∧ GlobalAccessAtItsHome

/-- R183, R350, R351: FENCE leaves every register and byte as it is, and orders each store of its task that is held before every later access.
FJOIN enqueues a join of the operations in the queues of its core that its mask selects and of what has been pushed to the operator streams
that it selects, and waits for room; a mask with any other bit faults OPERAND_FORM. -/
def Sys2Proof.Machine.FenceAndJoin : Prop :=
  ∀ (f : Fields) (s : State), s.free f →
    (exec (.fence f) s = .next (s.ended { s.stepped with
      held := s.held.map fun h => if h.2.key = s.cur then (h.1, { h.2 with fence := true }) else h } .base f.h)) ∧
    ∀ (r : Fin 16) (lane : Fin 64) (mask : Word), f.d = .g r lane → s.plainWord f.a = some mask →
      (mask &&& ~~~0xFFFF003F ≠ 0 → exec (.fjoin f) s = .next (s.faultHere .operandForm mask)) ∧
      (mask &&& ~~~0xFFFF003F = 0 → s.unheld → engDepth 6 ≤ (s.engQueue s.now.core 6).length → exec (.fjoin f) s = .next (s.enterWait .engine)) ∧
      (mask &&& ~~~0xFFFF003F = 0 → s.engineRoom 6 → ∃ t ops streams, exec (.fjoin f) s = .next t ∧
        s.enqueued t r 6 (.join ops streams mask) ∧
        (∀ n, n ∈ ops ↔ ∃ o, (n, o) ∈ s.ops ∧ o.core = s.now.core ∧ o.qsel ≤ 5 ∧ mask.getLsbD o.qsel = true) ∧
        ∀ n c, (n, c) ∈ streams ↔ ∃ k : Fin 16, ∃ q, mask.getLsbD (16 + k.val) = true ∧ s.now.qregs[k].bound = some (n, true) ∧
          s.queue? n = some q ∧ (∃ o i, q.cons = .port o i) ∧ q.pushed = c)

/-- R352, R478: PREF never faults and changes no register, predicate or queue: under the leaf of its cluster's cache it makes the line present at
its home if its policy allocates; where the cache lacks the leaf a walk of the page then serves it, for
which it does not wait. CLWB and CLINV of a line that is present at its home write
its bytes back to the tier if it is dirty; CLWB keeps the line, clean, and CLINV drops it; what a load of the line reads does not change. A
line that is absent, or that has no home, stays as it is, and a poisoned line faults SRAM_ECC. -/
def Sys2Proof.Machine.LineOperations : Prop :=
  ∀ (f : Fields) (s : State) (b : Fin 16) (spc : Bool) (off : BitVec 16), f.a = .m b spc off → s.free f →
    let va := operandAddr s b off 1
    let cl := clusterOf s.now.core
    (∃ t, exec (.pref f) s = .next t ∧ s.endsOnly t f.h ∧
      (∀ l : Leaf, (s.engineTranslate (.pref va cl) cl (s.pnumOf s.now) va false).1 = .leaf l → noHome l.entry = false →
        s.allocates l.entry (l.homeAt va) false = true → (t.lineAt (l.pa va)).isSome = true) ∧
      ((s.engineTranslate (.pref va cl) cl (s.pnumOf s.now) va false).1 = .miss →
        ∃ e ∈ t.walks, e.2.serves (.pref va cl) (s.pnumOf s.now) va false = true)) ∧
    ∀ l : Leaf, s.xlated va true l → s.unheld →
      let line := l.pa va / 64
      (noHome l.entry = true →
        (∃ t, exec (.clwb f) s = .next t ∧ s.endsOnly t f.h ∧ t.lines = s.lines ∧ t.mem = s.mem) ∧
        ∃ t, exec (.clinv f) s = .next t ∧ s.endsOnly t f.h ∧ t.lines = s.lines ∧ t.mem = s.mem) ∧
      (noHome l.entry = false → s.inv →
        (s.poisoned (l.pa va) = true →
          s.faultsThere (.clwb f) .sramEcc (BitVec.ofNat 64 (l.pa va)) ∧
          s.faultsThere (.clinv f) .sramEcc (BitVec.ofNat 64 (l.pa va))) ∧
        ((∀ c, ∀ w ∈ (s.clusterAt c).writebacks, w.1 ≠ line) →
          (s.lines.look line = none →
            (∃ t, exec (.clwb f) s = .next t ∧ s.endsOnly t f.h ∧ t.lines = s.lines ∧ t.mem = s.mem) ∧
            ∃ t, exec (.clinv f) s = .next t ∧ s.endsOnly t f.h ∧ (∀ k, t.lines.look k = s.lines.look k) ∧ t.mem = s.mem) ∧
          ∀ ln : Line, s.lines.look line = some ln → ln.poison = false →
            let back := if ln.dirty then (List.range 64).map (lineByte ln.data) else s.tierBytes (line * 64) 64
            (∃ t, exec (.clwb f) s = .next t ∧ s.endsOnly t f.h ∧ t.lines = s.lines.put line { ln with dirty := false } ∧
              t.tierBytes (line * 64) 64 = back ∧
              ∀ a, (∀ i < 64, cellAddr (line * 64 + i) ≠ a) → Mem.byte t.mem a = Mem.byte s.mem a) ∧
            ∃ t, exec (.clinv f) s = .next t ∧ s.endsOnly t f.h ∧ t.lines = s.lines.del line ∧ t.tierBytes (line * 64) 64 = back ∧
              ∀ a, (∀ i < 64, cellAddr (line * 64 + i) ≠ a) → Mem.byte t.mem a = Mem.byte s.mem a))

/-- R44, R59, R353, R478: PROBE reports what a load would meet, and takes no fault: XLATE_MISS above the address space; of a page that its
instruction or its cluster's cache has the leaf of, the leaf's tier and policy, the line's presence and dirtiness, its home, and SRAM_ECC
where the line is poisoned or MM_RACE where a task's load of it would race; the fault that its own walk has met. It walks for a leaf that the cache lacks. In `.l` and `.s` it reports
XLATE_PERM with reason 2 outside what the core or the company has, and the presence of what they have. -/
def Sys2Proof.Machine.ProbeReports : Prop :=
  ∀ (f : Fields) (s : State) (b r : Fin 16) (lane : Fin 64) (spc : Bool) (off : BitVec 16), f.a = .m b spc off → f.d = .g r lane →
    s.free f →
    let va := operandAddr s b off 1
    let gives (w : Word) : Prop := ∃ u : State, u.uncounted = s.uncounted ∧ exec (.probe f) s = .next (u.after1 f.h fun x => x.withLane r lane w)
    (mSpace spc f.md.nsp = .g →
      (2 ^ 56 ≤ va → gives (BitVec.ofNat 64 FaultCode.xlateMiss.num)) ∧
      (va < 2 ^ 56 →
        (∀ c reason level, s.now.probed = some (c, reason, level) →
          gives (BitVec.ofNat 64 (c.num + if c = .xlatePerm then reason * 2 ^ 8 else 0))) ∧
        (s.now.probed = none →
          (∀ l : Leaf, s.xlated va false l → noHome l.entry = false →
            gives (BitVec.ofNat 64 ((if s.poisoned (l.pa va) then FaultCode.sramEcc.num
                else if s.now.task && leafPolicy l.entry != 3 && (s.lineAt (l.pa va)).any (fun ln =>
                  (raceCheck ln.stamp (gtidLaunch s.now.gtid) (gtidTag s.now.gtid) s.now.know
                    { mask := byteMask (l.pa va % 64) 1, write := false, sync := false }).isSome) then FaultCode.mmRace.num else 0) +
              (if (s.lineAt (l.pa va)).isSome then 2 ^ 10 else 0) + (if (s.lineAt (l.pa va)).any Line.dirty then 2 ^ 11 else 0) +
              leafTier l.entry * 2 ^ 12 + leafPolicy l.entry * 2 ^ 14 + (clusterCoord (l.homeAt va)).toNat * 2 ^ 16))) ∧
          (∀ l : Leaf, s.xlated va false l → ∃ w, gives w) ∧
          (s.now.leaves = [] → tlbFind (s.clusterAt (clusterOf s.now.core)).tlb (s.pnumOf s.now) va = none →
            exec (.probe f) s = .next (s.miss s.cur va false true))))) ∧
    (mSpace spc f.md.nsp = .l →
      ((s.coreAt s.now.core).localOk va 1 = false → gives (BitVec.ofNat 64 (FaultCode.xlatePerm.num + 2 * 2 ^ 8))) ∧
      ((s.coreAt s.now.core).localOk va 1 = true → (∀ e ∈ s.bad, localPa s.now.core va / 8 ≠ e / 8) → gives 0x400)) ∧
    (mSpace spc f.md.nsp = .s → ∀ cl n, s.scratchHome s.now.g[b] = some (cl, n) → va < 2 ^ 21 → (s.clusterAt cl).divertOf n = none →
      ((s.clusterAt cl).physBank n (va / 2 ^ 16 % 32) .scratch = none → gives (BitVec.ofNat 64 (FaultCode.xlatePerm.num + 2 * 2 ^ 8))) ∧
      ((s.scratchPa s.now.g[b] va 1).isSome = true → gives 0x400))

/-- FENCE, FJOIN, line operations and PROBE: the propositions above together. -/
def Obligations.FencesLinesAndProbes : Prop :=
  FenceAndJoin ∧ LineOperations ∧ ProbeReports

/-- R354, R355: the barrier operations on a barrier of the task's company, in its own cluster or in another. BARI writes EXPECT, clears ARRIVED and EPISODE and counts GEN
on; BARA adds an arrival and gives the episode it belongs to, the last arrival clearing ARRIVED and counting EPISODE on; BARW completes
when the episode is past and waits otherwise; BARS reads. No other byte and no other register changes. -/
def Sys2Proof.Machine.BarrierOperations : Prop :=
  ∀ (f : Fields) (s : State) (b : Fin 16) (spc : Bool) (off : BitVec 16) (pa : Nat), f.a = .m b spc off → mSpace spc f.md.nsp = .s →
    s.barrierAt b off = some pa → s.free f → s.inv → s.unlogged →
    (∀ v : Word, s.plainWord f.b = some v →
      (v = 0 ∨ 2 ^ 32 ≤ v.toNat → exec (.bari f) s = .next (s.faultHere .operandForm v)) ∧
      (v ≠ 0 → v.toNat < 2 ^ 32 → ∃ t, exec (.bari f) s = .next t ∧
        t.barRead pa = { expect := v.toNat, arrived := 0, episode := 0, gen := ((s.barRead pa).gen + 1) % 256 } ∧
        s.sameBut t pa 16 ∧ t.ctx s.cur = (s.after1 f.h fun x => x).ctx s.cur) ∧
      (episodeDone (s.barRead pa).episode (v.toNat % 2 ^ 32) = true → ∃ t, exec (.barw f) s = .next t ∧ t.mem = s.mem ∧
        t.now.g = s.now.g ∧ t.now.p = s.now.p ∧ t.now.pc = s.now.pc + 1 ∧ t.now.status = .idle ∧ s.sameBut t pa 0) ∧
      (episodeDone (s.barRead pa).episode (v.toNat % 2 ^ 32) = false →
        exec (.barw f) s = .next (s.enterWait .barrier))) ∧
    ∀ (r : Fin 16) (lane : Fin 64), f.d = .g r lane →
      (∃ t, exec (.bara f) s = .next t ∧
        t.barRead pa = (let w := s.barRead pa
          if w.expect ≤ w.arrived + 1 then { w with arrived := 0, episode := (w.episode + 1) % 2 ^ 32 }
          else { w with arrived := w.arrived + 1 }) ∧
        s.sameBut t pa 12 ∧ t.now.g = (s.now.withLane r lane (BitVec.ofNat 64 (s.barRead pa).episode)).g ∧ t.now.p = s.now.p ∧
        t.now.pc = s.now.pc + 1) ∧
      ∃ t, exec (.bars f) s = .next t ∧ t.mem = s.mem ∧ t.ctx s.cur = (s.after1 f.h fun x => x.withLane r lane
        (BitVec.ofNat 64 ((s.barRead pa).arrived * 2 ^ 32 + (s.barRead pa).episode))).ctx s.cur

/-- R166, R167, R168, R356: MSET writes a counter of the core and makes the executing task's company its owner, MCNT reads one, and MWAIT
takes its count from one that holds as much, behind the contexts that began to wait before, and waits otherwise, one of no count completing
at once; a MWAIT that completes clears the counter's carrier; the other counters stay. -/
def Sys2Proof.Machine.MailboxCounters : Prop :=
  ∀ (f : Fields) (s : State) (v : BitVec 21), f.a = .i v → s.free f → s.unlogged →
    let tag : Fin 16 := Fin.ofNat 16 v.toNat
    let m := (s.coreAt s.now.core).mail[tag]
    (∀ (r : Fin 16) (lane : Fin 64), f.d = .g r lane →
      exec (.mcnt f) s = .next (s.after1 f.h fun x => x.withLane r lane (m.count.setWidth 64))) ∧
    ∀ b : Word, s.plainWord f.b = some b →
      (∃ t, exec (.mset f) s = .next t ∧ (t.coreAt s.now.core).mail = (s.coreAt s.now.core).mail.set tag
          { m with count := b.setWidth 32, company := s.now.company, owned := s.now.task, cleared := false } ∧
        t.ctx s.cur = (s.after1 f.h fun x => x).ctx s.cur ∧ t.mem = s.mem) ∧
      (b.setWidth 32 = (0 : BitVec 32) → ∃ t, exec (.mwait f) s = .next t ∧
        (t.coreAt s.now.core).mail = (s.coreAt s.now.core).mail.set tag { m with carrier := .empty } ∧
        t.now.g = s.now.g ∧ t.now.p = s.now.p ∧ t.now.pc = s.now.pc + 1 ∧ t.now.status = .idle ∧ t.mem = s.mem) ∧
      (b.setWidth 32 ≠ (0 : BitVec 32) → s.unfenced →
        let first := m.waiters = [] ∨ m.waiters.head? = some s.cur
        (first → (b.setWidth 32).toNat ≤ m.count.toNat →
          ∃ t, exec (.mwait f) s = .next t ∧ (t.coreAt s.now.core).mail = (s.coreAt s.now.core).mail.set tag
              { m with count := m.count - b.setWidth 32, carrier := .empty, waiters := m.waiters.filter (· != s.cur) } ∧
            t.now.g = s.now.g ∧ t.now.p = s.now.p ∧ t.now.pc = s.now.pc + 1 ∧ t.now.status = .idle ∧ t.mem = s.mem) ∧
        (¬first ∨ m.count.toNat < (b.setWidth 32).toNat → ∃ t, exec (.mwait f) s = .next t ∧
          t.now.status = .waiting .mailbox ∧ t.now.pc = s.now.pc ∧ (t.coreAt s.now.core).mail = (s.coreAt s.now.core).mail.set tag
            { m with waiters := (t.coreAt s.now.core).mail[tag].waiters } ∧
          s.cur ∈ (t.coreAt s.now.core).mail[tag].waiters ∧ t.now.g = s.now.g ∧ t.now.p = s.now.p ∧ t.mem = s.mem))

/-- Barriers and mailbox counters: the propositions above together. -/
def Obligations.BarriersAndMailboxes : Prop :=
  BarrierOperations ∧ MailboxCounters

/-- R142, R150, R151, R155, R158: a queue register as a source pops the head entry and a window reads an entry without taking it; both wait for
entries that are not there, fault QCUE at a cue, NEIGHBOUR_FENCED at a fault marker and QUNBOUND at a register that is not a bound consumer
end. -/
def Sys2Proof.Machine.QueueSources : Prop :=
  ∀ (f : Fields) (s : State) (d r : Fin 16) (lane : Fin 64), f.d = .g d lane → f.md.ty = .none → s.free f →
    (f.a = .q r →
      ((∀ n, s.now.qregs[r].bound ≠ some (n, false)) →
        exec (.mov f) s = .next (s.faultHere .qunbound (queueTval r false 0 false 0 0))) ∧
      ∀ (n : Nat) (q : Queue), s.consumes r n q →
        (∀ c, q.markerAt = some (0, c) → exec (.mov f) s = .next (s.faultHere .neighbourFenced (queueTval r false 7 true c.toNat 0))) ∧
        ((∀ c, q.markerAt ≠ some (0, c)) →
        (q.entries = [] → exec (.mov f) s = .next (s.enterWait .queue)) ∧
        ∀ (e : Entry) (rest : List Entry), q.entries = e :: rest → q.inRing ≠ 0 →
          (e.kind = 0 → ∃ t, exec (.mov f) s = .next t ∧ t.now.g = s.now.g.set d e.payload ∧ t.queue? n = some (q.after1 rest) ∧
            (q.tagged = true → t.now.qregs[r].latch = e.tag.toNat) ∧ t.now.p = s.now.p ∧ t.mem = s.mem ∧
            (∀ m, m ≠ n → t.queue? m = s.queue? m)) ∧
          (e.kind ≠ 0 → e.fmark = false →
            exec (.mov f) s = .next (s.faultHere .qcue (queueTval r false e.kind.val false 0 0))))) ∧
    ∀ k : Fin 16, f.a = .w r k →
      ((∀ n, s.now.qregs[r].bound ≠ some (n, false)) →
        exec (.mov f) s = .next (s.faultHere .qunbound (queueTval r false 0 false 0 k.val))) ∧
      ∀ (n : Nat) (q : Queue), s.consumes r n q →
      (q.view.length ≤ k.val → exec (.mov f) s = .next (s.enterWait .queue)) ∧
      (∀ e, k.val < q.view.length → (q.view.take (k.val + 1)).find? (fun e => e.kind != 0) = some e →
        exec (.mov f) s = .next (if e.fmark then s.faultHere .neighbourFenced (queueTval r false e.kind.val true (e.payload.toNat % 2 ^ 16) k.val)
          else s.faultHere .qcue (queueTval r false e.kind.val false 0 k.val))) ∧
      ((∀ e ∈ q.view.take (k.val + 1), e.kind = 0) → ∀ e, q.view[k.val]? = some e →
        ∃ t, exec (.mov f) s = .next t ∧ t.now.g = s.now.g.set d e.payload ∧ t.queue? n = some { q with carrier := .empty } ∧
          t.now.p = s.now.p ∧ t.mem = s.mem ∧ ∀ m, m ≠ n → t.queue? m = s.queue? m)

/-- R149, R151, R160, R161, R163: a queue register as a destination pushes one entry and spends one credit, and waits where there is none; a
window writes its buffer and leaves the queue as it is. A push while the window holds a write faults OPERAND_FORM, one to a fenced
neighbour NEIGHBOUR_FENCED. -/
def Sys2Proof.Machine.QueueDestinations : Prop :=
  ∀ (f : Fields) (s : State) (r : Fin 16) (v : Vec), s.plainVec f.a = some v → f.md.ty = .none → s.free f →
    (f.d = .q r →
      ((∀ n, s.now.qregs[r].bound ≠ some (n, true)) →
        exec (.mov f) s = .next (s.faultHere .qunbound (queueTval r true 0 false 0 0))) ∧
      (∀ n c, s.now.qregs[r].bound = some (n, true) → (s.queue? n).isSome = true → s.now.qregs[r].fenced = some c →
        exec (.mov f) s = .next (s.faultHere .neighbourFenced (queueTval r true 0 false c.toNat 0))) ∧
      ∀ (n : Nat) (q : Queue), s.produces r n q →
        (s.now.qregs[r].wpend ≠ 0 → exec (.mov f) s = .next (s.faultHere .operandForm (queueTval r true 0 false 0 0))) ∧
        (s.now.qregs[r].wpend = 0 → q.discards = false → q.credits = 0 → exec (.mov f) s = .next (s.enterWait .credit)) ∧
        (s.now.qregs[r].wpend = 0 → q.discards = false → 1 ≤ q.credits →
          ∃ t, exec (.mov f) s = .next t ∧ t.queue? n = some (q.with1 s v 0) ∧ s.queueFrame t n)) ∧
    ∀ (k : Fin 16) (n : Nat) (q : Queue), f.d = .w r k → s.produces r n q →
      ∃ t, exec (.mov f) s = .next t ∧ t.queues = s.queues ∧ s.queueFrame t n ∧
        t.now.qregs[r] = { s.now.qregs[r] with window := s.now.qregs[r].window.put k.val (q.fit v),
                                               wpend := max s.now.qregs[r].wpend (k.val + 1) }

/-- R152, R302: an integer instruction reads A, then B, in any form of a source, and writes its result in any form of a destination; one that
pushes finds everything it takes from queues, in the order A, B, D, before it has any effect. -/
def Sys2Proof.Machine.IntegerOperandsInEveryForm : Prop :=
  (∀ e ∈ twoSource, ∀ (f : Fields) (s : State) (r : Fin 16) (n : Nat) (q : Queue) (a b : Word), f.d = .q r → s.plainWord f.a = some a →
    s.plainWord f.b = some b → s.free f → s.produces r n q → s.now.qregs[r].wpend = 0 → q.discards = false → 1 ≤ q.credits →
      let w := (tyInfo f.md.ty e.2.1).1
      let sg := (tyInfo f.md.ty e.2.1).2
      ∃ t, exec (e.1 f) s = .next t ∧ t.queue? n = some (q.with1 s ((intWord w sg (e.2.2 w sg a b)).setWidth 256) 0) ∧ s.queueFrame t n) ∧
  (∀ e ∈ twoSource, ∀ (f : Fields) (s s1 s2 t : State) (a b : Word) (sg : Sig), s.free f → (e.1 f).sig? = some (f, sg) →
    (isQueueField f.d = true → queuesReady sg f s.stepped = .ok ((), s.stepped)) →
    src64 f.a s.stepped = .ok (a, s1) → src64 f.b s1 = .ok (b, s2) →
      (let w := (tyInfo f.md.ty e.2.1).1
       let sg := (tyInfo f.md.ty e.2.1).2
       writeWord f.d (intWord w sg (e.2.2 w sg a b)) s2 = .ok ((), t) → exec (e.1 f) s = .next (s.ended t .base f.h))) ∧
  ∀ e ∈ oneSource, ∀ (f : Fields) (s s1 t : State) (a : Word) (sg : Sig), s.free f → (e.1 f).sig? = some (f, sg) →
    (isQueueField f.d = true → queuesReady sg f s.stepped = .ok ((), s.stepped)) →
    src64 f.a s.stepped = .ok (a, s1) →
      (let w := (tyInfo f.md.ty (64, true)).1
       let sg := (tyInfo f.md.ty (64, true)).2
       writeWord f.d (intWord w sg (e.2 w sg a)) s1 = .ok ((), t) → exec (e.1 f) s = .next (s.ended t .base f.h))

/-- Queue operands of integer instructions in every form: the propositions above together. -/
def Obligations.OperandsFromQueues : Prop :=
  QueueSources ∧ QueueDestinations ∧ IntegerOperandsInEveryForm

/-- R143, R145, R359, R360: QBIND of a queue of the task's launch whose end is unbound binds it, a consumer end once it is placed, pins the
task and writes 0; it writes 1 for a register that is bound, 2 for an end that is bound, 3 where no storage is left (and, the model's choice of
log entry 115, for a queue of an operator of another die) and 4 for an unknown number. QFREE frees the end that its register is bound to, and the storage with the second end. -/
def Obligations.QueueEnds : Prop :=
  ∀ (f : Fields) (s : State) (r : Fin 16), f.a = .q r → s.free f →
    (∀ (d : Fin 16) (lane : Fin 64) (w : Word), f.d = .g d lane → s.plainWord f.b = some w →
      (w &&& ~~~0x1FFF ≠ 0 → exec (.qbind f) s = .next (s.faultHere .operandForm w)) ∧
      (w &&& ~~~0x1FFF = 0 →
        (s.now.qregs[r].bound.isSome = true → exec (.qbind f) s = .next (s.after1 f.h fun x => x.withLane d lane 1)) ∧
        (s.now.qregs[r].bound = none →
          s.launches.look (launchKey (gtidPnum s.now.gtid) (gtidLaunch s.now.gtid)) = none →
            exec (.qbind f) s = .next (s.after1 f.h fun x => x.withLane d lane 4)) ∧
        (s.now.qregs[r].bound = none → ∀ l : Launch,
          s.launches.look (launchKey (gtidPnum s.now.gtid) (gtidLaunch s.now.gtid)) = some l →
          (l.queues.look (w.extractLsb' 0 12).toNat = none → exec (.qbind f) s = .next (s.after1 f.h fun x => x.withLane d lane 4)) ∧
          ∀ (n : Nat) (q : Queue), l.queues.look (w.extractLsb' 0 12).toNat = some n → s.queue? n = some q →
            ((if w.getLsbD 12 then q.prod else q.cons).isBound = true →
              exec (.qbind f) s = .next (s.after1 f.h fun x => x.withLane d lane 2)) ∧
            ((if w.getLsbD 12 then q.prod else q.cons).isBound = false →
              (if w.getLsbD 12 then q.cons else q.prod).acrossDies s.now.core = true →
                exec (.qbind f) s = .next (s.after1 f.h fun x => x.withLane d lane 3)) ∧
            ((if w.getLsbD 12 then q.cons else q.prod).acrossDies s.now.core = false →
            (w.getLsbD 12 = true → q.prod.isBound = false → ∃ t, exec (.qbind f) s = .next t ∧
              t.queue? n = some { q with prod := .task s.cur r } ∧
              t.now.qregs[r] = { QReg.unbound with bound := some (n, true) } ∧
              t.now.g = (s.now.withLane d lane 0).g ∧ t.now.pinned = (s.now.pinned || s.now.task) ∧ t.mem = s.mem) ∧
            (w.getLsbD 12 = false → q.cons.isBound = false → ∀ place,
              (s.stepped.updQueue n fun q => { q with place := .unplaced }).placeFor q s.now.next = place →
                (place = none → exec (.qbind f) s = .next (s.after1 f.h fun x => x.withLane d lane 3)) ∧
                ∀ p, place = some p → ∃ t, exec (.qbind f) s = .next t ∧
                  t.queue? n = some ({ q with
                    place := p, cons := .task s.cur r, discards := false,
                    credits := (match p with
                      | .core _ => q.depth
                      | _ => q.depth + q.ext * 65536 / q.imageSize) } : Queue) ∧
                  t.now.qregs[r] = { QReg.unbound with bound := some (n, false) } ∧
                  t.now.g = (s.now.withLane d lane 0).g ∧ t.now.pinned = (s.now.pinned || s.now.task) ∧ t.mem = s.mem))))) ∧
    (s.now.qregs[r].bound = none → exec (.qfree f) s = .next (s.faultHere .qunbound (queueTval r false 0 false 0 0))) ∧
    (∀ (n : Nat) (q : Queue), s.consumes r n q → ∃ t, exec (.qfree f) s = .next t ∧ t.queue? n = some q.freeCons.reclaim ∧
      t.now.qregs[r] = .unbound ∧ s.queueFrame t n) ∧
    ∀ (n : Nat) (q : Queue), s.now.qregs[r].bound = some (n, true) → s.queue? n = some q →
      (∀ e ∈ s.ops, ∀ c a x l k g, e.2.body ≠ .toQueue c a x l k n g) → ∃ t, exec (.qfree f) s = .next t ∧
      t.queue? n = some q.freeProd.reclaim ∧
      t.now.qregs[r] = .unbound ∧ s.queueFrame t n

/-- R158 to R163, R325, R361, R362: QADV takes data entries, and faults QCUE at any other, a fault marker too; QCOM publishes the window in order of its offsets, QWAIT takes nothing, QCUE pushes
a cue of its kind, QSKIP removes the head of any kind, a fault marker too, with its sideband, QLEN reads the status word, and BQC takes a cue of its kind and
branches, branches without taking a cue of a higher kind, and goes on at data. -/
def Obligations.QueueInstructions : Prop :=
  ∀ (f : Fields) (s : State) (r : Fin 16) (n : Nat) (q : Queue), s.free f →
    (f.a = .q r → (∀ m, s.now.qregs[r].bound ≠ some (m, false)) →
      let unbound := s.faultHere .qunbound (queueTval r false 0 false 0 0)
      exec (.qadv f) s = .next unbound ∧ exec (.qskip f) s = .next unbound ∧
        (s.now.qregs[r].bound = none → exec (.qwait f) s = .next unbound) ∧
        ∀ k off : BitVec 21, f.d = .i k → f.b = .i off → exec (.bqc f) s = .next unbound) ∧
    (f.a = .q r → s.consumes r n q → ∀ c : Coord, q.markerAt = some (0, c) →
      (∀ (d : Fin 16) (lane : Fin 64) (p : Fin 8), f.d = .g d lane → f.b = .p p → ∃ t, exec (.qskip f) s = .next t ∧
        t.queue? n = some { q with marker := none, carrier := .empty } ∧ t.now.g = s.now.g.set d (c.setWidth 256) ∧
        t.now.p = (s.now.setPred p 15).p ∧ t.now.pc = s.now.pc + 1 ∧ t.mem = s.mem) ∧
      (∀ v : BitVec 21, f.b = .i v → v.toNat ≠ 0 → v.toNat ≤ q.entries.length + 1 →
        exec (.qadv f) s = .next (s.faultHere .qcue (queueTval r false 7 true 0 0))) ∧
      ∀ k off : BitVec 21, f.d = .i k → f.b = .i off →
        exec (.bqc f) s = .next (s.faultHere .neighbourFenced (queueTval r false 7 true c.toNat 0))) ∧
    (f.a = .q r → s.consumes r n q → q.marker = none →
      (∀ v : BitVec 21, f.b = .i v → v.toNat ≤ q.entries.length →
        ((∀ e ∈ q.entries.take v.toNat, e.kind = 0) → ∃ t, exec (.qadv f) s = .next t ∧ s.queueFrame t n ∧
          t.queue? n = some { q with entries := q.entries.drop v.toNat, inRing := q.inRing - v.toNat,
                                     returning := q.returning + v.toNat, taken := q.taken + v.toNat, carrier := .empty,
                                     knows := q.knows.drop v.toNat }) ∧
        exec (.qwait f) s = .next (s.after1 f.h fun x => x)) ∧
      (∀ v : BitVec 21, f.b = .i v → q.entries.length < v.toNat →
        exec (.qadv f) s = .next (s.enterWait .queue) ∧ exec (.qwait f) s = .next (s.enterWait .queue)) ∧
      ∀ (e : Entry) (rest : List Entry), q.entries = e :: rest → q.inRing ≠ 0 →
        (∀ (d : Fin 16) (lane : Fin 64) (p : Fin 8), f.d = .g d lane → f.b = .p p → ∃ t, exec (.qskip f) s = .next t ∧
          t.queue? n = some (q.after1 rest) ∧ t.now.g = s.now.g.set d e.payload ∧
          t.now.p = (s.now.setPred p (BitVec.ofNat 64 (e.kind.val + (if e.fmark then 8 else 0) + e.tag.toNat * 2 ^ 8))).p ∧
          t.now.pc = s.now.pc + 1 ∧ t.mem = s.mem) ∧
        ∀ k off : BitVec 21, f.d = .i k → f.b = .i off → e.fmark = false →
          (e.kind = 0 → exec (.bqc f) s = .next (s.after1 f.h fun x => x)) ∧
          (e.kind.val = k.toNat → e.kind ≠ 0 → ∃ t, exec (.bqc f) s = .next t ∧ t.queue? n = some (q.after1 rest) ∧
            t.now.pc = s.now.pc + off.signExtend 32 ∧ t.now.g = s.now.g ∧ t.now.p = s.now.p ∧ t.mem = s.mem) ∧
          (k.toNat < e.kind.val → e.kind ≠ 0 →
            exec (.bqc f) s = .next (s.after1 f.h fun x => { x with pc := s.now.pc + off.signExtend 32 })) ∧
          (e.kind.val < k.toNat → e.kind ≠ 0 →
            exec (.bqc f) s = .next (s.faultHere .qcue (queueTval r false e.kind.val false 0 0)))) ∧
    (f.d = .q r → s.produces r n q → q.discards = false →
      (∀ v : BitVec 21, f.a = .i v → v.toNat ≤ q.credits → ∃ t, exec (.qcom f) s = .next t ∧ s.queueFrame t n ∧
        t.queue? n = some ((List.range v.toNat).foldl (fun q k => q.with1 s (s.now.qregs[r].window.getD k 0) 0) q) ∧
        t.now.qregs[r] = s.now.qregs[r].publish v.toNat) ∧
      (∀ v : BitVec 21, f.a = .i v → q.credits < v.toNat → exec (.qcom f) s = .next (s.enterWait .credit)) ∧
      ∀ (v : Vec) (c : BitVec 21), ((∃ g lane, f.a = .g g lane ∧ v = if lane = 0 then s.now.g[g] else (laneOf s.now.g[g] lane.val).setWidth 256) ∨
          ∃ i : BitVec 21, f.a = .i i ∧ v = (i.signExtend 64).setWidth 256) → f.b = .i c → c.toNat < 8 → 1 ≤ q.credits →
        s.now.qregs[r].wpend = 0 →
          ∃ t, exec (.qcue f) s = .next t ∧ t.queue? n = some (q.with1 s v (Fin.ofNat 8 c.toNat)) ∧ s.queueFrame t n) ∧
    (f.a = .q r → s.produces r n q → ∀ v : BitVec 21, f.b = .i v →
      (v.toNat ≤ q.credits → exec (.qwait f) s = .next (s.after1 f.h fun x => x)) ∧
      (q.credits < v.toNat → exec (.qwait f) s = .next (s.enterWait .credit))) ∧
    ∀ (d : Fin 16) (lane : Fin 64), f.d = .g d lane → f.a = .q r →
      exec (.qlen f) s = .next (s.after1 f.h fun x => x.withLane d lane (s.queueWord s.now.qregs[r]))

/-- R304, R339, R341, R364, R369: a pending handle in a register holds every instruction that names the register in any field, whatever its form, and
a SPAWN that copies it, but for FTEST, FCANCEL and FEXPORT of it; FWAIT waits for it, FTEST gives 0
for it, 1 for a value and 3 for a fault or a cancellation, a read of which faults FUT_FAULT with the register's value, its observation
made; FWAIT, FTEST and a read observe a future that has ended. FCANCEL of a pending operation of the core that is no join makes it
CANCELLED, and has no other effect. -/
def Sys2Proof.Machine.FuturesInRegisters : Prop :=
  (∀ (i : Instr) (f : Fields) (sg : Sig) (s : State) (r : Fin 16), i.sig? = some (f, sg) → fieldsPass i s → hasExt s.now.core sg.ext = true →
    s.now.guard f.h = true → ((∀ g, i ≠ .tret g ∧ i ≠ .ovret g ∧ i ≠ .gets g ∧ i ≠ .sets g) ∨ s.now.task = false) →
    (∀ e ∈ formatsAccepted, i = e.1 f → s.now.fmtCode ∈ e.2) → s.now.ft[r] = 1 →
    regOf f.d = some r ∨ regOf f.b = some r ∨ (regOf f.a = some r ∧ i ≠ .fwait f ∧ i ≠ .ftest f ∧ i ≠ .fcancel f ∧ i ≠ .fexport f) →
      exec i s = .next ((s.pinFor sg.ext).enterWait .future)) ∧
  (∀ (f : Fields) (s : State) (w : Word) (r : Fin 16) (co : Company), s.plainWord f.a = some w → s.free f → w.extractLsb' 32 32 = 0 →
    noEntry s w = false → (w.extractLsb' 22 4).toNat + (w.extractLsb' 26 5).toNat ≤ 16 →
    (let core := if w.extractLsb' 0 16 = (0xFFFF : BitVec 16) then s.now.core else w.extractLsb' 0 16
     (coordValid core && (s.part (s.pnumOf s.now)).pitch.getLsbD (clusterOf core)) = true ∧ s.groupCompany? s.now (clusterOf core) = some co) →
    (w.extractLsb' 22 4).toNat ≤ r.val → r.val < (w.extractLsb' 22 4).toNat + (w.extractLsb' 26 5).toNat → s.now.ft[r] = 1 →
      exec (.spawn f) s = .next (s.enterWait .future)) ∧
  ∀ (f : Fields) (s : State) (r : Fin 16) (lane : Fin 64), f.a = .g r lane → s.now.guard f.h = true → s.now.settled f.d → s.now.settled f.b →
    (s.now.ft[r] = 1 → exec (.fwait f) s = .next (s.enterWait .future)) ∧
    (s.now.ft[r] = 0 → s.observes r →
      exec (.fwait f) s = .next (s.ended (s.stepped.observed r) .base f.h) ∧
      ∀ e ∈ twoSource, ∀ (d : Fin 16) (dl : Fin 64) (b : Word), f.d = .g d dl → s.plainWord f.b = some b →
        let w := (tyInfo f.md.ty e.2.1).1
        let sg := (tyInfo f.md.ty e.2.1).2
        exec (e.1 f) s = .next (s.ended ((s.stepped.observed r).updCtx s.cur fun x => x.withLane d dl
          (intWord w sg (e.2.2 w sg (laneOf s.now.g[r] lane.val) b))) .base f.h)) ∧
    (s.now.ft[r] = 2 ∨ s.now.ft[r] = 3 → s.observes r →
      exec (.fwait f) s = .next ((s.observed r).faultHere .futFault (s.now.g[r].setWidth 64)) ∧
      exec (.add f) s = .next ((s.observed r).faultHere .futFault (s.now.g[r].setWidth 64))) ∧
    (∀ p : Fin 8, f.d = .p p →
      (s.now.ft[r] = 1 → exec (.ftest f) s = .next (s.after1 f.h fun x => x.setPred p 0)) ∧
      (s.now.ft[r] ≠ 1 → s.observes r → exec (.ftest f) s =
        .next (s.ended ((s.stepped.observed r).updCtx s.cur fun x => x.setPred p (if s.now.ft[r] = 0 then 1 else 3)) .base f.h))) ∧
    (s.now.ft[r] ≠ 1 → exec (.fcancel f) s = .next (s.after1 f.h fun x => x)) ∧
    (s.now.ft[r] = 1 → exec (.fcancel f) s = .next (match s.opOf (s.now.g[r].setWidth 64) with
      | some (n, o) => if o.qsel ≠ 6 ∧ o.core = s.now.core then
          s.ended { s.stepped with ops := s.ops.put n { o with result := some .cancelled } } .base f.h
        else s.after1 f.h fun x => x
      | none => s.after1 f.h fun x => x))

/-- R363, R365, R366: FINIT writes a PENDING cell with its join count and a zero value; FRES of a PENDING cell adds its value and counts the join
down, the last making the cell RESOLVED; FFAIL makes it FAILED with its code; each starts a continuation that is registered when the cell
ends, and faults DOUBLE_RESOLVE with the state word at a cell that is not PENDING. -/
def Sys2Proof.Machine.FutureCells : Prop :=
  ∀ (f : Fields) (s : State) (b : Fin 16) (spc : Bool) (off : BitVec 16) (v : Word) (l : Leaf), f.d = .m b spc off → mSpace spc f.md.nsp = .g →
    s.plainWord f.a = some v → s.free f →
    let addr := operandAddr s b off 16
    let c := cellOf (s.cellBytes addr l)
    (v = 0 ∨ 63 < v.toNat → addr % 16 = 0 → exec (.finit f) s = .next (s.faultHere .operandForm v)) ∧
    (addr % 16 ≠ 0 → exec (.finit f) s = .next (s.faultHere .align (BitVec.ofNat 64 addr)) ∧
      exec (.fres f) s = .next (s.faultHere .align (BitVec.ofNat 64 addr)) ∧
      exec (.ffail f) s = .next (s.faultHere .align (BitVec.ofNat 64 addr))) ∧
    (v ≠ 0 → v.toNat ≤ 63 → s.cellReady
        { write := true, atomic := false, acquire := false, release := false, na := false, ar := false, mig := f.h.mig,
          scope := s.now.g[b].extractLsb' 64 32 } false addr l →
      ∃ t, exec (.finit f) s = .next t ∧
        s.cellUpdated t addr l ({ fcode := 0, cont := 0, join := v.toNat, state := 0, val := 0 }, false)) ∧
    (s.cellReady
        { write := true, atomic := true, acquire := false, release := true, na := false, ar := false, mig := f.h.mig,
          scope := s.now.g[b].extractLsb' 64 32 } true addr l →
      (c.state = 0 →
        (∃ t, exec (.fres f) s = .next t ∧ s.cellUpdated t addr l
          (if c.join ≤ 1 then ({ c with val := (c.val + v.toNat) % 2 ^ 64, state := 1, join := 0 }, c.cont != 0)
           else ({ c with val := (c.val + v.toNat) % 2 ^ 64, join := c.join - 1 }, false))) ∧
        ∃ t, exec (.ffail f) s = .next t ∧
          s.cellUpdated t addr l ({ c with state := 2, join := 0, fcode := v.toNat % 2 ^ 32 }, c.cont != 0)) ∧
      (c.state ≠ 0 →
        s.faultsThere (.fres f) .doubleResolve (BitVec.ofNat 64 c.word) ∧ s.faultsThere (.ffail f) .doubleResolve (BitVec.ofNat 64 c.word)))

/-- R341, R368: FEXPORT of a pending handle names the cell that its operation will update, once; of one that has ended it observes the future and
updates the cell itself: FRES with the value, FFAIL with the code, or the cancellation. It faults ALIGN at an address that is not aligned,
OPERAND_FORM at a second cell and at a register that holds no handle, and DOUBLE_RESOLVE at a cell that is not PENDING. -/
def Sys2Proof.Machine.ExportedFutures : Prop :=
  ∀ (f : Fields) (s : State) (b r : Fin 16) (spc : Bool) (off : BitVec 16) (lane : Fin 64), f.d = .m b spc off → mSpace spc f.md.nsp = .g →
    f.a = .g r lane → s.now.guard f.h = true → s.now.settled f.d → s.now.settled f.b →
    let addr := operandAddr s b off 16
    let word : Word := s.now.g[r].setWidth 64
    let known : Bool := s.now.ft[r] = 2 || s.now.ft[r] = 3 || word.extractLsb' 62 2 = (1 : BitVec 2)
    (addr % 16 ≠ 0 → exec (.fexport f) s = .next (s.faultHere .align (BitVec.ofNat 64 addr))) ∧
    (addr % 16 = 0 → s.now.ft[r] = 1 → exec (.fexport f) s = .next (match s.ops.find? fun e => e.2.handle == word with
      | some (n, o) => if o.exportTo.isSome then s.faultHere .operandForm word else
          s.ended { s.stepped with
            ops := (s.ops.put n { o with exportTo := some { va := addr, scope := s.now.g[b].extractLsb' 64 32 } }) } .base f.h
      | none => s.after1 f.h fun x => x)) ∧
    (addr % 16 = 0 → s.now.ft[r] = 0 → known = false → s.observes r → exec (.fexport f) s = .next (s.faultHere .operandForm word)) ∧
    (s.now.ft[r] ≠ 1 → known = true → ∀ l : Leaf,
      let u := s.observed r
      let c := cellOf (s.cellBytes addr l)
      u.cellReady { write := true, atomic := true, acquire := false, release := true, na := false, ar := false, mig := f.h.mig,
                    scope := s.now.g[b].extractLsb' 64 32 } true addr l →
        (c.state ≠ 0 → s.faultsThere (.fexport f) .doubleResolve (BitVec.ofNat 64 c.word)) ∧
        (c.state = 0 → ∃ t, exec (.fexport f) s = .next t ∧ u.cellUpdated t addr l (
          if s.now.ft[r] = 2 then ({ c with state := 2, join := 0, fcode := word.toNat % 2 ^ 32 }, c.cont != 0)
          else if s.now.ft[r] = 3 then ({ c with state := 3, join := 0 }, c.cont != 0)
          else if c.join ≤ 1 then ({ c with val := (c.val + word.toNat % 2 ^ 32) % 2 ^ 64, state := 1, join := 0 }, c.cont != 0)
          else ({ c with val := (c.val + word.toNat % 2 ^ 32) % 2 ^ 64, join := c.join - 1 }, false))))

/-- Futures in registers, cells and exports: the propositions above together. -/
def Obligations.FuturesAndCells : Prop :=
  FuturesInRegisters ∧ FutureCells ∧ ExportedFutures

/-- R213, R219, R220, R369: SPAWN sends a new task to a core on which its group holds a slot, with the entry's PC and the registers its word
names, and writes the task's GTID; a word with a reserved bit, a range past g15 or an entry that the image lacks faults OPERAND_FORM, with the
field's tval for the entry of an immediate and with the word otherwise, a core
that is invalid or outside the pitch SCOPE, and a cluster where the group has no company NO_CLAIM. -/
def Sys2Proof.Machine.SpawnMakesTask : Prop :=
  ∀ (f : Fields) (s : State) (d : Fin 16) (lane : Fin 64) (w : Word), f.d = .g d lane → s.plainWord f.a = some w → s.free f →
    s.now.task = true →
    (let lacks : Prop := ∀ im, s.images.look s.now.img.toNat = some im → im.entries.length ≤ (w.extractLsb' 16 6).toNat
     let imm : Prop := ∃ v, f.a = .i v
     (lacks → imm → exec (.spawn f) s = .next (s.faultHere .operandForm (DecErr.form 0 1 (operandRaw f.a 0)).tval)) ∧
     (lacks ∧ ¬imm ∨ ¬lacks ∧ (w.extractLsb' 32 32 ≠ 0 ∨ 16 < (w.extractLsb' 22 4).toNat + (w.extractLsb' 26 5).toNat) →
       exec (.spawn f) s = .next (s.faultHere .operandForm w))) ∧
    (∀ im, s.images.look s.now.img.toNat = some im → (w.extractLsb' 16 6).toNat < im.entries.length → w.extractLsb' 32 32 = 0 →
      (w.extractLsb' 22 4).toNat + (w.extractLsb' 26 5).toNat ≤ 16 →
      let core := if w.extractLsb' 0 16 = (0xFFFF : BitVec 16) then s.now.core else w.extractLsb' 0 16
      let ok := coordValid core && (s.part (s.pnumOf s.now)).pitch.getLsbD (clusterOf core)
      (ok = false → exec (.spawn f) s = .next (s.faultHere .scope (core.setWidth 64))) ∧
      (ok = true → s.groupCompany? s.now (clusterOf core) = none → exec (.spawn f) s = .next (s.faultHere .noClaim (core.setWidth 64)))) ∧
    ∀ (core : Coord) (slot : Nat) (im : Image) (co : Company), s.spawnReady w core slot im co →
      ∃ t x, exec (.spawn f) s = .next t ∧ s.spawned w core slot im co x ∧ x.status = .idle ∧
        t.pkts = s.pkts.put s.fresh (.spawn x core) ∧ t.now.g = (s.now.withLane d lane x.gtid).g ∧ t.now.p = s.now.p ∧
        t.now.pc = s.now.pc + 1 ∧ t.mem = s.mem ∧ t.queues = s.queues ∧ ∀ k, k ≠ s.cur → t.ctx k = s.ctx k

/-- R366, R367: FWHEN parks a new task and, where the cell is PENDING, registers it as the cell's continuation; where the cell has ended the task
is started at once. It writes the task's GTID; at a cell that has a continuation it faults OPERAND_FORM with the state word, and at an
address that is not aligned ALIGN. -/
def Sys2Proof.Machine.ContinuationOfCell : Prop :=
  ∀ (f : Fields) (s : State) (b d : Fin 16) (spc : Bool) (off : BitVec 16) (lane : Fin 64) (w : Word) (l : Leaf), f.a = .m b spc off →
    mSpace spc f.md.nsp = .g → f.d = .g d lane → s.plainWord f.b = some w → s.free f → s.now.task = true →
    let addr := operandAddr s b off 16
    let c := cellOf (s.cellBytes addr l)
    (addr % 16 ≠ 0 → exec (.fwhen f) s = .next (s.faultHere .align (BitVec.ofNat 64 addr))) ∧
    (s.cellReady { write := true, atomic := true, acquire := true, release := false, na := false, ar := false, mig := f.h.mig,
                   scope := s.now.g[b].extractLsb' 64 32 } true addr l →
      ∀ (core : Coord) (slot : Nat) (im : Image) (co : Company), s.spawnReady w core slot im co →
        (c.cont ≠ 0 → s.faultsThere (.fwhen f) .operandForm (BitVec.ofNat 64 c.word)) ∧
        (c.cont = 0 → ∃ t x, exec (.fwhen f) s = .next t ∧ s.spawned w core slot im co x ∧ x.status = .parked ∧
          t.cellBytes addr l = { c with cont := (gtidIndex x.gtid).toNat }.bytes ∧
          (c.state = 0 → t.pkts = s.pkts.put s.fresh (.spawn x core)) ∧
          (c.state ≠ 0 → ∃ k, t.pkts = (s.pkts.put s.fresh (.spawn x core)).put (s.fresh + 1)
            (.start (indexCore (gtidIndex x.gtid).toNat) (gtidIndex x.gtid).toNat (some k))) ∧
          t.now.g = (s.now.withLane d lane x.gtid).g ∧ t.now.p = s.now.p ∧ t.now.pc = s.now.pc + 1))

/-- R223, R224, R225, R370: MIGRATE to its own core writes 0; to a core where its group has a free slot it leaves for it, with 0 in its
destination; a migration that is refused writes its code where the word says so and faults MIGRATE_DENIED or NO_CLAIM otherwise, and one
within its cluster for which no slot is free waits where the word does not say so. -/
def Sys2Proof.Machine.MigrateMovesTask : Prop :=
  ∀ (f : Fields) (s : State) (d : Fin 16) (lane : Fin 64) (w : Word), f.d = .g d lane → s.plainWord f.a = some w → s.free f →
    s.now.task = true →
    (w.extractLsb' 17 47 ≠ 0 → exec (.migrate f) s = .next (s.faultHere .operandForm w)) ∧
    (w.extractLsb' 17 47 = 0 →
      let core := if w.extractLsb' 0 16 = (0xFFFF : BitVec 16) then s.now.core else w.extractLsb' 0 16
      coordValid core = true → (s.part (s.pnumOf s.now)).pitch.getLsbD (clusterOf core) = true →
        (core = s.now.core → exec (.migrate f) s = .next (s.after1 f.h fun x => Ctx.withLane { x with streak := none } d lane 0)) ∧
        (core ≠ s.now.core → s.migrateCode core ≠ 0 →
          exec (.migrate f) s = .next (if w.getLsbD 16 then
              s.after1 f.h fun x => Ctx.withLane { x with streak := none } d lane (BitVec.ofNat 64 (s.migrateCode core))
            else if s.migrateCode core = 6 then s.faultHere .noClaim (core.setWidth 64)
            else s.faultHere .migrateDenied (BitVec.ofNat 64 (s.migrateCode core)))) ∧
        (core ≠ s.now.core → s.migrateCode core = 0 → s.now.asyncs = [] → clusterOf core = clusterOf s.now.core →
          s.heldSlot (clusterOf core) s.now.company.toNat core = none →
            exec (.migrate f) s = .next (if w.getLsbD 16 then s.after1 f.h fun x => Ctx.withLane { x with streak := none } d lane 4
              else s.enterWait .box)) ∧
        (core ≠ s.now.core → s.migrateCode core = 0 → s.now.asyncs = [] → s.myReq (clusterOf core) (.slot core) = none →
          ∀ slot, s.heldSlot (clusterOf core) s.now.company.toNat core = some slot →
            ∃ t, exec (.migrate f) s = .next t ∧ (t.ctx s.cur).status = .transit s.now.core ∧ (t.ctx s.cur).core = core ∧
              (t.ctx s.cur).slot = Fin.ofNat 16 slot ∧ (t.ctx s.cur).pc = s.now.pc + 1 ∧
              (t.ctx s.cur).g = (s.now.withLane d lane 0).g ∧ (t.ctx s.cur).p = s.now.p ∧ t.mem = s.mem))

/-- SPAWN, FWHEN and MIGRATE: the propositions above together. -/
def Obligations.SpawnContinuationAndMigration : Prop :=
  SpawnMakesTask ∧ ContinuationOfCell ∧ MigrateMovesTask

/-- R242, R245, R250: CLAIM of a company of the task's own group sets the claim and gives 0 where its holdings fit and every company could still
finish, and gives 1 otherwise, with every claim as before; where the cluster has no company of the number, one is created under the same
test; a number that another group's company has gives 2. A claim beyond a cluster's resources faults OPERAND_FORM, and a core off the
task's die or outside its pitch SCOPE. -/
def Obligations.ClaimsAreSafe : Prop :=
  ∀ (f : Fields) (s : State) (d : Fin 16) (lane : Fin 64) (w : Word), f.d = .g d lane → s.plainWord f.a = some w → s.free f →
    let t := claimOf w
    let core := if w.extractLsb' 32 16 = (0xFFFF : BitVec 16) then s.now.core else w.extractLsb' 32 16
    let cl := clusterOf core
    let n := s.now.company.toNat
    (120 < t.slots ∨ 32 < t.banks ∨ 16 < t.tiles → exec (.claim f) s = .next (s.faultHere .operandForm w)) ∧
    (t.slots ≤ 120 → t.banks ≤ 32 → t.tiles ≤ 16 →
      (coordValid core && cDie core == cDie s.now.core && (s.part (s.pnumOf s.now)).pitch.getLsbD cl) = false →
        exec (.claim f) s = .next (s.faultHere .scope (core.setWidth 64))) ∧
    (t.slots ≤ 120 → t.banks ≤ 32 → t.tiles ≤ 16 →
      (coordValid core && cDie core == cDie s.now.core && (s.part (s.pnumOf s.now)).pitch.getLsbD cl) = true →
      (s.company? cl n = none → (s.clusterAt cl).companies.length < 16 →
        let c' : Cluster := { s.clusterAt cl with
          companies := (s.clusterAt cl).companies.put n (Company.fresh (gtidPnum s.now.gtid) (gtidLaunch s.now.gtid) false t) }
        let safe := (c'.holdings n).le t && c'.safe (fun i => ((c'.companies.look i).map Company.claim).getD .zero) c'.holdings
        (safe = false → exec (.claim f) s = .next (s.after1 f.h fun x => x.withLane d lane 1)) ∧
        (safe = true → ∃ u, exec (.claim f) s = .next u ∧ (u.clusterAt cl).companies = c'.companies ∧
          u.now.g = (s.now.withLane d lane 0).g ∧ u.now.p = s.now.p ∧ u.now.pc = s.now.pc + 1 ∧ u.mem = s.mem)) ∧
      ∀ co, s.company? cl n = some co →
        (co.inGroup (gtidPnum s.now.gtid) (gtidLaunch s.now.gtid) = false →
          exec (.claim f) s = .next (s.after1 f.h fun x => x.withLane d lane 2)) ∧
        (co.inGroup (gtidPnum s.now.gtid) (gtidLaunch s.now.gtid) = true →
          let c' : Cluster := { s.clusterAt cl with companies := (s.clusterAt cl).companies.put n { co with claim := t } }
          let safe := (c'.holdings n).le t && c'.safe (fun i => ((c'.companies.look i).map Company.claim).getD .zero) c'.holdings
          (safe = false → exec (.claim f) s = .next (s.after1 f.h fun x => x.withLane d lane 1)) ∧
          (safe = true → ∃ u, exec (.claim f) s = .next u ∧ (u.clusterAt cl).companies = c'.companies ∧
            u.now.g = (s.now.withLane d lane 0).g ∧ u.now.p = s.now.p ∧ u.now.pc = s.now.pc + 1 ∧ u.mem = s.mem)))

/-- R247, R248, R249, R250, R252, R253: an ACQ or ACQT of slots and macros that the test grants moves the lowest free ones into the company's
holdings and gives the grant word; ACQT of one that is refused gives its code and clears its predicate, and ACQ waits; a request beyond the
claim faults CLAIM_EXCEEDED and one of nothing gives 0; a word that asks for what is not allowed faults OPERAND_FORM, with the field's tval for the
macros that an immediate asks of a stream core and with the word otherwise. A grant of banks is waited for until they are switched, and then gives its word. -/
def Sys2Proof.Machine.BoxOfficeRequests : Prop :=
  ∀ (f : Fields) (s : State) (d : Fin 16) (lane : Fin 64) (p : Fin 8) (w : Word), f.d = .g d lane → f.b = .p p ∨ f.b = .none →
    s.plainWord f.a = some w → s.free f →
    let q := requestOf w
    let core := if w.extractLsb' 32 16 = (0xFFFF : BitVec 16) then s.now.core else w.extractLsb' 32 16
    let cl := clusterOf core
    let n := s.now.company.toNat
    let answer := (s.clusterAt cl).boxCheck n q core false
    (let imm : Prop := ∃ v, f.a = .i v
     let onStream : Prop := 0 < q.tiles ∧ isTile core = false
     (onStream ∧ imm → exec (.acq f) s = .next (s.faultHere .operandForm (DecErr.form 0 1 (operandRaw f.a 0)).tval) ∧
       exec (.acqt f) s = .next (s.faultHere .operandForm (DecErr.form 0 1 (operandRaw f.a 0)).tval)) ∧
     (requestBad w core = true → ¬(onStream ∧ imm) → exec (.acq f) s = .next (s.faultHere .operandForm w) ∧
       exec (.acqt f) s = .next (s.faultHere .operandForm w))) ∧
    (requestBad w core = false →
      (coordValid core && cDie core == cDie s.now.core && (s.part (s.pnumOf s.now)).pitch.getLsbD cl) = true →
      (s.groupCompany? s.now cl).isSome = true → s.myReq cl (.acq w) = none →
      (q = .zero → exec (.acq f) s = .next (s.after1 f.h fun x => x.withLane d lane 0)) ∧
      (q ≠ .zero → s.boxBusy cl = false → s.detoured = false →
        (answer = .exceeded → exec (.acq f) s = .next (s.faultHere .claimExceeded w) ∧
          exec (.acqt f) s = .next (s.faultHere .claimExceeded w)) ∧
        (answer = .granted → q.banks ≠ 0 →
          (∃ t, exec (.acq f) s = .next t ∧ t.now.status = .waiting .box ∧ t.now.pc = s.now.pc ∧ t.now.g = s.now.g) ∧
          (f.b = .p p → ∃ t, exec (.acqt f) s = .next t ∧ t.now.status = .waiting .engine ∧ t.now.pc = s.now.pc ∧ t.now.g = s.now.g)) ∧
        (answer = .granted → q.banks = 0 →
          let slots := ((s.clusterAt cl).freeSlots core).take q.slots
          let tiles := ((s.clusterAt cl).freeMacros core).take q.tiles
          ∀ co, s.company? cl n = some co →
            (∃ t, exec (.acq f) s = .next t ∧ t.company? cl n = some { co with
                slots := co.slots ++ slots.map fun i => (core, i), tiles := co.tiles ++ tiles.map fun i => (core, i) } ∧
              t.now.g = (s.now.withLane d lane (grantWord ((slots.head?).getD 0) (maskOf 4 tiles) 0)).g ∧ t.now.p = s.now.p ∧
              t.now.pc = s.now.pc + 1 ∧ t.mem = s.mem) ∧
            (f.b = .p p → ∃ t, exec (.acqt f) s = .next t ∧ t.company? cl n = some { co with
                slots := co.slots ++ slots.map fun i => (core, i), tiles := co.tiles ++ tiles.map fun i => (core, i) } ∧
              t.now.g = (s.now.withLane d lane (grantWord ((slots.head?).getD 0) (maskOf 4 tiles) 0)).g ∧
              t.now.p = (s.now.setPred p 1).p ∧ t.now.pc = s.now.pc + 1)) ∧
        (answer = .notSafe ∨ answer = .unavailable →
          (∃ t, exec (.acq f) s = .next t ∧ t.now.status = .waiting .box ∧ t.now.pc = s.now.pc ∧ t.now.g = s.now.g) ∧
          (f.b = .p p → ∃ t, exec (.acqt f) s = .next t ∧
            t.now.g = (s.now.withLane d lane (if answer = .notSafe then 1 else 2)).g ∧ t.now.p = (s.now.setPred p 0).p ∧
            t.now.pc = s.now.pc + 1 ∧ t.company? cl n = s.company? cl n)))) ∧
    ∀ (r : BoxReq) (slot : Nat) (tiles : BitVec 4) (lbanks : BitVec 32), requestBad w core = false →
      (coordValid core && cDie core == cDie s.now.core && (s.part (s.pnumOf s.now)).pitch.getLsbD cl) = true →
      s.myReq cl (.acq w) = some r → r.phase = .granted slot tiles lbanks → (s.clusterAt cl).switched n lbanks = true →
        (∃ t, exec (.acq f) s = .next t ∧ t.now.g = (s.now.withLane d lane (grantWord slot tiles lbanks)).g ∧ t.now.p = s.now.p ∧
          t.now.pc = s.now.pc + 1 ∧ t.mem = s.mem) ∧
        (f.b = .p p → ∃ t, exec (.acqt f) s = .next t ∧ t.now.g = (s.now.withLane d lane (grantWord slot tiles lbanks)).g ∧
          t.now.p = (s.now.setPred p 1).p ∧ t.now.pc = s.now.pc + 1 ∧ t.mem = s.mem)

/-- R255, R256, R261: REL of resources that the company may return takes them from its holdings, an element that may not be returned faults
OPERAND_FORM and returns nothing; a REL of macros waits for the tile commands of the core that were enqueued before it issued, and for no later one;
BOXQ reads the pool, the claim, the holdings and the core's free resources. The tval of REL's OPERAND_FORM, its order after SCOPE, and BOXQ's
answer for a cluster without a company of the group are the model's choices (log entries 113 and 119). -/
def Sys2Proof.Machine.ReleasesAndSnapshots : Prop :=
  ∀ (f : Fields) (s : State) (a : Fin 16) (lane : Fin 64), f.a = .g a lane → s.free f →
    (let w : Word := s.now.g[a].setWidth 64
     let core := if w.extractLsb' 32 16 = (0xFFFF : BitVec 16) then s.now.core else w.extractLsb' 32 16
     let cl := clusterOf core
     let n := s.now.company.toNat
     let slots := (List.range 16).filter fun i => w.getLsbD i
     let tiles := (List.range 4).filter fun i => w.getLsbD (16 + i)
     let lbanks := (List.range 32).filter fun i => s.now.g[a].getLsbD (64 + i)
     (coordValid core && cDie core == cDie s.now.core && (s.part (s.pnumOf s.now)).pitch.getLsbD cl) = true →
     let co? := s.groupCompany? s.now cl
     (s.relOk cl n co? core slots tiles lbanks = false → exec (.rel f) s = .next (s.faultHere .operandForm w)) ∧
     (s.relOk cl n co? core slots tiles lbanks = true → s.unheld → tiles ≠ [] →
       (∃ e ∈ s.engQueue core 4, e.1 < s.now.since.getD s.fresh) → exec (.rel f) s = .next (s.enterWait .engine)) ∧
     (s.relOk cl n co? core slots tiles lbanks = true → s.unheld →
       (tiles = [] ∨ ∀ e ∈ s.engQueue core 4, s.now.since.getD s.fresh ≤ e.1) →
       ∃ t, exec (.rel f) s = .next t ∧
         (∀ co, co? = some co → ∃ co', t.company? cl n = some co' ∧
           (∀ e, e ∈ co'.slots ↔ e ∈ co.slots ∧ ¬(e.1 = core ∧ e.2 ∈ slots)) ∧
           (∀ e, e ∈ co'.tiles ↔ e ∈ co.tiles ∧ ¬(e.1 = core ∧ e.2 ∈ tiles))) ∧
         (∀ b ∈ (t.clusterAt cl).banksOf n, ((t.clusterAt cl).bankAt b).lbank ∉ lbanks) ∧
         t.now.g = s.now.g ∧ t.now.p = s.now.p ∧ t.now.pc = s.now.pc + 1 ∧ t.queues = s.queues)) ∧
    ∀ (d : Fin 16) (l : Fin 64), f.d = .g d l →
      let w := laneOf s.now.g[a] lane.val
      let core := if w.extractLsb' 0 16 = (0xFFFF : BitVec 16) then s.now.core else w.extractLsb' 0 16
      (coordValid core && cDie core == cDie s.now.core && (s.part (s.pnumOf s.now)).pitch.getLsbD (clusterOf core)) = true →
        exec (.boxq f) s = .next (s.after1 f.h fun x => x.setG d (s.boxWords s.now core))

/-- ACQ, ACQT, REL and BOXQ: the propositions above together. -/
def Obligations.BoxOfficeInstructions : Prop :=
  BoxOfficeRequests ∧ ReleasesAndSnapshots

/-- R340, R342, R356, R372, R373, R375, R376: CPY, CFILL, CPYS, CPYQ and MSEND enqueue their operation and give its handle; a set reserved bit of
a copy operand, and a CPYQ length that is no whole number of entries, fault OPERAND_FORM, CPYQ before it looks at its queue; a target that is no core of the pitch, on this package,
faults SCOPE. CPYS acts by the record that it has captured, that the cache holds, or that it reads. SRFENCE drops one shape record, or all. That a CPYQ is enqueued whatever its register's window holds is the
model's choice (log entry 107). -/
def Obligations.EngineOperationsAreEnqueued : Prop :=
  ∀ (f : Fields) (s : State) (d : Fin 16) (lane : Fin 64), f.d = .g d lane → s.free f →
    (∀ (b o : Fin 16) (spc : Bool) (off : BitVec 16) (l : Fin 64), f.a = .m b spc off → f.b = .g o l →
      let v := s.now.g[o]
      let ctl := laneOf v 1
      let a := operandAddr s b off 1
      let space := mSpace spc f.md.nsp
      let body (pattern : Option Word) : OpBody :=
        .copy (ctl.extractLsb' 24 2 : BitVec 2).toFin (spaceCode space) (ctl.getLsbD 28) f.md.na pattern (v.extractLsb' 128 32)
          { src := (laneOf v 0).toNat, dst := a, len := (ctl.extractLsb' 0 24).toNat, rows := 1, planes := 1, srcRow := 0, srcPlane := 0,
            dstRow := 0, dstPlane := 0 }
      (ctl.extractLsb' 29 35 ≠ 0 ∨ ctl.extractLsb' 24 2 = (3 : BitVec 2) →
        exec (.cpy f) s = .next (s.faultHere .operandForm (laneOf v 0)) ∧ exec (.cfill f) s = .next (s.faultHere .operandForm (laneOf v 0))) ∧
      (ctl.extractLsb' 29 35 = 0 → ctl.extractLsb' 24 2 ≠ (3 : BitVec 2) → space = .s → s.remoteOk (v.extractLsb' 128 32) = false →
        exec (.cpy f) s = .next (s.faultHere .scope ((v.extractLsb' 128 16).setWidth 64)) ∧
        exec (.cfill f) s = .next (s.faultHere .scope ((v.extractLsb' 128 16).setWidth 64))) ∧
      (ctl.extractLsb' 29 35 = 0 → ctl.extractLsb' 24 2 ≠ (3 : BitVec 2) → space ≠ .s ∨ s.remoteOk (v.extractLsb' 128 32) = true →
        s.engineRoom (ctl.extractLsb' 26 2).toNat →
          (∃ t, exec (.cpy f) s = .next t ∧ s.enqueued t d (ctl.extractLsb' 26 2).toNat (body none)) ∧
          ∃ t, exec (.cfill f) s = .next t ∧ s.enqueued t d (ctl.extractLsb' 26 2).toNat (body (some (laneOf v 0)))) ∧
      (let ok := coordValid (v.extractLsb' 0 16) &&
         (v.getLsbD 32 || (s.part (s.pnumOf s.now)).pitch.getLsbD (clusterOf (v.extractLsb' 0 16)))
       (ok = false → exec (.msend f) s = .next (s.faultHere .scope ((v.extractLsb' 0 16).setWidth 64))) ∧
       (ok = true → space ≠ .s ∨ (s.scratchHome s.now.g[b]).isSome = true → s.engineRoom 5 → ∃ t, exec (.msend f) s = .next t ∧
          s.enqueued t d 5 (.message (spaceCode space) (s.now.g[b].extractLsb' 96 32) a (v.extractLsb' 48 16).toNat (v.extractLsb' 0 16)
            (v.extractLsb' 16 4 : BitVec 4).toFin (if v.getLsbD 32 then some (v.extractLsb' 20 12) else none)
            (v.extractLsb' 64 21).toNat)))) ∧
    (∀ (b : Fin 16) (spc : Bool) (off : BitVec 16) (w : Word) (r : BitVec 512), f.a = .m b spc off → s.plainWord f.b = some w →
      let a := operandAddr s b off 64
      (w.extractLsb' 3 61 ≠ 0 → exec (.cpys f) s = .next (s.faultHere .operandForm w)) ∧
      (w.extractLsb' 3 61 = 0 → a % 64 ≠ 0 → exec (.cpys f) s = .next (s.faultHere .align (BitVec.ofNat 64 a))) ∧
      (∀ u, w.extractLsb' 3 61 = 0 → a % 64 = 0 → s.now.shape = none → shapeRecord f a s.stepped = .ok (r, u) →
        u.engineRoom (w.extractLsb' 0 2).toNat → ∃ t, exec (.cpys f) s = .next t ∧ t.now.ft = s.now.ft.set d 1 ∧
          t.ops = u.ops.put u.fresh (u.newOp (w.extractLsb' 0 2).toNat (shapeBody a (w.getLsbD 2) r))) ∧
      (w.extractLsb' 3 61 = 0 → a % 64 = 0 → (s.now.shape = some r ∨
          s.now.shape = none ∧ ((s.coreAt s.now.core).shapes.find? fun e => e.1 == a) = some (a, r)) →
        s.engineRoom (w.extractLsb' 0 2).toNat → ∃ t, exec (.cpys f) s = .next t ∧
          s.enqueued t d (w.extractLsb' 0 2).toNat (shapeBody a (w.getLsbD 2) r))) ∧
    (∀ (r o : Fin 16) (l : Fin 64), f.a = .q r → f.b = .g o l →
      (laneOf s.now.g[o] 1).extractLsb' 29 35 ≠ 0 ∨ (laneOf s.now.g[o] 1).extractLsb' 24 2 = (3 : BitVec 2) →
        exec (.cpyq f) s = .next (s.faultHere .operandForm (laneOf s.now.g[o] 0))) ∧
    (∀ (r o : Fin 16) (l : Fin 64) (n : Nat) (q : Queue), f.a = .q r → f.b = .g o l → s.now.qregs[r].bound = some (n, true) →
      s.queue? n = some q →
        let v := s.now.g[o]
        let ctl := laneOf v 1
        ctl.extractLsb' 29 35 = 0 → ctl.extractLsb' 24 2 ≠ (3 : BitVec 2) →
          ((ctl.extractLsb' 0 24).toNat % (if q.wide then 32 else 8) ≠ 0 → exec (.cpyq f) s = .next (s.faultHere .operandForm ctl)) ∧
          ((ctl.extractLsb' 0 24).toNat % (if q.wide then 32 else 8) = 0 → s.engineRoom (ctl.extractLsb' 26 2).toNat →
            ∃ t, exec (.cpyq f) s = .next t ∧ s.enqueued t d (ctl.extractLsb' 26 2).toNat
              (.toQueue (ctl.extractLsb' 24 2 : BitVec 2).toFin (ctl.getLsbD 28) (laneOf v 0).toNat (ctl.extractLsb' 0 24).toNat r n
                (if q.tagged then some (s.pushTag s.now) else none)))) ∧
    ∀ a : Word, s.plainWord f.a = some a → ∃ t, exec (.srfence f) s = .next t ∧
      (t.coreAt s.now.core).shapes = (if a = 0 then [] else (s.coreAt s.now.core).shapes.filter fun e => e.1 != a.toNat) ∧
      t.ctx s.cur = (s.after1 f.h fun x => x).ctx s.cur ∧ t.mem = s.mem

/-- R377, R421, R422, R423: OPSET writes the writable bits of a parameter register of an operator of the task's launch, and faults OPERAND_FORM
at a register that its kind does not define or, below 32, while it runs; OPGET reads one, clearing the AMAX of a CONVERT; OPCTL starts, stops,
reads, resets, or skips the head of an input, and writes the status, its command an immediate or a value that it reads. To each of them a selector
with a reserved bit is an OPERAND_FORM, and one of no operator of the launch a SCOPE. After START and RESET a walk that has faulted for the
operator is made anew. That a value which R422 does not allow leaves the register as it was is the model's
reading (log entry 19). -/
def Obligations.OperatorCommands : Prop :=
  ∀ (f : Fields) (s : State) (w : Word), s.plainWord f.a = some w → s.free f →
    let c : Coord := if w.extractLsb' 0 16 = (0xFFFF : BitVec 16) then s.now.core else w.extractLsb' 0 16
    let n := (w.extractLsb' 20 6).toNat
    let k := oprKey (clusterOf c) (w.extractLsb' 16 2 : BitVec 2).toFin (w.extractLsb' 18 2 : BitVec 2).toFin
    (∀ o : Opr, o.start.state = (match o.state with
          | .faulted => .faulted
          | _ => .running) ∧ o.start.pregs = o.pregs ∧
        (o.state = .stalled ∨ o.state = .running ∧ o.seqOut = [] ∧ o.slots = [] → o.stop.state = .stopped) ∧ o.stop.pregs = o.pregs ∧
        o.reset.state = .stopped ∧ o.reset.items = 0 ∧ o.reset.pregs = o.pregs) ∧
    let all (code : FaultCode) (tval : Word) : Prop :=
      (∀ e ∈ operatorRows, exec (e f) s = .next (s.faultHere code tval)) ∧
        ∀ v : Word, s.plainWord f.b = some v →
          exec (.opset f) s = .next (s.faultHere code tval) ∧ (v.toNat ≤ 4 → exec (.opctlStart f) s = .next (s.faultHere code tval))
    (w.extractLsb' 26 38 ≠ 0 → all .operandForm w) ∧
    (w.extractLsb' 26 38 = 0 → (coordValid c && (s.part (s.pnumOf s.now)).pitch.getLsbD (clusterOf c)) = false → all .scope (c.setWidth 64)) ∧
    (w.extractLsb' 26 38 = 0 → coordValid c = true → (s.part (s.pnumOf s.now)).pitch.getLsbD (clusterOf c) = true →
      ((∀ o, s.oprs.look k = some o → ¬(o.pnum = gtidPnum s.now.gtid ∧ o.launch = gtidLaunch s.now.gtid)) → all .scope (c.setWidth 64)) ∧
      ∀ o : Opr, s.oprs.look k = some o → o.pnum = gtidPnum s.now.gtid → o.launch = gtidLaunch s.now.gtid →
        (∀ v : Word, s.plainWord f.b = some v → exec (.opset f) s = .next
          (match o.kind.pregMask n with
           | none => s.faultHere .operandForm w
           | some m =>
             if m = 0 then s.ended { s.stepped with oprs := s.oprs.put k o } .base f.h
             else if n < 32 ∧ o.state ≠ .stopped then s.faultHere .operandForm w
             else s.ended { s.stepped with
               oprs := (s.oprs.put k (if o.kind.pregOk n (v &&& m) then { o with pregs := o.pregs.put n (v &&& m) } else o)) } .base f.h)) ∧
        ∀ (d : Fin 16) (lane : Fin 64), f.d = .g d lane →
          let putIn (u : State) (o' : Opr) (v : Word) : State :=
            s.ended (({ u with oprs := s.oprs.put k o' } : State).setCtx s.cur (s.now.next.withLane d lane v)) .base f.h
          let put := putIn s.stepped
          let anew := putIn (s.stepped.forgetFaults k)
          ((o.kind.pregMask n).isNone = true → exec (.opget f) s = .next (s.faultHere .operandForm w)) ∧
          ((o.kind.pregMask n).isSome = true → exec (.opget f) s = .next
            (put (if o.kind = .convert ∧ n = 32 then { o with amax := 0 } else o) (o.read n))) ∧
          exec (.opctlStatus f) s = .next (put o (o.status false)) ∧
          exec (.opctlStop f) s = .next (put o.stop (o.stop.status false)) ∧
          exec (.opctlReset f) s = .next (anew o.reset (o.reset.status false)) ∧
          (∀ v : Word, s.plainWord f.b = some v →
            (4 < v.toNat → exec (.opctlStart f) s = .next (s.faultHere .operandForm v)) ∧
            (v = 0 → exec (.opctlStart f) s = .next (anew o.start (o.start.status false))) ∧
            (v = 1 → exec (.opctlStart f) s = .next (put o.stop (o.stop.status false))) ∧
            (v = 2 → exec (.opctlStart f) s = .next (put o (o.status false))) ∧
            (v = 3 → exec (.opctlStart f) s = .next (anew o.reset (o.reset.status false)))) ∧
          ∀ i : Instr, i = .opctlSkiphead f ∨ (i = .opctlStart f ∧ s.plainWord f.b = some 4) →
          (o.state ≠ .stopped ∨ (o.kind.portWidth (n % 16)).isNone = true → exec i s = .next (s.ended
            (s.stepped.setCtx s.cur (s.now.next.withLane d lane (o.status true))) .base f.h)) ∧
          (o.state = .stopped → (o.kind.portWidth (n % 16)).isSome = true → o.ins.look (n % 16) = none → exec i s =
            .next (s.ended (s.stepped.setCtx s.cur (s.now.next.withLane d lane (o.status false))) .base f.h)) ∧
          ∀ m q, o.state = .stopped → (o.kind.portWidth (n % 16)).isSome = true → o.ins.look (n % 16) = some m → s.queue? m = some q →
            ∃ t, exec i s = .next t ∧ t.queue? m = some q.drop1 ∧ t.now.g = (s.now.withLane d lane (o.status false)).g ∧
              t.oprs = s.oprs ∧ t.mem = s.mem)

/-- R108, R109, R378: a vector instruction whose guard holds and that finds a format in %fmt that it does not accept faults OPERAND_FORM with %fmt's
value. -/
def Sys2Proof.Machine.VectorFormatIsChecked : Prop :=
  ∀ e ∈ formatsAccepted, ∀ (f : Fields) (s : State), s.now.guard f.h = true → s.now.fmtCode ∉ e.2 →
    exec (e.1 f) s = .next (s.faultHere .operandForm (s.now.fmt.setWidth 64))

/-- R379, R382, R383, R384: elementwise arithmetic writes each element of D once rounded, and changes nothing else. -/
def Sys2Proof.Machine.VectorArithmetic : Prop :=
  ∀ (f : Fields) (s : State) (r : Fin 16) (lane : Fin 64) (a : Vec), f.d = .g r lane → s.vecOperand s.now.fmtCode f.a = some a → s.free f →
    let fmt := s.now.fmtCode
    (∀ e ∈ elementwise, ∀ b : Vec, fmt ∈ e.2.1 → s.vecOperand fmt f.b = some b →
      exec (e.1 f) s = .next (s.afterVec f.h fun x => x.setG r (elems fmt fun i =>
        encodeNum fmt s.now.rnd s.now.sat (e.2.2 s.now.rnd (elem fmt s.now.g[r] i) (elem fmt a i) (elem fmt b i))))) ∧
    ∀ e ∈ elementwise1, fmt ∈ e.2.1 →
      exec (e.1 f) s = .next (s.afterVec f.h fun x => x.setG r (elems fmt fun i =>
        encodeNum fmt s.now.rnd s.now.sat (e.2.2 (elem fmt a i))))

/-- Vector arithmetic in every format: the propositions above together. -/
def Obligations.VectorFormatAndArithmetic : Prop :=
  VectorFormatIsChecked ∧ VectorArithmetic

/-- R385, R386, R387, R388: VCMP sets bit i where element i of A is less; VSEL takes an element of A where its predicate's bit is set and
keeps D's otherwise; the logical instructions act on all 256 bits, and the shifts on each element's pattern. -/
def Sys2Proof.Machine.VectorBitsAndSelection : Prop :=
  ∀ (f : Fields) (s : State), s.free f →
    let fmt := s.now.fmtCode
    (∀ (p : Fin 8) (a b : Vec), f.d = .p p → s.vecOperand fmt f.a = some a → s.vecOperand fmt f.b = some b → fmt ∈ [0, 1, 2, 3, 4, 6, 7, 8] →
      exec (.vcmp f) s = .next (s.afterVec f.h fun x => x.setPred p
        (maskOf 64 ((List.range (fmtCount fmt)).filter fun i => (elem fmt a i).lt (elem fmt b i))))) ∧
    ∀ (r : Fin 16) (lane : Fin 64), f.d = .g r lane →
      (∀ (p : Fin 8) (a : Vec), f.b = .p p → s.vecOperand fmt f.a = some a → fmt < 12 →
        exec (.vsel f) s = .next (s.afterVec f.h fun x => x.setG r (elems fmt fun i =>
          if (s.now.pred p).getLsbD i then elemBits fmt a i else elemBits fmt s.now.g[r] i))) ∧
      (∀ e ∈ wholeOps, ∀ a b : Vec, s.rawOperand f.a = some a → s.rawOperand f.b = some b →
        exec (e.1 f) s = .next (s.afterVec f.h fun x => x.setG r (e.2 a b))) ∧
      ∀ e ∈ elementShifts, ∀ a : Vec, s.vecOperand fmt f.a = some a → fmt ∈ [6, 7, 8] →
        (∀ (q : Fin 16) (l : Fin 64), f.b = .g q l → exec (e.1 f) s = .next (s.afterVec f.h fun x => x.setG r (elems fmt fun i =>
          (e.2 (fmtWidth fmt) (elemBits fmt a i) (elemBits fmt s.now.g[q] i) % 2 ^ fmtWidth fmt).toNat))) ∧
        ∀ v : BitVec 21, f.b = .i v → exec (e.1 f) s = .next (s.afterVec f.h fun x => x.setG r (elems fmt fun i =>
          (e.2 (fmtWidth fmt) (elemBits fmt a i) (v.signExtend 64).toNat % 2 ^ fmtWidth fmt).toNat))

/-- R119, R395, R396, R397: VLUT loads the core's table; VSPLAT, VPERM, VEXT and VINS move elements. -/
def Sys2Proof.Machine.VectorMoves : Prop :=
  ∀ (f : Fields) (s : State), s.free f →
    let fmt := s.now.fmtCode
    (∀ a : Vec, s.rawOperand f.a = some a → ∃ t, exec (.vlut f) s = .next t ∧ (t.coreAt s.now.core).lut = a.extractLsb' 0 128 ∧
      t.ctx s.cur = (s.after1 f.h fun x => x).ctx s.cur ∧ t.mem = s.mem) ∧
    ∀ (r : Fin 16) (lane : Fin 64), f.d = .g r lane →
      (∀ a : Word, s.plainWord f.a = some a → fmt < 12 →
        exec (.vsplat f) s = .next (s.afterVec f.h fun x => x.setG r (elems fmt fun _ => a.toNat % 2 ^ fmtWidth fmt))) ∧
      (∀ a b : Vec, s.vecOperand fmt f.a = some a → s.plainVec f.b = some b → fmt < 9 →
        ∃ v : Vec, exec (.vperm f) s = .next (s.afterVec f.h fun x => x.setG r v) ∧ ∀ i < min 32 (fmtCount fmt), elemBits fmt v i =
          if (b.extractLsb' (8 * i) 8).toNat < fmtCount fmt then elemBits fmt a (b.extractLsb' (8 * i) 8).toNat else 0) ∧
      (∀ (a : Vec) (b : Word), s.plainVec f.a = some a → s.plainWord f.b = some b → fmt < 12 →
        exec (.vext f) s = .next (s.afterVec f.h fun x => x.withLane r lane (intWord 64 false
          (if fmtCount fmt ≤ b.toNat then 0
           else if fmt ∈ [6, 7, 8, 11] then signedOf (fmtWidth fmt) (elemBits fmt a b.toNat) else elemBits fmt a b.toNat)))) ∧
      ∀ a b : Word, s.plainWord f.a = some a → s.plainWord f.b = some b → fmt < 12 →
        exec (.vins f) s = .next (s.afterVec f.h fun x => x.setG r (elems fmt fun i =>
          if i = b.toNat then a.toNat % 2 ^ fmtWidth fmt else elemBits fmt s.now.g[r] i))

/-- Vector bits, comparison, selection and moves: the propositions above together. -/
def Obligations.VectorBitsAndMoves : Prop :=
  VectorBitsAndSelection ∧ VectorMoves

/-- R389 to R394, R119: VCVT converts the elements of a part, VQNT quantises one part and, as part 0, makes the companion, VDQ decodes 4-bit
codes under a companion by the table that its core held when it issued, VPACK narrows two registers into one, and VUNPK widens half of one. -/
def Sys2Proof.Machine.VectorConversions : Prop :=
  ∀ (f : Fields) (s : State) (r : Fin 16) (lane : Fin 64) (a : Vec), f.d = .g r lane → s.vecOperand s.now.fmtCode f.a = some a → s.free f →
    let fmt := s.now.fmtCode
    let dst := tyFmt f.md.ty
    let n := fmtCount fmt
    let m := fmtCount dst
    (∀ p : BitVec 21, f.b = .i p → fmt ∈ [0, 1, 2, 3, 4, 6, 7, 8] → 0 ≤ p.toInt → p.toInt.toNat < max n m / min n m →
      exec (.vcvt f) s = .next (s.afterVec f.h fun x => x.setG r (elems dst fun i =>
        if m ≤ n then convertNum fmt dst s.now.rnd s.now.sat (elem fmt a (p.toInt.toNat * m + i))
        else if p.toInt.toNat * n ≤ i ∧ i < p.toInt.toNat * n + n then
          convertNum fmt dst s.now.rnd s.now.sat (elem fmt a (i - p.toInt.toNat * n))
        else elemBits dst s.now.g[r] i))) ∧
    (∀ (q : Fin 16) (l : Fin 64), f.b = .g q l → fmt ∈ [5, 9, 10, 11] →
      exec (.vdq f) s = .next (s.afterVec f.h fun x => x.setG r (elems dst fun i =>
        encodeNum dst s.now.rnd s.now.sat (codeNum fmt (s.now.lut.getD (s.coreAt s.now.core).lut) (s.now.g[q].setWidth 64) a (l.val * m + i))))) ∧
    (∀ (q : Fin 16) (l : Fin 64) (v : Vec), f.b = .g q l → fmt = 5 ∨ fmt = 10 → s.vecOperand dst f.a = some v →
      let c := if l.val = 0 then companionOf (fmt == 10) (s.now.g[q].setWidth 64) else s.now.g[q].setWidth 64
      exec (.vqnt f) s = .next (s.afterVec f.h fun x =>
        let y := x.setG r (packWith 4 64 fun k =>
          if l.val * m ≤ k ∧ k < l.val * m + m then quantCode (fmt == 10) s.now.rnd c k (elem dst v (k - l.val * m))
          else elemBits 5 s.now.g[r] k)
        if l.val = 0 then y.setG q (c.setWidth 256) else y)) ∧
    (∀ b : Vec, fmt ∈ [6, 7, 8] → s.vecOperand fmt f.b = some b →
      exec (.vpack f) s = .next (s.afterVec f.h fun x => x.setG r (packWith (fmtWidth fmt / 2) (2 * n) fun i =>
        fitInt (fmtWidth fmt / 2) s.now.sat (signedOf (fmtWidth fmt) (if i < n then elemBits fmt a i else elemBits fmt b (i - n)))))) ∧
    (∀ p : BitVec 21, f.b = .i p → fmt ∈ [6, 7, 11] →
      exec (.vunpk f) s = .next (s.afterVec f.h fun x => x.setG r (packWith (2 * fmtWidth fmt) (n / 2) fun i =>
        (signedOf (fmtWidth fmt) (elemBits fmt a (p.toInt.toNat * (n / 2) + i)) % 2 ^ (2 * fmtWidth fmt)).toNat)))

/-- R398, R399, R400: VRED folds the elements as a pairwise tree into element 0 and clears the others, VSCAN writes the prefixes, VAMAX gives
the greatest FP32 magnitude of a word and the elements, and VDOT adds products to FP32 or INT32 accumulators in order. -/
def Sys2Proof.Machine.VectorReductions : Prop :=
  ∀ (f : Fields) (s : State) (r : Fin 16) (lane : Fin 64) (a : Vec), f.d = .g r lane → s.vecOperand s.now.fmtCode f.a = some a → s.free f →
    let fmt := s.now.fmtCode
    let n := fmtCount fmt
    (∀ op : BitVec 21, f.b = .i op → fmt ∈ [0, 1, 2, 6, 7, 8] →
      let node := redNode op.toInt.toNat fmt s.now.rnd s.now.sat
      exec (.vred f) s = .next (s.afterVec f.h fun x => x.setG r (packWith (fmtWidth fmt) 1 fun _ =>
        encodeNum fmt s.now.rnd s.now.sat (((redTree node 6 ((List.range n).map (elem fmt a))).head?).getD .nan))) ∧
      exec (.vscan f) s = .next (s.afterVec f.h fun x => x.setG r (elems fmt fun i =>
        encodeNum fmt s.now.rnd s.now.sat (((List.range i).map fun j => elem fmt a (j + 1)).foldl node (elem fmt a 0))))) ∧
    (∀ (q : Fin 16) (l : Fin 64), f.b = .g q l → fmt ∈ [0, 1, 2, 3, 4, 6, 7, 8] →
      exec (.vamax f) s = .next (s.afterVec f.h fun x => x.withLane r lane (intWord 64 false
        (((List.range n).foldl (fun m i => amaxBits s.now.sat m (elem fmt a i)) ((laneOf s.now.g[q] l.val).toNat % 2 ^ 32) : Nat))))) ∧
    ∀ b : Vec, fmt ∈ [1, 2, 3, 4, 6] → s.vecOperand fmt f.b = some b →
      let acc := if fmt = 6 then 8 else 0
      exec (.vdot f) s = .next (s.afterVec f.h fun x => x.setG r (packWith 32 8 fun j =>
        encodeNum acc s.now.rnd s.now.sat ((List.range (n / 8)).foldl (fun t i =>
          t.add s.now.rnd ((elem fmt a (n / 8 * j + i)).mul (elem fmt b (n / 8 * j + i)))) (elem acc s.now.g[r] j))))

/-- Vector conversions and reductions: the propositions above together. -/
def Obligations.VectorConversionsAndReductions : Prop :=
  VectorConversions ∧ VectorReductions

/-- R301, R302, R417: CLMUL, CLMULH, BDEP and BEXT of two unsigned patterns of their type's width, on a core that has the extension; the encoding
admits no signed type for them. -/
def Sys2Proof.Machine.BitInstructions : Prop :=
  (∀ e ∈ bitOps, ∀ f : Fields, (e.1 f).wf = true → (tyInfo f.md.ty (64, false)).2 = false) ∧
  ∀ e ∈ bitOps, ∀ (f : Fields) (s : State) (r : Fin 16) (lane : Fin 64) (a b : Word),
    f.d = .g r lane → s.plainWord f.a = some a → s.plainWord f.b = some b → s.free f → isTile s.now.core = false →
    (tyInfo f.md.ty (64, false)).2 = false →
      let w := (tyInfo f.md.ty (64, false)).1
      exec (e.1 f) s = .next (s.ended (s.stepped.setCtx s.cur (s.now.next.withLane r lane (intWord w false (e.2 w (pattern w a) (pattern w b) : Nat))))
        .x f.h)

/-- R211, R227, R269, R287, R402, R406: on a core without its extension every tile or bit instruction of a pinned task faults EXT_ABSENT with its
opcode, whatever its guard holds; every tile instruction but TSTAT that finds the unit bound by another context faults TILE_STATE 1. -/
def Sys2Proof.Machine.ExtensionAndUnitFaults : Prop :=
  ∀ (f : Fields) (s : State),
    (∀ e ∈ bitRows, isTile s.now.core = true → s.now.pinned = true →
      exec (e.1 f) s = .next (s.faultHere .extAbsent (BitVec.ofNat 64 (e.2 + 3 * 2 ^ 12)))) ∧
    (∀ e ∈ tileRows ++ [(.tstat, 0x507)], isTile s.now.core = false → s.now.pinned = true →
      exec (e.1 f) s = .next (s.faultHere .extAbsent (BitVec.ofNat 64 (e.2 + 2 * 2 ^ 12)))) ∧
    ∀ e ∈ tileRows, ∀ k, isTile s.now.core = true → (s.coreAt s.now.core).tile.bound = some k → k ≠ s.cur → s.free f →
      exec (e.1 f) s = .next ((s.pinFor .t).faultHere .tileState 1)

/-- Bit instructions, absent extensions and bound units: the propositions above together. -/
def Obligations.BitInstructionsAndAbsentUnits : Prop :=
  BitInstructions ∧ ExtensionAndUnitFaults

/-- R401, R402, R407, R409, R411, R413, R415: the tile commands are enqueued on the unit's queue with their operand or descriptor, which is
checked, and bind the unit; a control word with a reserved bit, a descriptor that the entry does not accept and a queue of one lane fault
OPERAND_FORM, a 16-bit format at an odd address or stride ALIGN, a remote target outside the pitch SCOPE, one where the company is not
XLATE_PERM, and a macro that the company does not hold TILE_STATE 2. -/
def Sys2Proof.Machine.TileCommandsAreEnqueued : Prop :=
  ∀ (f : Fields) (s : State) (d : Fin 16) (lane : Fin 64), f.d = .g d lane → s.free f → s.tileFree →
    (∀ w : Word, s.plainWord f.a = some w →
      (2 ^ 2 ≤ w.toNat → exec (.tzero f) s = .next ((s.pinFor .t).faultHere .operandForm w)) ∧
      (w.toNat < 2 ^ 2 → s.engineRoom 4 → ∃ t, exec (.tzero f) s = .next t ∧ s.tileEnqueued t d (.tzero w)) ∧
      (2 ^ 5 ≤ w.toNat ∨ w.extractLsb' 0 4 = (0 : BitVec 4) → exec (.tmma f) s = .next ((s.pinFor .t).faultHere .operandForm w)) ∧
      (w.toNat < 2 ^ 5 → w.extractLsb' 0 4 ≠ (0 : BitVec 4) → s.now.task = true → ∀ co,
        s.company? (clusterOf s.now.home) s.now.company.toNat = some co →
        ((∀ q < 4, w.getLsbD q = true → co.tiles.contains (s.now.core, q) = true) → s.engineRoom 4 →
          ∃ t, exec (.tmma f) s = .next t ∧ s.tileEnqueued t d (.tmma w)) ∧
        (∀ q < 4, w.getLsbD q = true → co.tiles.contains (s.now.core, q) = false →
          (∀ p < q, w.getLsbD p = true → co.tiles.contains (s.now.core, p) = true) →
            exec (.tmma f) s = .next ((s.pinFor .t).faultHere .tileState (BitVec.ofNat 64 (2 + q * 2 ^ 4)))))) ∧
    (∀ (b o : Fin 16) (spc : Bool) (off : BitVec 16) (l : Fin 64), f.a = .m b spc off → f.b = .g o l →
      let v := s.now.g[o]
      let a := operandAddr s b off 1
      let even := ¬(fmtWidth (descFmt v) = 16 ∧ (a % 2 ≠ 0 ∨ descStride v % 2 ≠ 0))
      let sel := s.now.g[b].extractLsb' 96 32
      let core := s.now.g[b].extractLsb' 96 16
      let faults (i : Instr) (code : FaultCode) (tval : Word) : Prop := exec i s = .next ((s.pinFor .t).faultHere code tval)
      (∀ e ∈ [(Instr.tlda, false, false, 16), (.tstor, true, false, 16), (.tldb, false, true, 256)],
        (descOk e.2.1 e.2.2.1 e.2.2.2 v = false → faults (e.1 f) .operandForm (DecErr.form 0 2 (operandRaw f.b 0)).tval) ∧
        (descOk e.2.1 e.2.2.1 e.2.2.2 v = true →
          (mSpace spc f.md.nsp = .s → sel.getLsbD 29 = true →
            (coordValid core = false → faults (e.1 f) .scope (core.setWidth 64)) ∧
            (coordValid core = true → sel.getLsbD 28 = true → faults (e.1 f) .scope (BitVec.ofNat 64 (sel.toNat % 2 ^ 28))) ∧
            (coordValid core = true → sel.getLsbD 28 = false → (s.part (s.pnumOf s.now)).pitch.getLsbD (clusterOf core) = false →
              faults (e.1 f) .scope (core.setWidth 64)) ∧
            (coordValid core = true → sel.getLsbD 28 = false → (s.part (s.pnumOf s.now)).pitch.getLsbD (clusterOf core) = true →
              s.company? (clusterOf core) s.now.company.toNat = none →
                faults (e.1 f) .xlatePerm (BitVec.ofNat 64 (a % 2 ^ 56 + 2 * 2 ^ 58)))) ∧
          (mSpace spc f.md.nsp ≠ .s ∨ (s.scratchHome s.now.g[b]).isSome = true → ¬even → faults (e.1 f) .align (BitVec.ofNat 64 a)))) ∧
      (mSpace spc f.md.nsp ≠ .s ∨ (s.scratchHome s.now.g[b]).isSome = true →
      (descOk false false 16 v = true → even → s.engineRoom 4 → ∃ t, exec (.tlda f) s = .next t ∧
        s.tileEnqueued t d (.tlda (spaceCode (mSpace spc f.md.nsp)) f.md.na a v (s.now.g[b].extractLsb' 96 32))) ∧
      (descOk true false 16 v = true → even → s.engineRoom 4 → ∃ t, exec (.tstor f) s = .next t ∧
        s.tileEnqueued t d (.tstor (spaceCode (mSpace spc f.md.nsp)) f.md.na a v (s.now.g[b].extractLsb' 96 32))) ∧
      (descOk false true 256 v = true → even → s.now.task = true → ∀ co, s.company? (clusterOf s.now.home) s.now.company.toNat = some co →
        (co.tiles.contains (s.now.core, descMacro v) = false → faults (.tldb f) .tileState (BitVec.ofNat 64 (2 + descMacro v * 2 ^ 4))) ∧
        (co.tiles.contains (s.now.core, descMacro v) = true → s.engineRoom 4 → ∃ t, exec (.tldb f) s = .next t ∧
          s.tileEnqueued t d (.tldb (spaceCode (mSpace spc f.md.nsp)) f.md.na a v (s.now.g[b].extractLsb' 96 32)))))) ∧
    ∀ (r o : Fin 16) (l : Fin 64) (n : Nat) (q : Queue), f.a = .q r → f.b = .g o l → s.now.qregs[r].bound = some (n, false) →
      s.queue? n = some q →
        (q.wide = false → exec (.tldaq f) s = .next ((s.pinFor .t).faultHere .operandForm (DecErr.form 0 1 (operandRaw f.a 0)).tval)) ∧
        (q.wide = true → descOk false false 16 s.now.g[o] = false →
          exec (.tldaq f) s = .next ((s.pinFor .t).faultHere .operandForm (DecErr.form 0 2 (operandRaw f.b 0)).tval)) ∧
        (q.wide = true → descOk false false 16 s.now.g[o] = true → s.engineRoom 4 →
          ∃ t, exec (.tldaq f) s = .next t ∧ s.tileEnqueued t d (.tldaq r n s.now.g[o]))

/-- R232, R414, R416: TGET enqueues its read behind every earlier command and waits; when the read has been performed it writes the eight
accumulators that its word names; a word with a reserved bit faults OPERAND_FORM. TSTAT reads the unit's status at once. -/
def Sys2Proof.Machine.TileReads : Prop :=
  ∀ (f : Fields) (s : State) (d : Fin 16) (lane : Fin 64), f.d = .g d lane → s.free f → isTile s.now.core = true →
    (∀ w : Word, s.plainWord f.a = some w → s.tileFree → 2 ^ 10 ≤ w.toNat →
      exec (.tget f) s = .next ((s.pinFor .t).faultHere .operandForm w)) ∧
    (∀ w : Word, s.plainWord f.a = some w → w.toNat < 2 ^ 10 → s.tileFree →
      ((∀ e ∈ s.ops, ¬(e.2.key = s.cur ∧ e.2.body.isTget = true)) → s.engineRoom 4 → ∃ t, exec (.tget f) s = .next t ∧
        t.ops = s.ops.put s.fresh (s.newOp 4 (.tget w)) ∧ t.now.status = .waiting .future ∧ t.now.pc = s.now.pc ∧ t.now.g = s.now.g) ∧
      (∀ n o, (s.ops.find? fun e => e.2.key == s.cur && e.2.body.isTget) = some (n, o) → o.result.isSome = true →
        (s.coreAt s.now.core).tile.bound = some s.cur → ∃ t, exec (.tget f) s = .next t ∧ t.ops = s.ops.del n ∧
          t.now.g = s.now.g.set d ((s.coreAt s.now.core).tile.group w) ∧ t.now.p = s.now.p ∧ t.now.pc = s.now.pc + 1 ∧ t.mem = s.mem)) ∧
    let u := (s.coreAt s.now.core).tile
    let queue := s.engQueue s.now.core 4
    let holds (i : Nat) : Bool := s.now.task &&
      ((s.company? (clusterOf s.now.home) s.now.company.toNat).any fun co => co.tiles.contains (s.now.core, i))
    exec (.tstat f) s = .next ((s.pinFor .t).ended ((s.pinFor .t).stepped.setCtx s.cur
      (({ s.now with pinned := true } : Ctx).next.withLane d lane (BitVec.ofNat 64 (min queue.length 8 +
        (if u.row.valid then 2 ^ 4 + u.row.fmt * 2 ^ 5 + u.row.rows * 2 ^ 9 else 0) + (if u.bound = some s.cur then 2 ^ 14 else 0) +
        (if queue.any fun e => e.2.done != 0 || e.2.flying != 0 || e.2.result.isSome then 2 ^ 15 else 0) +
        ((List.range 4).map fun i => ((u.b.look i).map TileB.fmt).getD 6 * 2 ^ (16 + 4 * i) + (if holds i then 2 ^ (32 + i) else 0) +
          (if (u.b.look i).any TileB.valid then 2 ^ (36 + i) else 0)).sum)))) .t f.h)

/-- Tile instructions: the propositions above together. -/
def Obligations.TileInstructions : Prop :=
  TileCommandsAreEnqueued ∧ TileReads

/-- R216, R231, R232, R331, R332, R333: an instruction that waits, sleeps, waits for a deadline, or has reached its home acts again: it goes on as
its meaning says, or stays as it was; of a context that is in no such state the event says nothing. An event that lands ends the SLEEPs in
flight on its core whose time has not come, with code 1, and no other. -/
def Sys2Proof.Machine.WaitsAndFlightsEnd : Prop :=
  ∀ (s : State) (k : Nat) (x : Ctx), s.ctxs.look k = some x →
    (∀ i, decode x.word = .ok i → i.sig?.isSome = true →
      ((∃ w, x.status = .waiting w) → ∃ t, exec i { s with cur := k } = .next t ∧
        exec (.waitComplete k) s = .next (if s.moved t k then t else s)) ∧
      ((∃ a b c, x.status = .flight (.sleep a b c)) → ∃ t, exec i { s with cur := k } = .next t ∧
        exec (.sleepEnd k) s = .next (if s.moved t k then t else s)) ∧
      ((∃ a b, x.status = .flight (.twait a b)) → ∃ t, exec i { s with cur := k } = .next t ∧
        exec (.twaitDeadline k) s = .next (if s.moved t k then t else s)) ∧
      ((∃ w, x.status = .flight (.home w)) → ∃ t, exec i { s.setCtx k { x with arrived := true } with cur := k } = .next t ∧
        exec (.homeAccessPerform k) s = .next (if s.moved t k then t else s))) ∧
    ((∀ w, x.status ≠ .waiting w) → exec (.waitComplete k) s = .next s) ∧
    ((∀ a b c, x.status ≠ .flight (.sleep a b c)) → exec (.sleepEnd k) s = .next s) ∧
    ((∀ a b, x.status ≠ .flight (.twait a b)) → exec (.twaitDeadline k) s = .next s) ∧
    ((∀ w, x.status ≠ .flight (.home w)) → exec (.homeAccessPerform k) s = .next s) ∧
    ∀ (pkt : Nat) (core : Coord), s.pkts.look pkt = some (.event core) → s.inv →
      ((∀ e ∈ s.ctxs, ¬e.2.sleepsOn core) → exec (.eventLanding pkt) s = .next { s with pkts := s.pkts.del pkt }) ∧
      ∀ start due ends, x.status = .flight (.sleep start due ends) → x.core = core → (∀ e ∈ s.ctxs, e.1 ≠ k → ¬e.2.sleepsOn core) →
        let u := ({ s with pkts := s.pkts.del pkt } : State).setCtx k
          { x with status := .flight (.sleep start due (if ends = none ∧ s.time < due then some 1 else ends)) }
        ∀ i, decode x.word = .ok i → i.sig?.isSome = true →
          ∃ t, exec i { u with cur := k } = .next t ∧ exec (.eventLanding pkt) s = .next (if u.moved t k then t else u)

/-- R219, R220, R225, R226, R257, R367: a child comes into its slot where its group still has a company, and is dropped where it has none; a
migrating task arrives ready, or suspended, or traps where the breakpoint table stops it or the core holds another image; a start message
makes a parked child ready, waits for one that is still coming, and is dropped where there is none; an idle core takes the task that has been
ready longest into a slot of its company. -/
def Sys2Proof.Machine.TasksArrive : Prop :=
  ∀ (s : State) (n : Nat),
    (∀ (child : Ctx) (core : Coord), s.pkts.look n = some (.spawn child core) →
      (s.groupCompany? child (clusterOf core) = none → exec (.spawnArrival n) s = .next { s with pkts := s.pkts.del n }) ∧
      ∀ co, s.groupCompany? child (clusterOf core) = some co → ∃ t, exec (.spawnArrival n) s = .next t ∧ t.pkts = s.pkts.del n ∧
        t.ctxs = s.ctxs.put s.fresh { child with core, readyAt := s.cycle, suspended := s.stopped child } ∧ t.fresh = s.fresh + 1 ∧
        t.mem = s.mem ∧ t.queues = s.queues) ∧
    ((∀ src, (s.ctx n).status ≠ .transit src) → exec (.migrationArrival n) s = .next s) ∧
    (∀ (src : Coord), (s.ctx n).status = .transit src → (s.ctx n).task = true →
      let x := s.ctx n
      let image := (s.coreAt x.core).img
      (x.suspended = true ∨ s.bpHit x = none ∧ x.img = image → ∃ t, exec (.migrationArrival n) s = .next t ∧
        t.ctx n = { x with status := .idle, readyAt := s.cycle } ∧ t.mem = s.mem ∧ ∀ j, j ≠ n → t.ctx j = s.ctx j) ∧
      (∀ i, x.suspended = false → s.bpHit x = some i → ∃ t, exec (.migrationArrival n) s = .next t ∧
        s.trappedAt t n { trapAt .bkpt (BitVec.ofNat 64 (2 ^ 63 + i)) x.pc with table := true, time := s.time }) ∧
      (x.suspended = false → s.bpHit x = none → x.img ≠ image → ∃ t, exec (.migrationArrival n) s = .next t ∧
        s.trappedAt t n { trapAt .overlay (BitVec.ofNat 64 (x.pc.toNat + x.img.toNat * 2 ^ 48)) x.pc with time := s.time })) ∧
    (∀ (core : Coord) (index : Nat) (know : Option Carried), s.pkts.look n = some (.start core index know) →
      (s.childComing index = true → exec (.continuationStart n) s = .next s) ∧
      (s.childComing index = false → s.parkedChild core index = none → exec (.continuationStart n) s = .next { s with pkts := s.pkts.del n }) ∧
      ∀ k, s.childComing index = false → s.parkedChild core index = some k →
        ∃ t, exec (.continuationStart n) s = .next t ∧ t.pkts = s.pkts.del n ∧ (t.ctx k).status = .idle ∧ (t.ctx k).g = (s.ctx k).g ∧
          (t.ctx k).pc = (s.ctx k).pc ∧ ((s.ctx k).saved = false → t.mem = s.mem) ∧ ∀ j, j ≠ k → t.ctx j = s.ctx j) ∧
    ∀ (core : Coord) (slot : Nat), s.mayTake core n = some slot → s.stealChoice core = some n → s.longIdle core = true →
      s.modeOf (gtidPnum (s.ctx n).gtid) (gtidLaunch (s.ctx n).gtid) = 0 → ∃ t, exec (.taskSteal core n) s = .next t ∧
        (t.ctx n).status = .transit (s.ctx n).core ∧ (t.ctx n).core = core ∧ (t.ctx n).slot = Fin.ofNat 16 slot ∧
        (t.ctx n).g = (s.ctx n).g ∧ (t.ctx n).pc = (s.ctx n).pc ∧ t.mem = s.mem ∧ ∀ j, j ≠ n → t.ctx j = s.ctx j

/-- The end of waits, and tasks that arrive: the propositions above together. -/
def Obligations.WaitsEndAndTasksArrive : Prop :=
  WaitsAndFlightsEnd ∧ TasksArrive

/-- R225, R265, R266, R461, R474, R495: what comes before the next instruction of a slot that may issue: the breakpoint table stops a task with
BKPT, bit 63 and the entry's number in the tval; an OVERLAY trap names its PC and image, and halts the control context; the oldest
asynchronous record traps a task with ASYNC, at its next PC. Where another comes first, or the slot may not issue, the event does nothing. -/
def Sys2Proof.Machine.TrapsBeforeInstructions : Prop :=
  ∀ (s : State) (k : Nat),
    let x := s.ctx k
    (s.ready k = false ∨ s.before k ≠ .breakpoint → exec (.breakpointTableStop k) s = .next s) ∧
    (s.ready k = false ∨ s.before k ≠ .overlay → exec (.fetchOverlayTrap k) s = .next s) ∧
    (s.ready k = false ∨ s.before k ≠ .async → exec (.asyncTrap k) s = .next s) ∧
    (s.ready k = true →
      (∀ i, s.before k = .breakpoint → s.bpHit x = some i → ∃ t, exec (.breakpointTableStop k) s = .next t ∧
        s.trappedAt t k { trapAt .bkpt (BitVec.ofNat 64 (2 ^ 63 + i)) x.pc with table := true, time := s.time }) ∧
      (s.before k = .overlay →
        (x.task = true → ∃ t, exec (.fetchOverlayTrap k) s = .next t ∧
          s.trappedAt t k { trapAt .overlay (BitVec.ofNat 64 (x.pc.toNat + x.img.toNat * 2 ^ 48)) x.pc with time := s.time }) ∧
        (x.task = false → exec (.fetchOverlayTrap k) s = .next (s.haltControl x.core FaultCode.overlay.num))) ∧
      ∀ r rest, s.before k = .async → x.asyncs = r :: rest → ∃ t, exec (.asyncTrap k) s = .next t ∧ (t.ctx k).asyncs = rest ∧
        s.trappedAt t k { trapAt .async r.tval x.pc with
          inner := r.code, role := r.role, olnch := r.olnch, oindex := r.oindex, time := r.time, qsel := r.qsel, opid := r.opid })

/-- R163, R233 to R237, R267: a task that misses its heartbeat has its core fenced, with its slot and GTID, and a further one sets MULTI; the host
may fence a core with SLOT and GTID 0 and lifts a fence, which restarts the timers of the tasks on the core; CTRL_RESUME starts a halted control
context at %ovl. On a core that is not so a command does nothing.
That a second forced fence changes nothing, and that nothing takes effect before the boot, are the model's choices (log entries 111 and 91). -/
def Sys2Proof.Machine.FencesAndResumes : Prop :=
  ∀ (s : State),
    (∀ k, s.missed (s.ctx k) = false → exec (.heartbeatExpiry k) s = .next s) ∧
    (∀ k, s.missed (s.ctx k) = true →
      let core := (s.ctx k).core
      ((s.coreAt core).fenced = true → exec (.heartbeatExpiry k) s = .next (if (s.ctx k).gtid = (s.coreAt core).cfgtid then s
        else s.setCore core { s.coreAt core with multi := true })) ∧
      ((s.coreAt core).fenced = false → ∃ t, exec (.heartbeatExpiry k) s = .next t ∧
        (t.coreAt core).fenced = true ∧ (t.coreAt core).fslot = BitVec.ofNat 4 (s.ctx k).slot.val ∧
        (t.coreAt core).cfgtid = (s.ctx k).gtid ∧ (t.coreAt core).multi = false ∧ t.ladder.isSome = true)) ∧
    ∀ core : Coord,
      (s.boot ≠ .running ∨ (s.coreAt core).fenced = true → exec (.forceFence core) s = .next s) ∧
      (s.boot = .running → (s.coreAt core).fenced = false → ∃ t, exec (.forceFence core) s = .next t ∧ (t.coreAt core).fenced = true ∧
        (t.coreAt core).fslot = 0 ∧ (t.coreAt core).cfgtid = 0 ∧ t.ladder.isSome = true) ∧
      (s.boot ≠ .running ∨ (s.coreAt core).fenced = false → exec (.fenceLift core) s = .next s) ∧
      (s.boot = .running → (s.coreAt core).fenced = true → ∃ t, exec (.fenceLift core) s = .next t ∧ (t.coreAt core).fenced = false ∧
        t.mem = s.mem ∧ ∀ k, t.ctxs.look k = (s.ctxs.look k).map fun x => if x.onCore core && !s.away x then { x with hb := 0 } else x) ∧
      (s.boot ≠ .running ∨ (s.coreAt core).chalt = false → exec (.controlContextResume core) s = .next s) ∧
      (s.boot = .running → (s.coreAt core).chalt = true → ∃ t, exec (.controlContextResume core) s = .next t ∧
        (t.coreAt core).chalt = false ∧ (t.coreAt core).active = true ∧ (t.ctx core.toNat).pc = (s.coreAt core).ovl.setWidth 32 ∧
        (t.ctx core.toNat).g = (s.ctx core.toNat).g ∧ t.mem = s.mem)

/-- Traps that come before an instruction, fences and resumes: the propositions above together. -/
def Obligations.TrapsBeforeInstructionsAndFences : Prop :=
  TrapsBeforeInstructions ∧ FencesAndResumes

/-- R38, R40, R43, R44, R478: a free walker takes the walk that has waited longest and starts at the root of its partition, or faults where the root
may not be read; a walk reads the entry of its level, descends to the next table, faults, or returns a leaf, a compare-and-swap setting A and D
first where they are needed. A leaf goes to the instruction that waits for it and into its cluster's cache, and a fault is taken by the
instruction.
That a root which does not exist faults with reason 2 is the model's reading (log entry 16). -/
def Sys2Proof.Machine.WalksDescendAndReturn : Prop :=
  ∀ (s : State) (n : Nat) (w : Walk), s.walks.look n = some w →
    (∀ die,
      (s.waitingWalk die = none → exec (.translationMiss die) s = .next s) ∧
      (s.waitingWalk die = some n →
        (w.requesters = [] → exec (.translationMiss die) s = .next { s with walks := s.walks.del n }) ∧
        (w.requesters ≠ [] → exec (.translationMiss die) s = .next (
          if Config.walkersPerDie ≤ s.walksOn die then s
          else if tableOk (s.part w.pnum) (s.part w.pnum).root then { s with
            walks := s.walks.put n { w with started := true, base := (s.part w.pnum).root, level := 3, cas := none } }
          else s.walkFault n .xlatePerm 2 3)))) ∧
    (let a := entryAddr w.base w.level w.va
     (w.started = false ∨ w.cas.isSome = true → exec (.walkEntryRead n) s = .next s) ∧
     (w.started = true → w.cas = none →
       (s.poisoned a = true → exec (.walkEntryRead n) s = .next (s.walkFault n .sramEcc 0 w.level)) ∧
       (s.poisoned a = false → exec (.walkEntryRead n) s = .next (match walkEntry (s.part w.pnum) (s.entryAt a) w.level w.write with
          | .fault c r => s.walkFault n c r w.level
          | .descend b => { s with walks := s.walks.put n { w with base := b, level := w.level - 1 } }
          | .leaf e lacks => if lacks && !w.probes then { s with walks := s.walks.put n { w with cas := some e } }
            else s.walkReturn n e w.level))) ∧
     (w.cas = none → exec (.walkAdCasResult n) s = .next s) ∧
     ∀ e, w.cas = some e →
       (s.entryAt a ≠ e ∨ s.poisoned a = true → exec (.walkAdCasResult n) s = .next { s with walks := s.walks.put n { w with cas := none } }) ∧
       (s.entryAt a = e → s.poisoned a = false → exec (.walkAdCasResult n) s = .next
         ((s.homeWrite (physHome a) a (leBytes 8 (setAD e w.write).toNat)).walkReturn n (setAD e w.write) w.level))) ∧
    ∀ (k : Nat) (x : Ctx) (va : Nat) (write : Bool), w.requesters = [.ctx k] → s.ctxs.look k = some x → x.status = .flight (.walk va write) →
      let u : State := { s with walks := s.walks.del n }
      let leaf (e : Word) (level : Nat) : Leaf := { vpn := va / 2 ^ 16, write, level, entry := e }
      (∀ e level, s.walkReturn n e level = (u.tlbPut (clusterOf x.core) w.pnum (leaf e level)).setCtx k
        { x with leaves := x.leaves ++ [leaf e level], status := .flight (.home write) }) ∧
      ∀ c r level, s.walkFault n c r level = (u.countCluster (clusterOf x.core) 5 3).takeFault k
        (trapAt c (if c = .sramEcc then 0 else xlateTval r level va) x.pc)

/-- R68, R83, R85: a home fills a line into a bank with room, or in place of a victim, which leaves for the write-back buffer if it is dirty, with
the bytes that stand behind it, and the access goes on; it goes on without one where the line has come or no bank takes it. A tier accepts a
line that waits in a write-back buffer. -/
def Sys2Proof.Machine.FillsAndWritebacks : Prop :=
  ∀ (s : State),
    (∀ (k bank : Nat) (victim : Option Nat), (∀ pa l va, (s.ctx k).status ≠ .flight (.fill pa l va)) →
      exec (.homeMissFill k bank victim) s = .next s) ∧
    (∀ (k bank pa va : Nat) (victim : Option Nat) (x : Ctx) (l : Leaf), s.ctxs.look k = some x → x.status = .flight (.fill pa l va) →
      let home := homeOf l.entry pa va
      let on : Ctx := { x with status := .flight (.home l.write), arrived := true }
      ((s.lines.look (pa / 64)).isSome = true ∨ (s.clusterAt home).caches = false →
        exec (.homeMissFill k bank victim) s = .next (s.setCtx k on)) ∧
      (s.lines.look (pa / 64) = none → (s.clusterAt home).caches = true → (s.clusterAt home).allocatable bank = false →
        exec (.homeMissFill k bank victim) s = .next s) ∧
      (s.lines.look (pa / 64) = none → (s.clusterAt home).allocatable bank = true →
        let filled (t : State) (others : Tbl Line) : Prop := ∃ ln : Line, t.lines = others.put (pa / 64) ln ∧ ln.home = home ∧ ln.bank = bank ∧
          ln.dirty = false ∧ ln.poison = false ∧ (List.range 64).map (lineByte ln.data) = s.behind home (pa / 64 * 64) 64 ∧
          t.ctx k = on ∧ t.mem = s.mem
        ((s.linesIn home bank).length < Config.linesPerBank → ∃ t, exec (.homeMissFill k bank victim) s = .next t ∧ filled t s.lines) ∧
        (Config.linesPerBank ≤ (s.linesIn home bank).length →
          (victim = none → exec (.homeMissFill k bank victim) s = .next s) ∧
          ∀ v ln, victim = some v → v ∈ s.linesIn home bank → s.lines.look v = some ln →
            (ln.dirty = true → (s.clusterAt home).writebacks.length < Config.writebackLines) → ln.home = home → ln.poison = false →
              ∃ t, exec (.homeMissFill k bank victim) s = .next t ∧ filled t (s.lines.del v) ∧
                (ln.dirty = true → (v, ln.data) ∈ (t.clusterAt home).writebacks)))) ∧
    (∀ line, s.writebackOf line = none → exec (.writebackAccept line) s = .next s) ∧
    ∀ (line cl : Nat) (d : BitVec 512), s.writebackOf line = some cl →
      ((s.clusterAt cl).writebacks.find? fun e => e.1 == line) = some (line, d) → s.inv →
        ∃ t, exec (.writebackAccept line) s = .next t ∧ t.tierBytes (line * 64) 64 = (List.range 64).map (lineByte d) ∧
          (t.clusterAt cl).writebacks = (s.clusterAt cl).writebacks.filter (fun e => e.1 != line) ∧ t.lines = s.lines ∧
          ∀ a, (∀ i < 64, cellAddr (line * 64 + i) ≠ a) → Mem.byte t.mem a = Mem.byte s.mem a

/-- Page walks, fills and writebacks: the propositions above together. -/
def Obligations.WalksFillsAndWritebacks : Prop :=
  WalksDescendAndReturn ∧ FillsAndWritebacks

/-- R45 to R49, R94 to R98, R101: XSDCTL with GO starts a shootdown of a partition's range, and with a bad range or a busy unit sets ERR; at its drop
point a cache keeps no covered entry, and a store held for a covered page at a cluster translates again; when every cache is past it and
nothing is in flight under one, DONE is set and the interrupt raised. A page-count report adds one to its page's counter, up to its limit,
and a counter that reaches its threshold is notified; one outside the window is counted and discarded.
That a report which the counter's address refuses adds 2 to the unclaimed accesses is the model's reading (log entry 121). -/
def Obligations.ShootdownsAndPageCounts : Prop :=
  ∀ (s : State) (cp : Fin 4),
    (∀ v : Word, s.boot = .running →
      let r := s.sdRegsOf cp.val
      let bad := r.busy || (!v.getLsbD 10 && sdVpn r.hi < sdVpn r.lo) || v.extractLsb' 0 6 == (0 : BitVec 6) ||
        Config.partitions < (v.extractLsb' 0 6).toNat
      (bad = true → ∃ t, exec (.shootdownStart cp v) s = .next t ∧ (t.sdRegsOf cp.val).err = true ∧ t.shootdowns = s.shootdowns) ∧
      (bad = false → ∃ t d, exec (.shootdownStart cp v) s = .next t ∧ (t.sdRegsOf cp.val).busy = true ∧
        t.shootdowns = s.shootdowns.put cp.val d ∧ d.pnum = (v.extractLsb' 0 6).toNat ∧
        d.lo = (if v.getLsbD 10 then 0 else sdVpn r.lo) ∧ d.hi = (if v.getLsbD 10 then 2 ^ 40 - 1 else sdVpn r.hi) ∧
        ∀ c < Config.clusters, (s.part d.pnum).pitch.getLsbD c = true → c ∈ d.todo)) ∧
    (s.shootdowns.look cp.val = none → (∀ c, exec (.shootdownDropPoint cp c) s = .next s) ∧ exec (.shootdownComplete cp) s = .next s) ∧
    (∀ (d : Shootdown) (c : Nat), s.shootdowns.look cp.val = some d → d.cp = cp.val →
      (c < 10000 → c ∉ d.todo → exec (.shootdownDropPoint cp c) s = .next s) ∧
      (c < 10000 → c ∈ d.todo →
        ∃ t, exec (.shootdownDropPoint cp c) s = .next t ∧ (∀ e ∈ t.cacheAt c, d.covers e.pnum e.leaf = false) ∧
          (∀ e ∈ s.cacheAt c, d.covers e.pnum e.leaf = false → e ∈ t.cacheAt c) ∧
          (∃ d', t.shootdowns.look cp.val = some d' ∧ c ∉ d'.todo) ∧ t.mem = s.mem ∧ t.ctxs = s.ctxs) ∧
      ∀ n h, 10000 ≤ c → Tbl.wf s.held = true → s.held.look n = some h → h.home = c - 10000 → d.holdsStore n h = true → h.walking = none →
        h.ready = none → ∃ t h', exec (.shootdownDropPoint cp c) s = .next t ∧ t.held.look n = some h' ∧ h'.walking = some cp.val ∧
          t.mem = s.mem ∧ t.lines = s.lines) ∧
    (∀ d : Shootdown, s.shootdowns.look cp.val = some d →
      (s.sdComplete d = false → exec (.shootdownComplete cp) s = .next s) ∧
      (s.sdComplete d = true → exec (.shootdownComplete cp) s = .next { s with
        shootdowns := s.shootdowns.del cp.val, sdregs := (s.sdregs.put cp.val { s.sdRegsOf cp.val with busy := false, done := true }),
        irqs := s.irqs ++ [.shootdown cp.val] })) ∧
    (s.reports = [] → exec .pageCountReport s = .next s) ∧
    ∀ (r : PageReport) (rest : List PageReport), s.reports = r :: rest →
      let p := s.part r.pnum
      let first := ((p.pc.getD 1 0).extractLsb' 0 40).toNat
      let inside := (p.pc.getD 0 0).getLsbD 63 && first ≤ r.vpn && r.vpn - first < ((p.pc.getD 1 0).extractLsb' 40 24).toNat
      (inside = false → exec .pageCountReport s = .next { s with reports := rest, discardedReports := s.discardedReports + 1 }) ∧
      (inside = true →
        let a := pcAddr (p.pc.getD 0 0) + (r.vpn - first) * 4
        let old := leValue (s.physBytes a 4)
        let t := ({ s with reports := rest } : State).physBytesWrite a (leBytes 4 (min (old + 1) 0xFFFFFFFF))
        (physOk a 4 = false → exec .pageCountReport s = .next { s with reports := rest, unclaimed := s.unclaimed + 2 }) ∧
        (physOk a 4 = true → exec .pageCountReport s =
          .next (if old + 1 = ((p.pc.getD 2 0).extractLsb' 0 32).toNat then t.notify p r else t)))

/-- R147 to R150: the oldest accepted entry is delivered behind the others, into the ring where the extension is empty and the ring has room;
an entry of the extension moves into a ring with room; one that a ring takes is stored there as its slot image; returning credits reach the
producer. -/
def Sys2Proof.Machine.EntriesAndCreditsArrive : Prop :=
  ∀ (s : State) (n : Nat),
    (s.queue? n = none → exec (.creditReturn n) s = .next s ∧ exec (.entryDelivery n) s = .next s ∧ exec (.extensionRefill n) s = .next s) ∧
    ∀ q : Queue, s.queue? n = some q →
    (∃ t, exec (.creditReturn n) s = .next t ∧ s.queueNow t n { q with credits := q.credits + q.returning, returning := 0 }) ∧
    (q.transit = [] → ∃ t, exec (.entryDelivery n) s = .next t ∧ s.queueNow t n q) ∧
    (∀ (e : Entry) (r : List Entry), q.transit = e :: r →
      let ring := q.inRing = q.entries.length ∧ q.inRing < q.depth
      let q' : Queue := { q with transit := r, entries := q.entries ++ [e] }
      (¬ring → ∃ t, exec (.entryDelivery n) s = .next t ∧ s.queueNow t n q') ∧
      (ring → ∃ t, exec (.entryDelivery n) s = .next t ∧ s.queueStored t n { q' with inRing := q.inRing + 1 } q.inRing e)) ∧
    (¬(q.inRing < q.entries.length ∧ q.inRing < q.depth) → ∃ t, exec (.extensionRefill n) s = .next t ∧ s.queueNow t n q) ∧
    ∀ e : Entry, q.entries[q.inRing]? = some e → q.inRing < q.depth →
      ∃ t, exec (.extensionRefill n) s = .next t ∧ s.queueStored t n { q with inRing := q.inRing + 1 } q.inRing e

/-- R65, R66, R250 to R253, R256: a box office decides the first request that is new or to be decided again: a grant is recorded with it, a refused
ACQ waits, a refused ACQT ends with its code, and one that exceeds its claim leaves; a switching bank is zero, holds no line, and has its new
mode; a DISCARD entry goes once nothing can reach its bank.
What can still reach a bank, and that entries for one retiring bank go in turn, are the model's readings (log entry 30). -/
def Sys2Proof.Machine.BoxEventsAndBanks : Prop :=
  ∀ (s : State) (cl : Nat),
    (s.nextReq cl = none → exec (.boxDecision cl) s = .next s ∧ exec (.boxRedecision cl) s = .next s) ∧
    (∀ (r : BoxReq) (w : Word), s.nextReq cl = some r → r.want = .acq w →
      let e : Instr := if r.redecide then .boxRedecision cl else .boxDecision cl
      let core : Coord := if w.extractLsb' 32 16 = (0xFFFF : BitVec 16) then (s.ctx r.key).core else w.extractLsb' 32 16
      let a := (s.clusterAt cl).boxCheck r.company (requestOf w) core false
      (a = .granted → ∃ t slot tiles lbanks, exec e s = .next t ∧ (t.clusterAt cl).reqs = (s.clusterAt cl).reqs.map (fun q =>
          if q == r then { r with phase := .granted slot tiles lbanks, redecide := false } else q) ∧ t.ctxs = s.ctxs ∧ t.mem = s.mem) ∧
      (a = .notSafe ∨ a = .unavailable → ∃ t, exec e s = .next t ∧ (t.clusterAt cl).reqs = (s.clusterAt cl).reqs.map (fun q =>
          if q == r then { r with phase := if r.waits then .refused (a == .notSafe) else .done (if a = .notSafe then 1 else 2), redecide := false }
          else q) ∧ (t.clusterAt cl).companies = (s.clusterAt cl).companies ∧ t.ctxs = s.ctxs ∧ t.mem = s.mem) ∧
      (a = .exceeded → ∃ t, exec e s = .next t ∧ (t.clusterAt cl).reqs = (s.clusterAt cl).reqs.filter (fun q => q != r) ∧
        (t.clusterAt cl).companies = (s.clusterAt cl).companies ∧ t.ctxs = s.ctxs ∧ t.mem = s.mem)) ∧
    (∀ (r : BoxReq) (core : Coord), s.nextReq cl = some r → r.want = .slot core →
      let e : Instr := if r.redecide then .boxRedecision cl else .boxDecision cl
      let as (p : BoxPhase) (t : State) : Prop := (t.clusterAt cl).reqs = (s.clusterAt cl).reqs.map (fun q =>
        if q == r then { r with phase := p, redecide := false } else q) ∧ t.ctxs = s.ctxs ∧ t.mem = s.mem
      let a := (s.clusterAt cl).boxCheck r.company { Triple.zero with slots := 1 } core true
      (∀ i, s.heldSlot cl r.company core = some i → ∃ t, exec e s = .next t ∧ as (.granted i 0 0) t ∧
        (t.clusterAt cl).companies = (s.clusterAt cl).companies) ∧
      (s.heldSlot cl r.company core = none → (a = .granted → ∃ t i, exec e s = .next t ∧ as (.granted i 0 0) t ∧
          i ∈ (s.clusterAt cl).freeSlots core ∧ ∀ j ∈ (s.clusterAt cl).freeSlots core, i ≤ j) ∧
        (a ≠ .granted → ∃ t, exec e s = .next t ∧ (t.clusterAt cl).companies = (s.clusterAt cl).companies ∧
          as (if r.waits then .refused (a == .notSafe) else .done (BitVec.ofNat 64 a.code)) t))) ∧
    (∀ r : BoxReq, s.nextReq cl = some r → exec (if r.redecide then .boxDecision cl else .boxRedecision cl) s = .next s) ∧
    (∀ bank : Nat, bank < 32 →
      (((s.clusterAt cl).bankAt bank).next = none → exec (.bankSwitch cl bank) s = .next s) ∧
      ∀ mode, ((s.clusterAt cl).bankAt bank).next = some mode → ∃ t, exec (.bankSwitch cl bank) s = .next t ∧
        (t.clusterAt cl).bankAt bank = { (s.clusterAt cl).bankAt bank with mode, next := none } ∧
        (∀ i < 65536, Mem.byte t.mem (bankPa cl bank i) = 0) ∧ (Tbl.wf s.lines = true → t.linesIn cl bank = []) ∧ t.ctxs = s.ctxs) ∧
    ∀ company lbank : Nat, ((s.clusterAt cl).discardAt company lbank = none → exec (.discardEntryRemove cl company lbank) s = .next s) ∧
     ∀ i : Nat, (s.clusterAt cl).discardAt company lbank = some i →
      (s.stillReaches cl company lbank = true → exec (.discardEntryRemove cl company lbank) s = .next s) ∧
      (s.stillReaches cl company lbank = false → (s.clusterAt cl).retiringBank = none →
        ∃ t, exec (.discardEntryRemove cl company lbank) s = .next t ∧ (t.clusterAt cl).diverts = (s.clusterAt cl).diverts.del i ∧
          t.ctxs = s.ctxs ∧ t.mem = s.mem)

/-- Entries and credits arrive; the box office decides; banks switch: the propositions above together. -/
def Obligations.FabricDeliversAndBanksSwitch : Prop :=
  EntriesAndCreditsArrive ∧ BoxEventsAndBanks

/-- R43, R101, R163, R192, R357, R373 to R375, R517: an engine operation whose turn it is moves its next bytes and ends with their number; one
whose turn it is not does nothing. A CPYQ pushes one entry for each credit and faults through a FENCED register, a message sends 64 bytes a
packet, to this package or another, a CPYS of a bad record ends with OPERAND_FORM, and a translation that misses waits for its walk.
That a CPYQ faults through a FENCED register, and the tval of a landing that was dropped, are the model's readings (log entries 105 and 31). -/
def Obligations.EngineOperationsMoveData : Prop :=
  ∀ (s : State) (n : Nat),
   (s.ops.look n = none → exec (.copyOperation n) s = .next s ∧ exec (.messageSendOperation n) s = .next s) ∧
   ∀ o : EngOp, s.ops.look n = some o →
    (s.opTurn n o = false → exec (.copyOperation n) s = .next s ∧ exec (.messageSendOperation n) s = .next s) ∧
    (s.opTurn n o = true →
    let ends (r : OpResult) : State := { s with ops := s.ops.upd n fun o => { o with result := some r } }
    (∀ va, o.body = .badShape va → exec (.copyOperation n) s = .next (ends (.faulted .operandForm (BitVec.ofNat 64 va)))) ∧
    (∀ (sspc dspc : Fin 4) (sna dna : Bool) (pattern : Option Word) (remote : BitVec 32) (c : CopyShape),
      o.body = .copy sspc dspc sna dna pattern remote c →
        (o.flying ≠ 0 → exec (.copyOperation n) s = .next s) ∧
        (o.flying = 0 →
        (c.len * c.rows * c.planes ≤ o.done → o.dropped = false →
          exec (.copyOperation n) s = .next (ends (.resolved (BitVec.ofNat 32 (c.len * c.rows * c.planes))))) ∧
        (c.len * c.rows * c.planes ≤ o.done → o.dropped = true → o.refused = false →
          exec (.copyOperation n) s = .next (ends (.faulted .xlatePerm (xlateTval 2 0 c.dst)))) ∧
        (o.done < c.len * c.rows * c.planes →
          let src := (c.at o.done).1
          let dst := (c.at o.done).2.1
          let left := (c.at o.done).2.2
          let k := min left (if pattern.isSome then 64 - dst % 64 else min (64 - dst % 64) (64 - src % 64))
          let fill (w : Word) := (List.range k).map fun i => w.extractLsb' (8 * ((o.done % c.len + i) % 8)) 8
          let stops (write : Bool) (r : Got × State) : Prop :=
            (r.1 = .wait → exec (.copyOperation n) s = .next s) ∧
            (∀ va, r.1 = .miss va → exec (.copyOperation n) s = .next (s.engMiss n o va write)) ∧
            (∀ f x, r.1 = .fault f x → exec (.copyOperation n) s =
              .next { r.2 with ops := r.2.ops.upd n fun o => { o with result := some (.faulted f x) } })
          let passes (r : Got × State) : Prop := ∃ d, r.1 = .data d
          -- the checks of the source and of the destination come before any access
          let srcCheck := s.engCheck n o sspc 0 src k false
          let dstCheck := s.engCheck n o dspc remote dst k true
          (pattern = none → stops false srcCheck) ∧
          (pattern.isSome = true ∨ passes srcCheck → stops true dstCheck) ∧
          -- what the source gives
          (pattern = none → passes srcCheck → passes dstCheck → stops false (s.engRead n o sspc 0 sna src k)) ∧
          -- what the destination makes of it
          (pattern.isSome = true ∨ passes srcCheck → passes dstCheck →
            ∀ d u, (∀ w, pattern = some w → d = fill w ∧ u = s) → (pattern = none → s.engRead n o sspc 0 sna src k = (.data d, u)) →
            (∀ f x v, u.engWrite n o dspc remote dna dst d = (.fault f x, v) → exec (.copyOperation n) s =
              .next { v with ops := v.ops.upd n fun o => { o with result := some (.faulted f x) } }) ∧
            (∀ p v, u.engWrite n o dspc remote dna dst d = (p, v) → p = .done ∨ p = .flying → ∃ t, exec (.copyOperation n) s = .next t ∧
              t.ops = v.ops.upd n (fun o => { o with done := o.done + k }) ∧ t.mem = v.mem ∧ t.lines = v.lines ∧ t.pkts = v.pkts ∧
              t.ctxs = v.ctxs) ∧
            -- a piece of local memory
            (dspc = 2 → d.length = k → (u.coreAt o.core).localOk dst k = true → (u.clusterAt (clusterOf o.core)).divertOf o.company = none →
              u.ops = s.ops → u.inv → ∃ t, exec (.copyOperation n) s = .next t ∧ u.wroteRange t (localPa o.core dst) d ∧
                t.ops.look n = some { o with done := o.done + k } ∧ t.ctxs = u.ctxs ∧ t.lines = u.lines) ∧
            -- a piece of the scratch of the operation's own company
            (dspc = 1 → remote.getLsbD 29 = false → d.length = k → dst + k ≤ 2 ^ 21 → 65536 ≤ o.key → u.ops = s.ops →
              (∃ co, (u.clusterAt o.cl).companies.look o.company = some co) →
              (∃ b, (u.clusterAt o.cl).physBank o.company (dst / 65536) .scratch = some b) →
                ∃ t, exec (.copyOperation n) s = .next t ∧
                  t.pkts = u.pkts.put u.fresh (.scratch o.cl (.write o.company (dst / 65536) (dst % 65536) d (some n) (some o.source))) ∧
                  t.ops.look n = some { o with done := o.done + k, flying := 1 } ∧ t.mem = u.mem))))) ∧
    (∀ (sspc : Fin 4) (sna : Bool) (src len : Nat) (reg : Fin 16) (queue : Nat) (tag : Option (BitVec 24)),
      o.body = .toQueue sspc sna src len reg queue tag →
        (len ≤ o.done → exec (.copyOperation n) s = .next (ends (.resolved (BitVec.ofNat 32 len)))) ∧
        (o.done < len → s.queue? queue = none → exec (.copyOperation n) s = .next (ends (.resolved (BitVec.ofNat 32 o.done)))) ∧
        (o.done < len → ∀ q : Queue, s.queue? queue = some q →
          (∀ x c, s.ctxs.look o.key = some x → x.gtid = o.gtid → x.qregs[reg].fenced = some c →
            exec (.copyOperation n) s = .next (ends (.faulted .neighbourFenced (queueTval reg true 0 false c.toNat 0)))) ∧
          ((∀ x, s.ctxs.look o.key = some x → x.gtid = o.gtid → x.qregs[reg].fenced = none) →
            (q.discards = false → q.credits = 0 → exec (.copyOperation n) s = .next s) ∧
            (∀ d u, q.discards = true ∨ 1 ≤ q.credits →
              s.engReadMany n o sspc 0 sna (src + o.done) (if q.wide then 32 else 8) = (.data d, u) →
              u.queue? queue = some q → u.ops = s.ops → ∃ t q', exec (.copyOperation n) s = .next t ∧ t.queue? queue = some q' ∧
                (q.discards = true → q' = q) ∧
                (q.discards = false → q'.transit = q.transit ++ [⟨q.fit (BitVec.ofNat 256 (leValue d)), 0, false,
                    if q.tagged then tag.getD 0 else 0⟩] ∧ q'.credits = q.credits - 1 ∧
                  q'.knows = q.knows ++ [.ofCarried (some o.carried)]) ∧
                t.ops.look n = some { o with done := o.done + if q.wide then 32 else 8 } ∧ t.mem = u.mem)))) ∧
    ∀ (spc : Fin 4) (sel : BitVec 32) (src len : Nat) (core : Coord) (tag : Fin 16) (pkg : Option (BitVec 12)) (doff : Nat),
      o.body = .message spc sel src len core tag pkg doff →
        (packetCount len ≤ o.done → o.flying ≠ 0 → exec (.messageSendOperation n) s = .next s) ∧
        (packetCount len ≤ o.done → o.flying = 0 → o.dropped = false →
          exec (.messageSendOperation n) s = .next (ends (.resolved (BitVec.ofNat 32 len)))) ∧
        (o.done < packetCount len → (∀ p, pkg = some p → s.peerPort p.toNat = none →
            exec (.messageSendOperation n) s = .next (ends (.faulted .scope (peerTval (core, p.toNat))))) ∧
          ((∀ p, pkg = some p → (s.peerPort p.toNat).isSome = true) →
            ∀ d u, s.engReadMany n o spc sel false (src + o.done * 64) (min 64 (len - o.done * 64)) = (.data d, u) →
              u.ops = s.ops → ∃ t, exec (.messageSendOperation n) s = .next t ∧
                t.pkts = (if pkg.isSome then u.pkts else
                  u.pkts.put u.fresh (.message core tag o.company (doff + o.done * 64) d o.carried (some n))) ∧
                t.outbox = u.outbox ++ (pkg.map fun p => Sent.message p.toNat o.company core tag.val (doff + o.done * 64) d n).toList ∧
                t.ops.look n = some { o with done := o.done + 1, flying := o.flying + 1 } ∧ t.mem = u.mem)))

/-- R62, R166, R167, R256, R471, R474: a scratch write lands in the physical bank that holds its logical bank, is dropped where none does or
where a DISCARD entry or a bank that retires covers it, and waits at the ingress where its company's entry holds it; a message writes its data and then counts one packet at its counter; the operation that waits
for a landing is told. -/
def Sys2Proof.Machine.LandingsReachScratchAndCounters : Prop :=
  ∀ (s : State) (pkt : Nat),
    ((∀ cl a, s.pkts.look pkt ≠ some (.scratch cl a)) → exec (.scratchLanding pkt) s = .next s) ∧
    ((∀ core tag company doff d know op, s.pkts.look pkt ≠ some (.message core tag company doff d know op)) →
      exec (.messagePacketLanding pkt) s = .next s) ∧
    (∀ (cl company lbank off : Nat) (d : List Byte) (who : Option Nat) (src : Option StoreSrc) (mbox hold : Bool) (log : Nat)
        (lbanks : BitVec 32) (co : Company),
      s.pkts.look pkt = some (.scratch cl (.write company lbank off d who src)) →
        (s.clusterAt cl).divertOf company = some (mbox, hold, log, lbanks) → lbanks.getLsbD lbank = true →
          (s.clusterAt cl).companies.look company = some co → (s.clusterAt cl).discarded company lbank = false → hold = true ∨ log = 0 → ∃ t, exec (.scratchLanding pkt) s = .next t ∧
            t.pkts = s.pkts.del pkt ∧ t.mem = s.mem ∧ t.ops = s.ops ∧
            (t.clusterAt cl).ingress = (s.clusterAt cl).ingress ++ [.write company lbank off d who src]) ∧
    (∀ (cl company lbank off : Nat) (d : List Byte) (who : Option Nat) (src : Option StoreSrc),
      s.pkts.look pkt = some (.scratch cl (.write company lbank off d who src)) → (s.clusterAt cl).divertOf company = none → off + d.length ≤ 65536 → s.inv →
        (∀ b, (s.clusterAt cl).physBank company lbank .scratch = some b → (s.clusterAt cl).discarded company lbank = false →
          ∃ t, exec (.scratchLanding pkt) s = .next t ∧ t.pkts = s.pkts.del pkt ∧ s.wroteRange t (bankPa cl b off) d ∧
          ∀ n o, who = some n → s.ops.look n = some o → t.ops.look n = some { o with flying := o.flying - 1 }) ∧
        ((s.clusterAt cl).physBank company lbank .scratch = none ∨ (s.clusterAt cl).discarded company lbank = true →
          ∃ t, exec (.scratchLanding pkt) s = .next t ∧
          t.pkts = s.pkts.del pkt ∧ t.mem = s.mem ∧
          ∀ n o, who = some n → s.ops.look n = some o → t.ops.look n = some { o with flying := o.flying - 1, dropped := true })) ∧
    ∀ (core : Coord) (tag : Fin 16) (company doff : Nat) (d : List Byte) (know : Carried) (op : Option Nat),
      s.pkts.look pkt = some (.message core tag company doff d know op) → s.inv →
        let m := (s.coreAt core).mail[tag]
        let cl := clusterOf core
        m.owned = false ∨ (s.clusterAt cl).divertOf m.company.toNat = none →
        (∀ b, d ≠ [] → doff % 65536 + d.length ≤ 65536 → doff + d.length ≤ 2 ^ 21 → (s.company? cl company).isSome = true →
          (s.clusterAt cl).divertOf company = none → (s.clusterAt cl).physBank company (doff / 65536) .scratch = some b →
          (s.clusterAt cl).discarded company (doff / 65536) = false →
            ∃ t, exec (.messagePacketLanding pkt) s = .next t ∧ t.pkts = s.pkts.del pkt ∧
              s.wroteRange t (bankPa cl b (doff % 65536)) d ∧ (t.coreAt core).mail[tag].count = (if m.count = 0xFFFFFFFF then m.count else m.count + 1)) ∧
        (d ≠ [] → m.cleared = true → doff % 65536 + d.length ≤ 65536 → (s.company? cl company).isSome = false →
          ∃ t, exec (.messagePacketLanding pkt) s = .next t ∧ t.pkts = s.pkts.del pkt ∧ t.mem = s.mem ∧
            (t.coreAt core).mail[tag] = m ∧
            ∀ n o, op = some n → s.ops.look n = some o → t.ops.look n = some { o with flying := o.flying - 1, dropped := true }) ∧
        (d = [] → ∃ t, exec (.messagePacketLanding pkt) s = .next t ∧ t.pkts = s.pkts.del pkt ∧ t.mem = s.mem ∧
          (t.coreAt core).mail[tag].count = (if m.count = 0xFFFFFFFF then m.count else m.count + 1) ∧
          (t.coreAt core).mail[tag].ovf = (m.ovf || m.count == 0xFFFFFFFF) ∧
          ∀ n o, op = some n → s.ops.look n = some o → t.ops.look n = some { o with flying := o.flying - 1 })

/-- R192, R193, R341, R366, R368, R461: an operation resolves once it has ended, all it sent has landed, and it is the oldest of its queue: its
resolution word and tag go into the register that holds its handle, and a fault is delivered to its task; an exported update is sent, and
translates, in the same step, waits for its walk where it must, is held under a leaf with write-block, and performs on its cell under
one without.
That it has performed only when a shootdown's retry lets it, and its address in a fault of its own, are the model's readings (log entries 27 and
33). -/
def Sys2Proof.Machine.OperationsResolve : Prop :=
  ∀ (s : State) (n : Nat),
    (s.ops.look n = none → exec (.engineResolve n) s = .next s) ∧
    (∀ (o : EngOp), s.ops.look n = some o →
      (s.resolvable n o = false → exec (.engineResolve n) s = .next s) ∧
      (s.resolvable n o = true → s.ctxs.look o.key = none ∨ (s.ctx o.key).gtid ≠ o.gtid ∨ (s.ctx o.key).handleAt o.handle = none →
        ∀ v, o.result = some (.resolved v) →
          (o.exportTo = none → ∃ t, exec (.engineResolve n) s = .next t ∧ t.ops = s.ops.del n ∧ t.ctxs = s.ctxs ∧ t.mem = s.mem ∧ t.pkts = s.pkts) ∧
          ∀ d, o.exportTo = some d →
            let x := s.engineTranslate (.cell s.fresh (clusterOf o.core)) (clusterOf o.core) o.pnum d.va true
            let sent (l : Option Leaf) : Prop := ∃ t, exec (.engineResolve n) s = .next t ∧ t.ops = s.ops.del n ∧ t.ctxs = s.ctxs ∧ t.mem = s.mem ∧
              t.pkts = s.pkts.put s.fresh (.cell o (.resolved v) d l false)
            (∀ l, x.1 = .leaf l → sent (some l)) ∧ (x.1 = .miss → sent none) ∧
            ∀ c w, x.1 = .fault c w → c ≠ .sramEcc → ∃ t, exec (.engineResolve n) s = .next t ∧ t.ops = s.ops.del n ∧ t.pkts = s.pkts) ∧
      ∀ (x : Ctx) (i : Fin 16), s.resolvable n o = true → o.exportTo = none → s.ctxs.look o.key = some x → x.gtid = o.gtid → x.saved = false →
        x.handleAt o.handle = some i →
        (∀ v, o.result = some (.resolved v) → ∃ t, exec (.engineResolve n) s = .next t ∧ t.ops = s.ops.del n ∧
          (t.ctx o.key).g = x.g.set i (setLane x.g[i] 0 (v.setWidth 64 ||| 1 <<< 62)) ∧ (t.ctx o.key).ft = x.ft.set i 0 ∧
          (t.ctx o.key).fut.look i.val = some o.carried ∧ t.mem = s.mem ∧ ∀ k, k ≠ o.key → t.ctx k = s.ctx k) ∧
        (∀ ops streams mask, o.body = .join ops streams mask → o.result = none → ∃ t, exec (.engineResolve n) s = .next t ∧
          t.ops = s.ops.del n ∧ (t.ctx o.key).g = x.g.set i (setLane x.g[i] 0 (1 <<< 62)) ∧ (t.ctx o.key).ft = x.ft.set i 0 ∧
          (t.ctx o.key).fut.look i.val = some o.carried ∧ t.mem = s.mem ∧ ∀ k, k ≠ o.key → t.ctx k = s.ctx k) ∧
        (o.result = some .cancelled → ∃ t, exec (.engineResolve n) s = .next t ∧ t.ops = s.ops.del n ∧
          (t.ctx o.key).g = x.g.set i (setLane x.g[i] 0 (3 <<< 62)) ∧ (t.ctx o.key).ft = x.ft.set i 3 ∧ t.mem = s.mem) ∧
        ∀ c v, o.result = some (.faulted c v) → c ≠ .sramEcc → x.asyncs.length < 4 → ∃ t r, exec (.engineResolve n) s = .next t ∧
          (t.ctx o.key).g = x.g.set i (setLane x.g[i] 0 (BitVec.ofNat 64 c.num ||| 2 <<< 62)) ∧ (t.ctx o.key).ft = x.ft.set i 2 ∧
          (t.ctx o.key).asyncs = x.asyncs ++ [r] ∧ r.code = c.num ∧ r.tval = v ∧ r.qsel = o.qsel ∧ r.gtid = o.gtid) ∧
    ((∀ o r d l h, s.pkts.look n ≠ some (.cell o r d l h)) → exec (.exportCellUpdate n) s = .next s) ∧
    ∀ (o : EngOp) (r : OpResult) (d : CellExport) (leaf : Option Leaf) (held : Bool), s.pkts.look n = some (.cell o r d leaf held) →
      (leaf = none →
        (∀ f, (s.walkFaults.find? fun f => f.who.isCell n) = some f → exec (.exportCellUpdate n) s =
          .next ({ s with pkts := s.pkts.del n, walkFaults := s.walkFaults.erase f }.opFault o f.code (walkTval f.code f.reason f.level d.va))) ∧
        ((∀ f ∈ s.walkFaults, f.who.isCell n = false) → exec (.exportCellUpdate n) s = .next (if s.cellWalks n then s
          else s.engineMiss (.cell n (clusterOf o.core)) (clusterOf o.core) o.pnum d.va true))) ∧
      ∀ l : Leaf, leaf = some l →
        let pa := leafAddr l.entry l.level d.va
        let home := homeOf l.entry pa d.va
        let u : State := { s with pkts := s.pkts.del n }
        (leafWb l.entry = true →
          (held = true → exec (.exportCellUpdate n) s = .next s) ∧
          (held = false → ∃ t, exec (.exportCellUpdate n) s = .next t ∧ t.pkts.look n = some (.cell o r d (some l) true) ∧ t.mem = s.mem ∧
            t.lines = s.lines ∧ t.ctxs = s.ctxs)) ∧
        (leafWb l.entry = false → s.modeOf (gtidPnum o.gtid) (gtidLaunch o.gtid) = 0 →
          (noHome l.entry = true → ∀ c x, s.windowFault false pa 16 l.level d.va true = some (c, x) →
            exec (.exportCellUpdate n) s = .next (u.opFault o c x)) ∧
          (noHome l.entry = false → s.poisoned pa = true →
            exec (.exportCellUpdate n) s = .next (u.opFault o .sramEcc (BitVec.ofNat 64 pa))) ∧
          (noHome l.entry = false → d.va % 16 = 0 → ∀ ln : Line, s.lines.look (pa / 64) = some ln → ln.poison = false →
            (∀ c starts, (cellOf (s.homeBytes home pa 16)).update r = some (c, starts) → ∃ t, exec (.exportCellUpdate n) s = .next t ∧
              t.homeBytes home pa 16 = c.bytes ∧ t.mem = s.mem ∧ t.ops = s.ops ∧ t.ctxs = s.ctxs ∧
              ∀ a, a ≠ pa / 64 → t.lines.look a = s.lines.look a) ∧
            ((cellOf (s.homeBytes home pa 16)).update r = none → ∃ w, exec (.exportCellUpdate n) s = .next w ∧ w.pkts = u.pkts ∧
              w.lines = s.lines)) ∧
          (noHome l.entry = true → s.inv → s.windowFault false pa 16 l.level d.va true = none →
            (∀ c starts, (cellOf (s.tierBytes pa 16)).update r = some (c, starts) → ∃ t, exec (.exportCellUpdate n) s = .next t ∧
              s.wroteRange t pa c.bytes ∧ t.lines = s.lines ∧ t.ops = s.ops) ∧
            ((cellOf (s.tierBytes pa 16)).update r = none → exec (.exportCellUpdate n) s =
              .next (u.opFault o .doubleResolve (BitVec.ofNat 64 (cellOf (s.tierBytes pa 16)).word)))))

/-- Landings and resolutions of engine operations: the propositions above together. -/
def Obligations.LandingsAndResolutions : Prop :=
  LandingsReachScratchAndCounters ∧ OperationsResolve

/-- R403, R404, R408, R409, R411, R412, R415: a tile unit performs its oldest command: TZERO clears the accumulators it selects, TLDA fills the
row buffer and TLDB a macro, or leaves it invalid with a fault, TLDAQ fills the row buffer from queue entries, TMMA adds the product to the
selected columns and needs a valid row buffer and valid macros, TSTOR writes an accumulator's rows in the descriptor's format. -/
def Obligations.TileCommandsPerform : Prop :=
  ∀ (s : State) (core : Coord) (n : Nat) (o : EngOp),
    (s.tileNext core = none → exec (.tileCommandPerform core) s = .next s) ∧
    (s.tileNext core = some (n, o) → s.ops.look n = some o → o.core = core →
      let u := (s.coreAt core).tile
      let ends (r : OpResult) : State := { s with ops := s.ops.upd n fun o => { o with result := some r } }
      (∀ w, o.body = .tget w → exec (.tileCommandPerform core) s = .next (ends (.resolved 0))) ∧
      (∀ w, o.body = .tzero w → ∃ t, exec (.tileCommandPerform core) s = .next t ∧
        (t.coreAt core).tile = { u with acc0 := if w.getLsbD 0 then [] else u.acc0, acc1 := if w.getLsbD 1 then [] else u.acc1 } ∧
        t.ops.look n = some { o with result := some (.resolved 0) } ∧ t.mem = s.mem ∧ t.ctxs = s.ctxs) ∧
      (∀ (spc : Fin 4) (na : Bool) (base : Nat) (d : Vec) (sel : BitVec 32), o.body = .tlda spc na base d sel →
        let rows := rowRanges base d (packedBytes (descFmt d) 256)
        let scales := if descFmt d = 5 then (List.range (descRows d)).map fun i => (addrPlus (descScales d) (8 * i : Nat), 8) else []
        (∀ va v, s.engReadAll n o spc sel na (rows ++ scales) = (.miss va, v) →
          exec (.tileCommandPerform core) s = .next (s.engMiss n o va false)) ∧
        (∀ l v, s.engReadAll n o spc sel na (rows ++ scales) = (.data l, v) → v.ops = s.ops → ∃ t, exec (.tileCommandPerform core) s = .next t ∧
          (t.coreAt core).tile.row = rowBufOf (descFmt d)
            ((l.take rows.length).zipIdx.map fun e => (e.1, byteNats ((l.drop rows.length).getD e.2 []))) ∧
          t.ops.look n = some { o with result := some (.resolved (BitVec.ofNat 32 ((rows ++ scales).map Prod.snd).sum)) } ∧ t.mem = v.mem) ∧
        ∀ c x v, s.engReadAll n o spc sel na (rows ++ scales) = (.fault c x, v) → v.ops = s.ops → ∃ t, exec (.tileCommandPerform core) s = .next t ∧
          (t.coreAt core).tile.row.valid = false ∧ t.ops.look n = some { o with result := some (.faulted c x) }) ∧
      (∀ (spc : Fin 4) (na : Bool) (base : Nat) (d : Vec) (sel : BitVec 32), o.body = .tldb spc na base d sel →
        let rows := rowRanges base d (packedBytes (descFmt d) 64)
        let scales := if descFmt d = 5 then
          ((List.range 8).filter fun b => 32 * b < descRows d).map fun b => (addrPlus (descScales d) (64 * b : Nat), 64) else []
        (∀ va v, s.engReadAll n o spc sel na (rows ++ scales) = (.miss va, v) →
          exec (.tileCommandPerform core) s = .next (s.engMiss n o va false)) ∧
        (∀ l v, s.engReadAll n o spc sel na (rows ++ scales) = (.data l, v) → v.ops = s.ops → ∃ t, exec (.tileCommandPerform core) s = .next t ∧
          (t.coreAt core).tile.b.look (descMacro d) =
            some (tileBOf (descFmt d) (l.take rows.length) ((l.drop rows.length).map byteNats)) ∧
          t.ops.look n = some { o with result := some (.resolved (BitVec.ofNat 32 ((rows ++ scales).map Prod.snd).sum)) } ∧ t.mem = v.mem) ∧
        ∀ c x v, s.engReadAll n o spc sel na (rows ++ scales) = (.fault c x, v) → v.ops = s.ops → ∃ t, exec (.tileCommandPerform core) s = .next t ∧
          (((t.coreAt core).tile.b.getD (descMacro d) TileB.granted).valid = false) ∧
          t.ops.look n = some { o with result := some (.faulted c x) }) ∧
      (∀ (reg : Fin 16) (queue : Nat) (d : Vec), o.body = .tldaq reg queue d →
        let need := descRows d * rowEntries (descFmt d)
        (need ≤ o.taken.length → ∃ t, exec (.tileCommandPerform core) s = .next t ∧
          (t.coreAt core).tile.row = rowBufOf (descFmt d) (rowsOfEntries (descFmt d) (descRows d) o.taken) ∧
          t.ops.look n = some { o with result := some (.resolved (BitVec.ofNat 32 (32 * need))) } ∧ t.mem = s.mem ∧ t.queues = s.queues) ∧
        (o.taken.length < need → ∀ q, s.queue? queue = some q →
          (q.head = none → exec (.tileCommandPerform core) s = .next s) ∧
          ∀ e : Entry, q.head = some e →
            (e.fmark = false → e.kind = 0 → ∃ t q', exec (.tileCommandPerform core) s = .next t ∧ t.queue? queue = some q' ∧
              q'.entries = q.entries.tail ∧ q'.returning = q.returning + 1 ∧ q'.taken = q.taken + 1 ∧
              t.ops.look n = some { o with taken := o.taken ++ [e.payload], done := o.done + 32 } ∧ t.mem = s.mem) ∧
            (e.fmark = false → e.kind ≠ 0 → ∃ t, exec (.tileCommandPerform core) s = .next t ∧ t.queues = s.queues ∧
              (t.coreAt core).tile.row.valid = false ∧
              t.ops.look n = some { o with result := some (.faulted .qcue (queueTval reg false e.kind.val false 0 0)) }) ∧
            (e.fmark = true → ∃ t, exec (.tileCommandPerform core) s = .next t ∧ t.queues = s.queues ∧
              (t.coreAt core).tile.row.valid = false ∧ t.ops.look n = some { o with
                result := some (.faulted .neighbourFenced (queueTval reg false e.kind.val true (e.payload.toNat % 2 ^ 16) 0)) }))) ∧
      (∀ (spc : Fin 4) (na : Bool) (base : Nat) (d : Vec) (sel : BitVec 32), o.body = .tstor spc na base d sel →
        let bytes := packedBytes (descFmt d) 256
        (o.flying ≠ 0 → exec (.tileCommandPerform core) s = .next s) ∧
        (o.flying = 0 → descRows d * bytes ≤ o.done → o.dropped = false →
          exec (.tileCommandPerform core) s = .next (ends (.resolved (BitVec.ofNat 32 (descRows d * bytes))))) ∧
        (o.flying = 0 → o.done < descRows d * bytes →
          let addr := addrPlus base (((o.done / bytes : Nat) : Int) * descStride d + (o.done % bytes : Nat))
          let k := min (bytes - o.done % bytes) (64 - addr % 64)
          let piece := slice (storeRow (if descAcc d = 1 then u.acc1 else u.acc0) (descFmt d) (o.done / bytes) (rndOf (o.fmt.extractLsb' 4 2))
            (o.fmt.getLsbD 6)) (o.done % bytes) k
          (∀ va v, s.engWrite n o spc sel na addr piece = (.miss va, v) →
            exec (.tileCommandPerform core) s = .next (s.engMiss n o va true)) ∧
          (∀ c x v, s.engWrite n o spc sel na addr piece = (.fault c x, v) → exec (.tileCommandPerform core) s =
            .next { v with ops := v.ops.upd n fun o => { o with result := some (.faulted c x) } }) ∧
          (∀ p v, s.engWrite n o spc sel na addr piece = (p, v) → p = .done ∨ p = .flying →
            exec (.tileCommandPerform core) s = .next { v with ops := v.ops.upd n fun o => { o with done := o.done + k } }) ∧
          (spc = 2 → (s.coreAt core).localOk addr k = true → (s.clusterAt (clusterOf core)).divertOf o.company = none → s.inv →
            ∃ t, exec (.tileCommandPerform core) s = .next t ∧ s.wroteRange t (localPa core addr) piece ∧
              t.ops.look n = some { o with done := o.done + k }))) ∧
      ∀ w, o.body = .tmma w →
        (u.row.valid = false → exec (.tileCommandPerform core) s = .next (ends (.faulted .tileState (tileTval 3 0)))) ∧
        (u.row.valid = true → (∀ q < 4, w.getLsbD q = true → (u.b.getD q TileB.granted).valid = true) →
          ∃ t, exec (.tileCommandPerform core) s = .next t ∧ (t.coreAt core).tile.row = u.row ∧ (t.coreAt core).tile.b = u.b ∧
            (t.coreAt core).tile.acc0 = (if w.getLsbD 4 then u.acc0 else (t.coreAt core).tile.acc0) ∧
            (t.coreAt core).tile.acc1 = (if w.getLsbD 4 then (t.coreAt core).tile.acc1 else u.acc1) ∧
            (∀ i < 16, ∀ c < 256, ((if w.getLsbD 4 then (t.coreAt core).tile.acc1 else (t.coreAt core).tile.acc0).getD (i * 256 + c) 0).toNat =
              let old := ((if w.getLsbD 4 then u.acc1 else u.acc0).getD (i * 256 + c) 0).toNat
              (if i < u.row.rows ∧ w.getLsbD (c / 64) = true then
                accAdd old (productElem u.row (u.b.getD (c / 64) TileB.granted) (u.row.rowMags i) i (c % 64)) else old) % 2 ^ 32) ∧
            t.mem = s.mem ∧ t.ctxs = s.ctxs))

/-- R163, R421, R423, R424, R426: an operator that is stopped or faulted does nothing, and one acts only in its action slots, once in each; a fault marker at the head of the input of a FORK, REDUCE, FILTER or
CONVERT is taken, and the operator is faulted with NEIGHBOUR_FENCED. -/
def Sys2Proof.Machine.OperatorsRunAndFault : Prop :=
  ∀ (s : State) (k : Nat), (s.oprs.look k = none → ∀ kind, ∀ i ∈ actionOf kind k, exec i s = .next s) ∧
   ∀ o : Opr, s.oprs.look k = some o →
    (∀ kind, kind ≠ o.kind → s.distAsked k o = none → ∀ i ∈ actionOf kind k, exec i s = .next s) ∧
    (s.oprTurn o = false ∨ o.actedAt = s.cycle + 1 → ∀ i ∈ actionOf o.kind k, i ≠ .distFrameResize k → exec i s = .next s) ∧
    (s.distAsked k o = none → o.state = .stopped ∨ o.state = .faulted → ∀ i ∈ actionOf o.kind k, exec i s = .next s) ∧
    ∀ (n : Nat) (q : Queue) (e : Entry), o.state = .running → s.mayAct o → o.kind = .fork ∨ o.kind = .reduce ∨ o.kind = .filter ∨ o.kind = .convert →
      o.ins.look 0 = some n → s.queue? n = some q → q.head = some e → e.fmark = true → ∀ i ∈ actionOf o.kind k,
        ∃ t o', exec i s = .next t ∧ t.oprs.look k = some o' ∧ o'.state = .faulted ∧ o'.code = FaultCode.neighbourFenced.num ∧
          o'.items = o.items + 1

/-- R431 to R434: FORK copies each entry to its outputs, ZIP joins two data entries into one of 128 bits, JOIN takes from the first enabled input
after its last choice, FILTER drops what fails its comparison, CONVERT packs the converted elements, and REDUCE gives its accumulator before a
cue of its level. Cues pass through; inputs whose kinds differ stop a ZIP.
That JOIN passes over inputs without a head is the model's reading (log entry 41). -/
def Sys2Proof.Machine.StreamOperators : Prop :=
  ∀ (s : State) (k : Nat) (o : Opr) (n m : Nat) (q r : Queue) (e : Entry) (rest : List Entry),
    (o.kind = .fork → s.hasInput k o 0 n q e rest → (∀ p p' x, p ≠ p' → o.outs.look p = some x → o.outs.look p' ≠ some x) →
      (∀ p, 16 ≤ p → p < 16 + o.field 8 0 3 → ∃ m r, s.hasOutput o p m r 1) → ∃ t, exec (.forkAction k) s = .next t ∧ t.tookFrom n q rest ∧
        ∀ p m r, 16 ≤ p → p < 16 + o.field 8 0 3 → s.hasOutput o p m r 1 → t.pushedTo m r [e]) ∧
    (∀ (n' : Nat) (q' : Queue) (e' : Entry) (rest' : List Entry), o.kind = .zip → s.hasInput k o 0 n q e rest → s.hasInput k o 1 n' q' e' rest' →
      n ≠ n' →
        (e.kind ≠ e'.kind → ∃ t, exec (.zipAction k) s = .next t ∧ s.cueFaulted t k) ∧
        (e.kind = e'.kind → s.hasOutput o 16 m r 1 → ∃ t, exec (.zipAction k) s = .next t ∧ t.tookFrom n q rest ∧ t.tookFrom n' q' rest' ∧
          t.pushedTo m r [{ e with payload := zipped e e' }])) ∧
    (∀ i : Fin 4, o.kind = .join → s.modeOf o.pnum o.launch = 0 → s.hasInput k o i.val n q e rest → e.kind = 0 → (o.preg 8).getLsbD i.val = true →
      o.lastIn < 4 → s.hasOutput o 16 m r 1 → (∀ j : Fin 4, (o.preg 8).getLsbD j.val = true → ∀ f, s.inHead o j.val = some f → f.fmark = false) →
      (∀ j : Fin 4, (j.val + 4 - o.lastIn) % 4 < (i.val + 4 - o.lastIn) % 4 → (o.preg 8).getLsbD j.val = true →
        ∀ f, s.inHead o j.val = some f → f.kind ≠ 0) →
      ∃ t o', exec (.joinAction k) s = .next t ∧ s.movedEntry t n q rest m r [e] ∧ t.oprs.look k = some o' ∧ o'.lastIn = (i.val + 1) % 4) ∧
    (o.kind = .filter → s.hasInput k o 0 n q e rest →
      (e.kind = 0 → o.filterPass e.payload = false → ∃ t o', exec (.filterAction k) s = .next t ∧ t.tookFrom n q rest ∧
        t.oprs.look k = some o' ∧ o'.drops = if o.drops = 0xFFFFFFFFFFFFFFFF then o.drops else o.drops + 1) ∧
      (e.kind ≠ 0 ∨ o.filterPass e.payload = true → s.hasOutput o 16 m r 1 →
        ∃ t, exec (.filterAction k) s = .next t ∧ s.movedEntry t n q rest m r [e])) ∧
    (o.kind = .convert → s.hasInput k o 0 n q e rest → s.hasOutput o 16 m r 1 → ∃ t, exec (.convertAction k) s = .next t ∧
      s.movedEntry t n q rest m r [if e.kind = 0 then { e with payload := o.packed e.payload } else e]) ∧
    (o.kind = .reduce → s.hasInput k o 0 n q e rest →
      (e.kind = 0 → ∃ t o', exec (.reduceAction k) s = .next t ∧ t.tookFrom n q rest ∧ t.oprs.look k = some o' ∧
        o'.nth = o.nth + 1 ∧ o'.acc = o.reduceStep (e.payload.toNat % 2 ^ 32)) ∧
      (e.kind ≠ 0 → e.kind.val < o.field 8 6 3 → ∃ t o', exec (.reduceAction k) s = .next t ∧ t.tookFrom n q rest ∧
        t.oprs.look k = some o' ∧ o'.nth = o.nth ∧ o'.acc = o.acc) ∧
      (e.kind ≠ 0 → o.field 8 6 3 ≤ e.kind.val → s.hasOutput o 16 m r 2 → ∃ t o', exec (.reduceAction k) s = .next t ∧
        s.movedEntry t n q rest m r [{ payload := o.accNow.setWidth 256, kind := 0, fmark := false, tag := e.tag }, e] ∧
        t.oprs.look k = some o' ∧ o'.accNow = o.accStart))

/-- Operators: running, faulting, moving streams: the propositions above together. -/
def Obligations.OperatorsRunAndMoveStreams : Prop :=
  OperatorsRunAndFault ∧ StreamOperators

/-- R428 to R430, R438: a SEQ pushes the next address and, where its innermost index wraps, a cue; a REF takes an index, reads its element and
pushes the values in order; a PUT writes an element; a BRIDGE sends an entry over its wire and its partner pushes it. An element that is not
aligned faults ALIGN. A SEQ stops behind its last entry, an end of stream if it has EOS; a REF that stops goes on until it has pushed what it
has taken.
That REF takes a misaligned index and faults when the read returns is the model's reading (log entry 39); what PUT does while a write of its
own is held (log entry 130), and that a BRIDGE without a partner does nothing (log entry 122), are its choices. -/
def Obligations.AddressAndBridgeOperators : Prop :=
  ∀ (s : State) (k : Nat) (o : Opr) (n m : Nat) (q r : Queue) (e : Entry) (rest : List Entry),
    (o.kind = .seq → s.oprs.look k = some o → o.state = .running → s.mayAct o → o.indices.length = o.dims → o.seqOut = [] → o.seqDone = false →
      s.hasOutput o 16 m r 1 → (∀ d, d < o.dims → o.seqCount d ≠ 0) → ∃ t o', exec (.seqAction k) s = .next t ∧ t.oprs.look k = some o' ∧
        t.pushedTo m r [{ payload := o.seqValue.setWidth 256, kind := 0, fmark := false, tag := 0 }] ∧
        (o.indices.headD 0 + 1 ≠ o.seqCount 0 → o'.idx.headD 0 = o.indices.headD 0 + 1 ∧ o'.idx.tail = o.indices.tail ∧ o'.seqOut = []) ∧
        (o.indices.headD 0 + 1 = o.seqCount 0 → 2 ≤ o.dims → o.indices.getD 1 0 + 1 ≠ o.seqCount 1 →
          o'.idx.headD 0 = 0 ∧ o'.idx.getD 1 0 = o.indices.getD 1 0 + 1 ∧ o'.seqOut = [cueEntry 1 0 0]) ∧
        (o.indices.headD 0 + 1 = o.seqCount 0 → o.dims = 1 →
          (o.preg 8 &&& 8 = 0 → o'.state = .stopped ∧ o'.seqOut = []) ∧
          (o.preg 8 &&& 8 ≠ 0 → o'.state = .running ∧ o'.seqOut = [cueEntry 7 0 0] ∧ o'.seqDone = true))) ∧
    (o.kind = .seq → s.oprs.look k = some o → o.state = .running → s.mayAct o → o.seqOut = [e] → o.seqDone = true → s.hasOutput o 16 m r 1 →
      ∃ t o', exec (.seqAction k) s = .next t ∧ t.oprs.look k = some o' ∧ t.pushedTo m r [e] ∧ o'.state = .stopped ∧ o'.seqOut = []) ∧
    (o.kind = .ref →
      (s.hasInput k o 0 n q e rest → o.slots = [] → o.retrying = false → o.stopping = false → ∃ t o', exec (.refAction k) s = .next t ∧ t.tookFrom n q rest ∧
        t.oprs.look k = some o' ∧
        o'.slots = [{ va := o.elemVa (e.payload.setWidth 64), esize := o.esize, na := o.elemNa, entry := e, know := q.knows.headD .empty, done := e.kind != 0 }]) ∧
      (∀ x l, s.oprs.look k = some o → o.state = .running ∨ o.state = .stalled → s.mayAct o → o.slots = x :: l → x.done = true → s.hasOutput o 16 m r 1 →
        ∃ t o', exec (.refAction k) s = .next t ∧ t.pushedTo m r [x.entry] ∧ t.oprs.look k = some o' ∧ o'.slots = l ∧
          o'.state = (if o.stopping && l.isEmpty then .stopped else o.state)) ∧
      (∀ i, s.oprs.look k = some o → o.nextRead ≠ some i → exec (.refReadReturn k i) s = .next s) ∧
      ∀ i x, s.oprs.look k = some o → o.state = .running → o.slots[i]? = some x → o.nextRead = some i →
        (∀ va u, s.elemRead k o x = (.error (.miss va), u) →
          exec (.refReadReturn k i) s = .next (s.engineMiss (.opr k o.cache) o.cache o.pnum va false)) ∧
        (x.esize ≤ 8 → x.va % x.esize ≠ 0 → ∃ t o', exec (.refReadReturn k i) s = .next t ∧ t.oprs.look k = some o' ∧ o'.state = .faulted ∧
          o'.code = FaultCode.align.num) ∧
        ∀ v u o₁, s.elemRead k o x = (.ok v, u) → u.oprs.look k = some o₁ → o₁.slots = o.slots →
          ∃ t o', exec (.refReadReturn k i) s = .next t ∧ t.mem = u.mem ∧ t.oprs.look k = some o' ∧
            o'.retrying = false ∧
            o'.slots = o.slots.set i { x with entry := { payload := v, kind := 0, fmark := false, tag := x.entry.tag }, done := true }) ∧
    (∀ (n' : Nat) (q' : Queue) (e' : Entry) (rest' : List Entry), o.kind = .put → o.field 9 5 1 ≠ 1 → s.hasInput k o 0 n q e rest →
      s.hasInput k o 1 n' q' e' rest' → n ≠ n' →
        (e.kind ≠ e'.kind → ∃ t, exec (.putAction k) s = .next t ∧ s.cueFaulted t k) ∧
        (e.kind = 0 → e'.kind = 0 → o.esize ≤ 8 → o.elemVa (e.payload.setWidth 64) % o.esize ≠ 0 → ∃ t o', exec (.putAction k) s = .next t ∧
          t.oprs.look k = some o' ∧ o'.state = .faulted ∧ o'.code = FaultCode.align.num ∧
          o'.va = o.elemVa (e.payload.setWidth 64) ∧ t.queues = s.queues) ∧
        (e.kind = 0 → e'.kind = 0 → ∀ va u, s.elemWrite k o (o.elemVa (e.payload.setWidth 64)) e'.payload = (.error (.miss va), u) →
          exec (.putAction k) s = .next (s.engineMiss (.opr k o.cache) o.cache o.pnum va true)) ∧
        (e.kind = 0 → e'.kind = 0 → ∀ u o₁, s.elemWrite k o (o.elemVa (e.payload.setWidth 64)) e'.payload = (.ok (), u) →
          u.oprs.look k = some o₁ → o₁.ins = o.ins → o₁.nth = o.nth → u.queues = s.queues →
            ∃ t o', exec (.putAction k) s = .next t ∧ t.tookFrom n q rest ∧ t.tookFrom n' q' rest' ∧ t.mem = u.mem ∧ t.lines = u.lines ∧
              t.oprs.look k = some o' ∧ o'.nth = o.nth + 1) ∧
        (e.kind ≠ 0 → e.kind = e'.kind → s.heldItems k o = [] → s.hasOutput o 16 m r 1 → ∃ t, exec (.putAction k) s = .next t ∧ t.tookFrom n q rest ∧
          t.tookFrom n' q' rest' ∧ t.pushedTo m r [e'] ∧ t.mem = s.mem)) ∧
    (o.kind = .put → o.field 9 5 1 = 1 → s.hasInput k o 1 n q e rest → e.kind = 0 → ∀ u o₁,
      s.elemWrite k o (o.elemVa (BitVec.ofNat 64 o.nth)) e.payload = (.ok (), u) → u.oprs.look k = some o₁ → o₁.ins = o.ins → o₁.nth = o.nth →
        u.queues = s.queues → ∃ t o', exec (.putAction k) s = .next t ∧ t.tookFrom n q rest ∧ t.mem = u.mem ∧ t.lines = u.lines ∧
          t.oprs.look k = some o' ∧ o'.nth = o.nth + 1) ∧
    (o.kind = .bridge → o.field 8 0 1 = 0 → s.hasInput k o 0 n q e rest →
      (s.receiverOf o = none → exec (.bridgeSend k) s = .next s) ∧
      ∀ (p : Nat) (w : Opr), s.receiverOf o = some (p, w) →
        (s.bridgeRoom w = false → exec (.bridgeSend k) s = .next s) ∧
        (s.bridgeRoom w = true → ∃ t w', exec (.bridgeSend k) s = .next t ∧ t.tookFrom n q rest ∧ t.oprs.look p = some w' ∧
          w'.wire = w.wire ++ [(e, q.knows.headD .empty)])) ∧
    ∀ (c : Carrier) (l : List (Entry × Carrier)), o.kind = .bridge → o.field 8 0 1 = 1 → s.oprs.look k = some o → o.state = .running →
      s.mayAct o → (o.wire = [] → exec (.bridgeReceive k) s = .next s) ∧
        (o.wire = (e, c) :: l → e.fmark = false → s.hasOutput o 16 m r 1 →
          ∃ t o', exec (.bridgeReceive k) s = .next t ∧ t.pushedTo m r [e] ∧ t.oprs.look k = some o' ∧ o'.wire = l)

/-- R435 to R437: a DIST gives a data entry the next tag and stages it for the live replica with the least load, pushes what is staged, and moves the
newest entry of the fullest staging to an idle replica; at a frame boundary it retires an idle replica with an end of stream; a COLLECT
pushes the entries of its next tag.
The frame's decisions take the words of R436 literally, and the end of stream keeps TAG: the model's reading (log entry 44). -/
def Obligations.DistributionAndCollection : Prop :=
  ∀ (s : State) (k : Nat) (o : Opr) (n m : Nat) (q r : Queue) (e : Entry) (rest : List Entry),
    (o.kind = .dist → s.modeOf o.pnum o.launch = 0 →
      (∀ i, s.hasInput k o 0 n q e rest → e.kind = 0 → s.windowFull o = false →
        leastOf (s.load o) (o.liveList.filter fun j => (o.staged j).length < 4) = some i → ∃ t o', exec (.distAction k .take) s = .next t ∧
          t.tookFrom n q rest ∧ t.oprs.look k = some o' ∧ o'.staged i = o.staged i ++ [{ e with tag := o.tagNext }] ∧
          (∀ j, j ≠ i → o'.staged j = o.staged j) ∧ o'.tagNext = o.tagNext + 1) ∧
      (∀ i l, s.oprs.look k = some o → o.state = .running → s.mayAct o → o.partner = none → o.staged i = e :: l → s.hasOutput o (16 + i) m r 1 →
        ∃ t o', exec (.distAction k (.push i)) s = .next t ∧ t.pushedTo m r [e] ∧ t.oprs.look k = some o' ∧ o'.staged i = l) ∧
      (∀ i d, s.oprs.look k = some o → o.state = .running → s.mayAct o → (o.liveList.filter fun j => s.load o j == 0).head? = some i →
        mostOf (fun j => (o.staged j).length) (o.liveList.filter o.stealable) = some d → i ≠ d → (o.staged d).getLast? = some e →
          ∃ t o', exec (.distAction k .steal) s = .next t ∧ t.oprs.look k = some o' ∧ o'.staged d = (o.staged d).dropLast ∧
            o'.staged i = o.staged i ++ [e] ∧ o'.steals = o.steals + 1 ∧ t.queues = s.queues) ∧
      (s.oprs.look k = some o → s.distAsked k o = none → o.frameAt = s.cycle / 256 + 1 → exec (.distFrameResize k) s = .next s) ∧
      (∀ i, s.oprs.look k = some o → s.distAsked k o = none → o.state = .running → o.frameAt ≠ s.cycle / 256 + 1 → o.field 8 0 5 < o.liveList.length →
        (o.liveList.map (s.load o)).sum < o.field 32 0 16 → o.liveList.getLast? = some i → s.load o i = 0 →
          o.field 32 32 16 ≤ o.idleFrames.getD i 0 + 1 → s.hasOutput o (16 + i) m r 1 → ∃ t o', exec (.distFrameResize k) s = .next t ∧
            t.pushedTo m r [{ payload := 0, kind := 7, fmark := false, tag := o.tagNext }] ∧ t.oprs.look k = some o' ∧
            o'.live = o.live &&& ~~~(1#16 <<< i) ∧ o'.shrinks = o.shrinks + 1)) ∧
    (o.kind = .collect → ∀ i t₀, s.oprs.look k = some o → o.state = .running → s.mayAct o → (o.recs.find? fun x => x.tag == o.next) = some (.data t₀ i) →
      (∀ p f, s.inHead o p = some f → f.fmark = false ∧ (f.kind = 0 → tagBehind f.tag o.next = false)) →
        s.hasInput k o i n q e rest → e.kind = 0 → e.tag = o.next → s.hasOutput o 16 m r 1 → ∃ t o',
          exec (.collectAction k) s = .next t ∧ s.movedEntry t n q rest m r [e] ∧ t.oprs.look k = some o' ∧
          (o.field 8 0 5 = 0 ∨ o.emitted + 1 < o.field 8 0 5 → o'.next = o.next ∧ o'.emitted = o.emitted + 1) ∧
          (o.field 8 0 5 ≠ 0 → o.field 8 0 5 ≤ o.emitted + 1 → o'.next = o.next + 1 ∧ o'.emitted = 0))

/-- R257, R464, R465: a command to a company number that holds no company, to a busy one, a SUSPEND of a suspended company and a RESUME of a running
one set CCTL.ERR and do nothing else; SUSPEND stops every task of the company, and KILL ends its whole group with the code of the launch's
cell. -/
def Sys2Proof.Machine.CompanyCommands : Prop :=
  ∀ (s : State) (cl n : Nat) (kcode : Byte), s.boot = .running →
    (∀ i : Instr, (i = .companySuspend cl n ∧ ∀ co, s.company? cl n = some co → co.busy = true ∨ co.susp = true) ∨
        (i = .companyResume cl n ∧ ∀ co, s.company? cl n = some co → co.busy = true ∨ co.susp = false) ∨
        (i = .companyKill cl n kcode ∧ ∀ co, s.company? cl n = some co → co.busy = true) →
      ∃ t, exec i s = .next t ∧ n ∈ (t.clusterAt cl).cerr ∧ (t.clusterAt cl).companies = (s.clusterAt cl).companies ∧ t.ctxs = s.ctxs ∧
        t.mem = s.mem) ∧
    ∀ co, s.company? cl n = some co → co.busy = false → s.inv →
      (co.susp = false → co.stopping = false → ∃ t, exec (.companySuspend cl n) s = .next t ∧
        t.company? cl n = some { co with stopping := true, busy := true, reason := 0 } ∧
        (∀ k x, s.ctxs.look k = some x → x.inCompany cl n = true → (t.ctx k).suspended = true) ∧ t.mem = s.mem) ∧
      ∃ t, exec (.companyKill cl n kcode) s = .next t ∧ t.company? cl n = none ∧
        (∀ e ∈ t.ctxs, e.2.inGroup co.pnum co.launch n = false) ∧
        ∀ l, s.launches.look (launchKey co.pnum co.launch) = some l → l.pnum = co.pnum → l.number = co.launch → l.killCode = none →
          ∃ l', t.launches.look (launchKey co.pnum co.launch) = some l' ∧ l'.killCode = some (if kcode = 0 then 0x120 else kcode.toNat)

/-- R258, R259, R465, R470, R473, R474, R476, R498: a company whose tasks have stopped gets its DIVERT entry and, once it has a green room, is
suspended; where no company is, and before the boot, nothing happens; the command processor may take holdings of a suspended company and raise its wings log's limit; a company that lacks something
asks for it before it resumes, one whose saved state cannot be read is killed, and one that resumes has no DIVERT entry; DUMP of anything but
a suspended company of its partition sets ERR.
Who asks the box office again, the end of a group whose green room cannot be read, and the wait for spawn packets are the model's readings (log
entries 28, 69 and 78), as are which slots can be moved and when a company may resume (29, 76 and 77); that nothing happens before the boot is its
choice (91). -/
def Sys2Proof.Machine.SuspensionAndResume : Prop :=
  ∀ (s : State) (cl n : Nat),
    (s.company? cl n = none → exec (.suspensionPoint cl n) s = .next s ∧ ∀ w limit,
      (exec (.holdingsReassign cl n w) s = .next s ∧ exec (.wingsLogLimitRaise cl n limit) s = .next s)) ∧
    (s.boot ≠ .running → ∀ w limit, exec (.holdingsReassign cl n w) s = .next s ∧ exec (.wingsLogLimitRaise cl n limit) s = .next s ∧
      ∀ cp, exec (.dump cp) s = .next s) ∧
   ∀ co : Company, s.company? cl n = some co →
    (co.stopping = false → exec (.suspensionPoint cl n) s = .next s) ∧
    (co.stopping = true → (s.clusterAt cl).divertOf n ≠ none →
      (co.cgrb = 0 → exec (.suspensionPoint cl n) s = .next s) ∧
      (co.cgrb ≠ 0 → ∃ t, exec (.suspensionPoint cl n) s = .next t ∧
        t.company? cl n = some { co with stopping := false, busy := false, susp := true } ∧
        (t.clusterAt cl).divertOf n = (s.clusterAt cl).divertOf n)) ∧
    (co.stopping = true → (s.clusterAt cl).divertOf n = none →
      ((s.stopAgain cl n).allStopped cl n = false → exec (.suspensionPoint cl n) s = .next s) ∧
      ((s.stopAgain cl n).allStopped cl n = true → ∃ t mask co', exec (.suspensionPoint cl n) s = .next t ∧
        (t.clusterAt cl).divertOf n = some (true, co.cgrb == 0 || (s.room co).1.wings / 64 == 0,
          if co.cgrb = 0 then 0 else (s.room co).1.wings / 64 * 64, mask) ∧ t.company? cl n = some co' ∧
        co'.stopping = (co.cgrb == 0) ∧ co'.susp = (if co.cgrb = 0 then co.susp else true) ∧ co'.busy = (if co.cgrb = 0 then co.busy else false))) ∧
    (s.boot = .running →
      (∀ w : Holdings, (co.susp = false ∨ co.busy = true ∨ co.resuming = true ∨ (∃ r ∈ (s.clusterAt cl).reqs, r.company = n ∧ r.want = .resume) →
          exec (.holdingsReassign cl n w) s = .next s) ∧
        (co.susp = true → co.busy = false → co.resuming = false → (∀ r ∈ (s.clusterAt cl).reqs, r.company = n → r.want ≠ .resume) →
          ∃ t co', exec (.holdingsReassign cl n w) s = .next t ∧ t.company? cl n = some co' ∧ co'.susp = true ∧ co'.claim = co.claim ∧
            co'.slots = co.slots.filter (fun e => !(w.slots.contains e && s.slotMovable co n e)) ∧
            co'.tiles = co.tiles.filter (fun e => !w.macros.contains e))) ∧
      (∀ limit : Nat,
        let g := s.greenRead co.pnum (co.base + 0x28)
        let raised : State := g.2.greenWrite co.pnum (co.base + 0x28) (g.1 % 2 ^ 32 + limit * 2 ^ 32)
        (co.susp = false ∨ co.cgrb = 0 → exec (.wingsLogLimitRaise cl n limit) s = .next s) ∧
        (co.susp = true → co.cgrb ≠ 0 → limit ≤ g.1 / 2 ^ 32 ∨ 2 ^ 32 ≤ limit → exec (.wingsLogLimitRaise cl n limit) s = .next g.2) ∧
        (co.susp = true → co.cgrb ≠ 0 → g.1 / 2 ^ 32 < limit → limit < 2 ^ 32 →
          exec (.wingsLogLimitRaise cl n limit) s = .next (raised.drainCompany cl n co)) ∧
        (co.susp = true → co.cgrb ≠ 0 → g.1 / 2 ^ 32 < limit → limit < 2 ^ 32 → (∀ a ∈ (s.clusterAt cl).ingress, a.company ≠ n) →
          exec (.wingsLogLimitRaise cl n limit) s = .next raised)) ∧
      (co.susp = true → co.busy = false →
        (co.lacks = true → (∀ r ∈ (s.clusterAt cl).reqs, r.company = n → r.want ≠ .resume) → ∃ t r, exec (.companyResume cl n) s = .next t ∧
          (t.clusterAt cl).reqs = (s.clusterAt cl).reqs ++ [r] ∧ r.company = n ∧ r.want = .resume ∧ r.phase = .fresh ∧
          t.company? cl n = some co ∧ t.mem = s.mem) ∧
        (co.lacks = true → (∃ r ∈ (s.clusterAt cl).reqs, r.company = n ∧ r.want = .resume) → exec (.companyResume cl n) s = .next s) ∧
        (co.lacks = false → s.mayResume cl n co = false → exec (.companyResume cl n) s = .next s) ∧
        (co.lacks = false → s.mayResume cl n co = true →
          ((s.roomSound cl n co).1 = false → s.inv → ∃ t, exec (.companyResume cl n) s = .next t ∧ t.company? cl n = none) ∧
          ((s.roomSound cl n co).1 = true → ∃ t co', exec (.companyResume cl n) s = .next t ∧ t.company? cl n = some co' ∧ co'.susp = false ∧
            co'.busy = false ∧ co'.savedBanks = [] ∧ co'.savedTiles = [] ∧ co'.savedSlots = [] ∧ (t.clusterAt cl).divertOf n = none ∧
            ∀ a ∈ (t.clusterAt cl).ingress, a.company ≠ n))) ∧
      ∀ cp : Fin 4,
        let w := s.csr cp.val 0x7C5
        let pnum := (w.extractLsb' 32 6).toNat
        let at_ := (w.extractLsb' 5 3).toNat * 24 + (w.extractLsb' 0 5).toNat
        (pnum = 0 ∨ Config.partitions < pnum ∨ 24 ≤ (w.extractLsb' 0 5).toNat ∨ (at_ = cl ∧ (w.extractLsb' 8 4).toNat = n ∧
            (co.susp = false ∨ co.pnum ≠ pnum)) ∨ s.company? at_ (w.extractLsb' 8 4).toNat = none →
          exec (.dump cp) s = .next (s.setCsr cp.val 0x7C5 (w ||| 0x8000))) ∧
        (at_ = cl → (w.extractLsb' 8 4).toNat = n → (w.extractLsb' 0 5).toNat < 24 → 0 < pnum → pnum ≤ Config.partitions → co.susp = true →
          co.pnum = pnum → ∃ t, exec (.dump cp) s = .next t ∧ (t.csr cp.val 0x7C5).getLsbD 14 = true ∧
            ((t.csr cp.val 0x7C5).extractLsb' 16 16).toNat = min (s.dumpRecs cl n).length 0xFFFF ∧ t.ctxs = s.ctxs))

/-- Companies are suspended, resumed and killed: the propositions above together. -/
def Obligations.CompaniesSuspendResumeAndEnd : Prop :=
  CompanyCommands ∧ SuspensionAndResume

/-- R440 to R442, R515, R523: a doorbell that names no queue of an active partition, a queue that is not enabled, or a tail too far ahead is ignored and
counted; another sets TAIL, an idle queue with work takes a free hardware slot, and one that waited without work waits no more; a doorbell during
a restart is held, and one during a Function Level Reset is discarded. A queue that has held
its slot for its quantum gives it to a queue that waits. A doorbell to a queue that was torn down is ignored and counted (R452).
That DBERR counts a doorbell of a function without a partition, and where HEAD comes from, are the model's readings (log entries 59, 62 and 67);
that nothing happens before the boot is its choice (91). -/
def Sys2Proof.Machine.DoorbellsAndQuanta : Prop :=
  ∀ (s : State) (v : Nat) (value : Word),
    (s.boot = .running →
      let qid := value.toNat % 2 ^ 12
      let tail : BitVec 32 := value.extractLsb' 32 32
      let counted (u t : State) : Prop := (t.vf v).dberr = (if (u.vf v).dberr = 0xFFFFFFFF then (u.vf v).dberr else (u.vf v).dberr + 1) ∧
        t.hwslots = u.hwslots ∧ t.mem = u.mem
      ((s.vf v).flr = true → exec (.doorbell v value) s = .next s) ∧
      ((s.vf v).flr = false → s.restarting = true → exec (.doorbell v value) s = .next { s with heldDoorbells := s.heldDoorbells ++ [(v, value)] }) ∧
      ((s.vf v).flr = false → s.restarting = false → s.vfPart v = none ∨ (s.vf v).qtlen ≤ qid → ∃ t, exec (.doorbell v value) s = .next t ∧ counted s t) ∧
      (∀ p d u, s.doorbellRead v value p d u →
        let q := u.rungQueue v qid d
        (d.getD 0 0 / 2 ^ 63 % 2 = 0 → q.state.isDown = false → ∃ t, exec (.doorbell v value) s = .next t ∧ counted u t) ∧
        (d.getD 0 0 / 2 ^ 63 % 2 = 1 → q.state = .down → ∃ t, exec (.doorbell v value) s = .next t ∧ counted u t)) ∧
      (∀ p d u, s.doorbellOk v value p d u →
        let q := u.rungQueue v qid d
        let log := d.getD 0 0 / 2 ^ 56 % 16
        (log < 2 ∨ 12 < log ∨ 2 ^ log < (tail - q.head).toNat → ∃ t, exec (.doorbell v value) s = .next t ∧ counted u t) ∧
        (2 ≤ log → log ≤ 12 → (tail - q.head).toNat ≤ 2 ^ log →
          (s.waitingQs = [(v, qid)] → q.head = tail → q.state = .waiting → ∃ t, exec (.doorbell v value) s = .next t ∧
            (t.vf v).queues.look qid = some { q with tail, state := .idle } ∧ t.waitingQs = [] ∧ t.hwslots = s.hwslots) ∧
          (s.waitingQs = [] → q.head = tail ∨ q.state ≠ .idle → q.state ≠ .waiting → ∃ t, exec (.doorbell v value) s = .next t ∧ (t.vf v).queues.look qid = some { q with tail } ∧
            t.hwslots = s.hwslots) ∧
          (q.head ≠ tail → q.state = .idle → s.waitingQs = [] → ∀ i, s.freeHwSlot = some i → ∃ t, exec (.doorbell v value) s = .next t ∧
            (t.vf v).queues.look qid = some { q with tail, state := .mapped i s.cycle } ∧ t.hwslots = s.hwslots.put i (v, qid)))) ∧
      ∃ t, exec (.dberrRead v) s = .next t ∧ t.vf v = { s.vf v with dberr := 0 } ∧ t.mem = s.mem) ∧
    (s.boot ≠ .running → exec (.doorbell v value) s = .next s ∧ exec (.dberrRead v) s = .next s) ∧
    ∀ slot : Nat,
      (s.quantumOver slot = false → exec (.quantumExpiry slot) s = .next s) ∧
      ∀ w r qid, s.quantumOver slot = true → s.hwslots.look slot = some (v, qid) → s.waitingQs = [(w, r)] → (w, r) ≠ (v, qid) →
        (s.sw w r).work = true → ({ s with hwslots := s.hwslots.del slot } : State).freeHwSlot = some slot →
          ∃ t, exec (.quantumExpiry slot) s = .next t ∧ t.hwslots.look slot = some (w, r)

/-- R452, R515: a teardown of a queue beyond the table only sets TDBUSY; another empties the queue and marks it torn down; its end sets TDDONE and
raises the interrupt, once every kill and every cell write it waits for is over; a Function Level Reset clears the registers of the function and
discards its doorbells.
The case of a queue beyond the table is the model's reading (log entry 100). -/
def Sys2Proof.Machine.TeardownsAndFunctionResets : Prop :=
  ∀ (s : State) (v : Nat),
    (s.boot = .running →
      ((s.vf v).qtlen ≤ (s.vf v).tdqid → ∃ t, exec (.queueTeardown v) s = .next t ∧ t.vf v = { s.vf v with tdbusy := true } ∧ t.mem = s.mem) ∧
      ((s.vf v).tdqid < (s.vf v).qtlen → ∃ t q, exec (.queueTeardown v) s = .next t ∧ (t.vf v).tdbusy = true ∧
        (t.vf v).queues.look (s.vf v).tdqid = some q ∧ q.state = .down ∧ q.head = q.tail) ∧
      ∃ t, exec (.functionLevelReset v) s = .next t ∧ (t.vf v).qtbase = 0 ∧ (t.vf v).qtlen = 0 ∧ (t.vf v).dberr = 0 ∧
        (t.vf v).tdbusy = false ∧ (t.vf v).tddone = false ∧ (t.vf v).flr = true ∧ ∀ d ∈ t.heldDoorbells, d.1 ≠ v) ∧
    (s.boot ≠ .running → exec (.queueTeardown v) s = .next s ∧ exec (.functionLevelReset v) s = .next s) ∧
    ((s.vf v).tdbusy = false ∨ s.tornDown v = false → exec (.teardownDone v) s = .next s) ∧
    ((s.vf v).tdbusy = true → s.tornDown v = true → ∃ t, exec (.teardownDone v) s = .next t ∧
      t.vf v = { s.vf v with tdbusy := false, tddone := true, tdwait := [] } ∧
      t.irqs = s.irqs ++ [.teardown v] ∧ t.mem = s.mem)

/-- Doorbells, quanta, teardowns and function resets: the propositions above together. -/
def Obligations.QueuesOfTheHost : Prop :=
  DoorbellsAndQuanta ∧ TeardownsAndFunctionResets

/-- R365, R443 to R445, R448, R451, R464: a launch whose companies have their green rooms starts its tasks; else the first head that may start or is
refused is served: a refused entry leaves its queue and its cell fails with 0x100 and its status, a started launch is kept with its cell; a poll cancels an entry whose dependence failed; a launch with nothing at work
retires: its queues, operators and companies go, and its cell takes what the launch came to.
That the tasks start once the green rooms are given (log entry 54), and that nothing of a partition starts while a forced change of its mode waits
(131), are the model's choices; which write of the command processor a write-block holds is its reading (57). -/
def Obligations.LaunchesStartAndRetire : Prop :=
  ∀ (s : State),
    (s.restarting = true ∨ (s.startable = none ∧ s.heads = []) → exec .launchStart s = .next s) ∧
    -- a launch whose companies have their green rooms: its stage tasks start
    (∀ l : Launch, s.restarting = false → s.startable = some l → s.launches.look (launchKey l.pnum l.number) = some l →
      ∃ t l', exec .launchStart s = .next t ∧ t.launches.look (launchKey l.pnum l.number) = some l' ∧ l'.todo = [] ∧ l'.cell = l.cell ∧
        (s.modeOf l.pnum l.number = 0 → ∀ e ∈ l.todo, (l.stages[e.1]?).isSome = true → e.2.2.2 < 16 → ∃ k x, t.ctxs.look k = some x ∧
          x.task = true ∧ x.core = e.2.2.1 ∧ x.slot.val = e.2.2.2)) ∧
    (∀ (slot v qid : Nat) (h : HeadAns) (l : List ((Nat × Nat × Nat) × HeadAns)), s.restarting = false → s.startable = none →
      s.heads = ((slot, v, qid), h) :: l →
      let p := (s.vfPart v).getD 0
      -- a refused entry leaves its queue, and its cell fails
      let refused (u : State) (cell st : Nat) : State :=
        let w := ({ u with lastServed := slot } : State).consume v qid
        w.cpCell v ((u.vfPart v).getD 0) cell (.ffail (0x100 + st))
      (∀ cell st, h = .refuse cell st → exec .launchStart s = .next (refused s cell st)) ∧
      ∀ e prio, h = .ready e prio →
        (s.changing p = true → l = [] → exec .launchStart s = .next s) ∧
        (s.changing p = false → ∀ st u, s.startEntry v qid p e = .error (st, u) → exec .launchStart s = .next (refused u e.cell st) ∧
          (refused u e.cell st).lastServed = slot ∧ (refused u e.cell st).launches = u.launches ∧ (refused u e.cell st).ctxs = u.ctxs) ∧
        (s.changing p = false → s.startEntry v qid p e = .ok none → l = [] → exec .launchStart s = .next s) ∧
        ∀ u, s.changing p = false → s.startEntry v qid p e = .ok (some u) → exec .launchStart s = .next (({ u with lastServed := slot } : State).consume v qid) ∧
          ∃ number k, u.launches.look (launchKey p number) = some k ∧ k.cell = e.cell ∧ k.vf = v ∧ k.qid = qid ∧ k.pnum = p ∧
            k.number = number) ∧
    ((∀ e ∈ s.hwslots, ∀ x, s.headOf e.2.1 e.2.2 ≠ .cancel x) → exec .dependencePoll s = .next s) ∧
    (∀ i v qid e, s.hwslots = [(i, (v, qid))] → s.headOf v qid = .cancel e → exec .dependencePoll s = .next
        ((s.consume v qid).cpCell v ((s.vfPart v).getD 0) e.cell .cancel) ∧
      ∃ t q, exec .dependencePoll s = .next t ∧ (t.vf v).queues.look qid = some q ∧ q.head = (s.sw v qid).head + 1) ∧
    ((∀ e ∈ s.launches, s.retirable e.2 = false) → exec .launchRetire s = .next s) ∧
    ∀ k l rest, s.launches = (k, l) :: rest → s.retirable l = true → s.inv → ∃ t, exec .launchRetire s = .next t ∧
      t.launches.look (launchKey l.pnum l.number) = none ∧ (∀ e ∈ t.queues, ¬(e.2.pnum = l.pnum ∧ e.2.launch = l.number)) ∧
      (∀ e ∈ t.oprs, ¬(e.2.pnum = l.pnum ∧ e.2.launch = l.number)) ∧
      (∀ cl n co, t.company? cl n = some co → co.inGroup l.pnum l.number = false) ∧
      -- and its cell is written, unless a cancellation has written it
      ∃ u, u.launches.look (launchKey l.pnum l.number) = none ∧ t = (if l.cancelled then u else match l.killCode with
        | none => u.cpCell l.vf l.pnum l.cell (.fres 0)
        | some code => u.cpCell l.vf l.pnum l.cell (.ffail code))

/-- R50 to R56, R442, R453, R454, R509: ACTIVATE reads a descriptor into force and refuses a bad one with 3, one whose clusters or functions another
partition owns with 2, and one of a partition that runs with 1, unless forced; DEACTIVATE ends a partition and discards its policy and key; forced, either is
made once every company of the partition is suspended; SETHB
and QUANT set what they name, or end with 4; while BUSY is set no further command begins.
The statuses of bad arguments, and a forced ACTIVATE that waits until the companies are suspended, are the model's readings (log entries 79 and
81); what becomes of a control context in service where a cluster leaves the pitch is its choice (132). -/
def Obligations.PartitionCommands : Prop :=
  ∀ (s : State) (cp : Fin 4), s.boot = .running →
    let w := s.csr cp.val 0x7C3
    let arg := s.csr cp.val 0x7C4
    let pnum := (w.extractLsb' 8 6).toNat
    (w.getLsbD 16 = true → exec (.sethb cp) s = .next s ∧ exec (.quant cp) s = .next s ∧
      ((w.extractLsb' 0 8).toNat ≠ 1 ∨ s.allSuspended pnum = false → exec (.partitionActivate cp) s = .next s) ∧
      ((w.extractLsb' 0 8).toNat ≠ 2 ∨ s.allSuspended pnum = false → exec (.partitionDeactivate cp) s = .next s) ∧
      ((w.extractLsb' 0 8).toNat = 1 → s.allSuspended pnum = true → ∃ t, exec (.partitionActivate cp) s = .next t ∧
        t.cmdEnded cp.val (s.descStatus pnum (arg.toNat % 2 ^ 52))) ∧
      ((w.extractLsb' 0 8).toNat = 2 → s.allSuspended pnum = true → ∃ t, exec (.partitionDeactivate cp) s = .next t ∧ t.cmdEnded cp.val 0 ∧
        (t.part pnum).active = false ∧ (t.part pnum).policy = none ∧ (t.part pnum).boundKey = none ∧
        ∀ k l, s.launches.look k = some l → l.pnum = pnum → k = launchKey l.pnum l.number →
          ∃ l', t.launches.look k = some l' ∧ l'.cancelled = true)) ∧
    (w.getLsbD 16 = false →
      (0 < pnum → pnum ≤ Config.partitions → ∃ t, exec (.sethb cp) s = .next t ∧ t.cmdEnded cp.val 0 ∧
        t.part pnum = { s.part pnum with hbint := arg.setWidth 32 } ∧ t.ctxs = s.ctxs ∧ t.mem = s.mem) ∧
      (pnum = 0 ∨ Config.partitions < pnum → ∃ t, exec (.sethb cp) s = .next t ∧ t.cmdEnded cp.val 4 ∧ t.parts = s.parts) ∧
      (∀ q, q = arg.toNat % 2 ^ 32 →
        (50 ≤ q → q ≤ 100000 → ∃ t, exec (.quant cp) s = .next t ∧ t.cmdEnded cp.val 0 ∧ t.quantum = q ∧ t.mem = s.mem) ∧
        (q < 50 ∨ 100000 < q → ∃ t, exec (.quant cp) s = .next t ∧ t.cmdEnded cp.val 4 ∧ t.quantum = s.quantum)) ∧
      ((s.part pnum).active = false → ∃ t, exec (.partitionDeactivate cp) s = .next t ∧ t.cmdEnded cp.val 4 ∧ t.parts = s.parts) ∧
      ((s.part pnum).active = true → s.hasLaunch pnum = true → w.getLsbD 14 = false → ∃ t, exec (.partitionDeactivate cp) s = .next t ∧
        t.cmdEnded cp.val 1 ∧ t.parts = s.parts) ∧
      ((s.part pnum).active = true → s.hasLaunch pnum = true → w.getLsbD 14 = true → ∃ t, exec (.partitionDeactivate cp) s = .next t ∧
        (t.csr cp.val 0x7C3).getLsbD 16 = true ∧ t.parts = s.parts) ∧
      ((s.part pnum).active = true → s.hasLaunch pnum = false → ∃ t, exec (.partitionDeactivate cp) s = .next t ∧
        t.cmdEnded cp.val 0 ∧ (t.part pnum).active = false ∧ (t.part pnum).policy = none ∧ (t.part pnum).boundKey = none) ∧
      let pa := arg.toNat % 2 ^ 52
      let d := s.readDesc pa
      (s.descStatus pnum pa ≠ 0 → ∃ t, exec (.partitionActivate cp) s = .next t ∧ t.cmdEnded cp.val (s.descStatus pnum pa) ∧ t.parts = s.parts) ∧
      (s.descStatus pnum pa = 0 → (s.part pnum).active = true → s.hasLaunch pnum = true →
        (w.getLsbD 14 = false → ∃ t, exec (.partitionActivate cp) s = .next t ∧ t.cmdEnded cp.val 1 ∧ t.parts = s.parts) ∧
        (w.getLsbD 14 = true → ∃ t, exec (.partitionActivate cp) s = .next t ∧ (t.csr cp.val 0x7C3).getLsbD 16 = true ∧ t.parts = s.parts)) ∧
      (s.descStatus pnum pa = 0 → (s.part pnum).active = false ∨ s.hasLaunch pnum = false → ∃ t, exec (.partitionActivate cp) s = .next t ∧
        t.cmdEnded cp.val 0 ∧ t.part pnum = { s.part pnum with
          active := true, desc := pa, root := d.root, pitch := d.pitch, vfmask := d.vfmask, regions := d.regions, himg := d.himg } ∧
        t.mem = s.mem))

/-- R483 to R497, R507 to R511: a sweep adds what each counter of its die has gained to its total; a grid interval that ends goes on into the next,
where the policy asks for longer frames, or ends its frame, and the next frame takes the next number; a
core's oldest trace record leaves its buffer; a core loads the breakpoint table of its partition; a policy is installed where its record is
valid, and once its expiry has passed the most restrictive one governs.
That XPOLCTL does nothing before the boot is the model's choice (log entry 91). -/
def Obligations.ObserversAndPolicies : Prop :=
  ∀ (s : State),
    (∀ die : Nat, (s.sweepDue die = false → exec (.counterSweep die) s = .next s) ∧
      (s.sweepDue die = true → s.inv → ∃ t, exec (.counterSweep die) s = .next t ∧
        t.sweepAt.look die = some (s.time / 50000000) ∧ t.ctxs = s.ctxs ∧
        (∀ k v, s.counts.look k = some v → unitDie (k / 256) = some die → k % 256 ≠ 1 ∨ 1536 ≤ k / 256 → t.swept.look k = some v ∧
          t.totals.getD k 0 = s.totals.getD k 0 + (v - s.swept.getD k 0).setWidth 64) ∧
        -- cycles in which no slot of a core was ready
        ∀ c : Coord, coordValid c = true → cDie c = die → s.counts.look (coreUnit c * 256 + 1) = none →
          let key := coreUnit c * 256 + 1
          let v : BitVec 32 := BitVec.ofNat 32 (s.cycle - (s.coreAt c).readyCycles)
          t.swept.look key = some v ∧ t.totals.getD key 0 = s.totals.getD key 0 + (v - s.swept.getD key 0).setWidth 64)) ∧
    (∀ stream : Nat, (s.gridDue stream = false → exec (.gridIntervalEnd stream) s = .next s) ∧
      (s.gridDue stream = true →
        let p := s.part (stream / 2)
        let len := (s.gridAt stream).2 + s.gridInterval (stream / 2)
        let full := stream / 2 = 0 ∨ s.streamFull (stream / 2) (s.gridReg stream) (ringExtent (s.gridReg stream) 23616) = true
        let pol := s.policyOf (stream / 2)
        let least := 2 ^ max (p.gridCarry.getD (stream % 2) (pol.lgrid, pol.tgran)).2 pol.tgran
        (¬full → len < least → ∃ t, exec (.gridIntervalEnd stream) s = .next t ∧ t.ctxs = s.ctxs ∧ t.mem = s.mem ∧
          (t.part (stream / 2)).gridSeq = p.gridSeq ∧ t.gridAt stream = ((s.gridAt stream).1, len)) ∧
        (full ∨ least ≤ len → ∃ t, exec (.gridIntervalEnd stream) s = .next t ∧ t.ctxs = s.ctxs ∧
          (t.part (stream / 2)).gridSeq.getD (stream % 2) 0 = p.gridSeq.getD (stream % 2) 0 + 1 ∧
          t.gridAt stream = ((s.gridAt stream).1 + len, 0)))) ∧
    (∀ core : Coord, ((s.coreAt core).trace = [] → exec (.traceDrain core) s = .next s) ∧
      ∀ r rest, (s.coreAt core).trace = r :: rest → ∃ t, exec (.traceDrain core) s = .next t ∧ (t.coreAt core).trace = rest ∧ t.ctxs = s.ctxs) ∧
    (∀ (pnum : Nat) (core : Coord),
      (core.toNat ∉ (s.part pnum).bpTodo → exec (.breakpointTableLoad pnum core) s = .next s) ∧
      (core.toNat ∈ (s.part pnum).bpTodo → ∃ t, exec (.breakpointTableLoad pnum core) s = .next t ∧
        (t.coreAt core).bps.length = ((s.streamReg pnum 7).extractLsb' 52 5).toNat ∧ core.toNat ∉ (t.part pnum).bpTodo ∧ t.ctxs = s.ctxs ∧
        t.mem = s.mem)) ∧
    (∀ cp : Fin 4, s.boot ≠ .running → exec (.policyRegister cp) s = .next s) ∧
    (∀ cp : Fin 4, s.boot = .running →
      let pnum := (s.csr cp.val 0x7C7).toNat % 2 ^ 6
      let a := ((s.csr cp.val 0x7C8).extractLsb' 6 46).toNat * 64
      let d := if physOk a 256 then s.physBytes a 256 else List.replicate 256 0xFF
      let st := s.policyStatus pnum d
      ∃ t, exec (.policyRegister cp) s = .next t ∧ (t.csr cp.val 0x7C7).toNat = pnum + st * 2 ^ 8 + 2 ^ 11 ∧
        (t.part pnum).policy = (if st = 0 then some (policyRec d).1 else (s.part pnum).policy) ∧
        (t.part pnum).boundKey = (if st = 0 then some ((s.part pnum).boundKey.getD (policyRec d).1.key) else (s.part pnum).boundKey)) ∧
    ∀ pnum : Nat,
      (s.expiring pnum = false → exec (.policyExpiry pnum) s = .next s) ∧
      (s.expiring pnum = true → ∃ t, exec (.policyExpiry pnum) s = .next t ∧ t.policyOf pnum = .strict ∧ s.expiring pnum ≠ t.expiring pnum)

/-- R27, R48, R56, R236, R267, R439, R463, R464, R477, R478, R480, R482, R487, R493, R502, R516, R519, R520: a register write takes the fields it may write: a size or an alignment that R27
does not allow is answered with ALIGN and changes nothing else, an offset that is not decoded is counted, and a custom register is written in
machine mode alone: any other access takes the illegal-instruction exception. A soft error is corrected and counted, or marks what it struck: a word
of local memory, a dirty line, or a line of a CXL port that no home holds; a clean line and a translation are dropped, and an error in a task's register ends its group.
The counting and the marks of errors in caches are the model's readings (log entry 95), as is what FORCE makes of a core that is fenced (111); the
machine trap registers and the answer to an access that takes the exception are presumed (123). -/
def Obligations.RegisterWritesAndSoftErrors : Prop :=
  ∀ (s : State),
    (s.boot = .running → ∀ (v : Word),
      (∀ (socket : Fin 32) (o n : Nat), ¬(n = 8 ∧ o % 8 = 0) → ¬(n = 4 ∧ o % 4 = 0) →
        exec (.registerWrite (.mmio socket o n) v) s = .next { s with reply := .align }) ∧
      (∀ (socket : Fin 32) (o : Nat), o % 8 = 0 → 8 ≤ socket.val → socket.val ≠ 16 →
        exec (.registerWrite (.mmio socket o 8) v) s = .next { s with unclaimed := s.unclaimed + 1 }) ∧
      (∀ p : Nat, 0 < p → p ≤ Config.partitions → ∃ t, exec (.registerWrite (.mmio 16 (0x300000 + 0x10 * p) 8) v) s = .next t ∧
        t.part p = { s.part p with fring := ((s.part p).fring &&& ~~~0x00FFFFFFFFFFFFC0) ||| (v &&& 0x00FFFFFFFFFFFFC0) } ∧ t.mem = s.mem) ∧
      (∀ (die : Fin 32) (i : Nat), die.val < 8 → i < 192 → v.getLsbD 48 = false →
        ∃ t, exec (.registerWrite (.mmio die (0x600000 + 0x10 * i) 8) v) s = .next t ∧
          t.coreAt (mkCoord die.val (i / 16) (i % 16)) = { s.coreAt (mkCoord die.val (i / 16) (i % 16)) with
            xb := if 8192 < (v.extractLsb' 0 14).toNat then 8192 else v.extractLsb' 0 14, img := v.extractLsb' 16 16,
            ovl := v.extractLsb' 32 14 } ∧ t.ctxs = s.ctxs ∧ t.mem = s.mem) ∧
      (∀ (die : Fin 32) (i : Nat), die.val < 8 → i < 192 →
        let core := mkCoord die.val (i / 16) (i % 16)
        let write := exec (.registerWrite (.mmio die (0x500000 + 0x10 * i) 8) v) s
        (v.getLsbD 0 = true → v.getLsbD 1 = false → write = exec (.fenceLift core) s) ∧
        (v.getLsbD 0 = false → v.getLsbD 1 = true → write = exec (.forceFence core) s) ∧
        (v.getLsbD 0 = false → v.getLsbD 1 = false → write = .next s)) ∧
      (∀ (die : Fin 32) (cl n : Nat) (co : Company), die.val < 8 → cl < 24 → n < 16 → s.company? (die.val * 24 + cl) n = some co →
        ∃ t, exec (.registerWrite (.mmio die (0x10000 * cl + 0x408 + 0x10 * n) 8) v) s = .next t ∧
          t.company? (die.val * 24 + cl) n = some { co with cgrb := v.extractLsb' 12 40 } ∧ t.mem = s.mem ∧ t.ctxs = s.ctxs) ∧
      (∀ p i : Nat, 0 < p → p ≤ Config.partitions → i < 10 →
        ∃ t, exec (.registerWrite (.mmio 16 (0x340000 + 0x80 * p + 8 * i) 8) v) s = .next t ∧
          (t.part p).streams = (s.part p).streams.set i (streamWritten i ((s.part p).streams.getD i 0) v) ∧ t.mem = s.mem ∧ t.ctxs = s.ctxs) ∧
      (∀ f : Nat, f < 256 →
        (∃ t, exec (.registerWrite (.vf f 8 8) v) s = .next t ∧
          t.vf f = { s.vf f with qtbase := ((s.vf f).qtbase &&& ~~~0x00FFFFFFFFFFFFC0) ||| (v &&& 0x00FFFFFFFFFFFFC0) }) ∧
        let u := s.updVf f fun x => { x with qtlen := (v.extractLsb' 0 13).toNat, tdqid := (v.extractLsb' 16 12).toNat,
                                             tddone := x.tddone && !v.getLsbD 30 }
        exec (.registerWrite (.vf f 16 8) v) s = .next (if v.getLsbD 28 && !(s.vf f).tdbusy then u.startTeardown f else u)) ∧
      ∀ cp : Fin 4,
        (s.cpModes.getD cp.val 3 = 3 → exec (.registerWrite (.csr cp 0x7C9) v) s = .next { s with pkg := v.extractLsb' 0 12 } ∧
          exec (.registerWrite (.csr cp 0x7CE) v) s = .next { s with linkCaps := v } ∧ exec (.registerWrite (.csr cp 0x7CD) v) s = .next s) ∧
        ∀ n, s.cpModes.getD cp.val 3 ≠ 3 ∨ (0x7CF ≤ n ∧ n ≤ 0x7FF) →
          ∃ t, exec (.registerWrite (.csr cp n) v) s = .next t ∧ t.reply = .illegal ∧ t.csr cp.val 0x341 = s.cpPcs.getD cp.val 0 ∧
            t.csr cp.val 0x342 = 2 ∧ t.csr cp.val 0x343 = 0 ∧ ((t.csr cp.val 0x300).extractLsb' 11 2).toNat = s.cpModes.getD cp.val 3 % 4 ∧
            (t.csr cp.val 0x300).getLsbD 7 = (s.csr cp.val 0x300).getLsbD 3 ∧ (t.csr cp.val 0x300).getLsbD 3 = false ∧
            t.cpModes.getD cp.val 3 = 3 ∧ t.cpPcs.getD cp.val 0 = s.csr cp.val 0x305 &&& ~~~3 ∧ t.mem = s.mem ∧ t.ctxs = s.ctxs) ∧
    (∀ (site : ErrSite) (cl : Nat), s.siteCluster site = some cl → (∀ c i, site ≠ .translation c i) → (∀ c e, site ≠ .diversion c e) →
      ∃ t, exec (.softError site false) s = .next t ∧ s.tallies t cl 0 ∧ t.mem = s.mem ∧ t.ctxs = s.ctxs ∧ t.lines = s.lines ∧ t.bad = s.bad) ∧
    (∀ (core : Coord) (o : Nat), o < Config.localBytes → ∃ t, exec (.softError (.localWord core o) true) s = .next t ∧
      s.tallies t (clusterOf core) 1 ∧ localPa core (o / 8 * 8) ∈ t.bad ∧ t.mem = s.mem ∧ t.ctxs = s.ctxs) ∧
    (∀ (n : Nat) (l : Line), s.lines.look n = some l → ∃ t, exec (.softError (.line n) true) s = .next t ∧ s.tallies t l.home 1 ∧
      t.lines = (if l.dirty then s.lines.put n { l with poison := true } else s.lines.del n) ∧ t.mem = s.mem) ∧
    (∀ n : Nat, s.lines.look n = none → s.cxlBehind n = true → ∃ t, exec (.softError (.line n) true) s = .next t ∧
      t.lines = s.lines.put n (s.cxlPoison n) ∧ t.mem = s.mem) ∧
    (∀ (cache i : Nat) (u : Bool), ∃ t, exec (.softError (.translation cache i) u) s = .next t ∧
      t.cacheAt cache = (s.cacheAt cache).eraseIdx i ∧ t.mem = s.mem) ∧
    (∀ (cl entry company lbank : Nat) (u : Bool) (co : Company), s.company? cl company = some co → s.inv →
      (s.clusterAt cl).diverts.look entry = some (.discard company lbank) ∨
        (∃ mbox hold log lbanks, (s.clusterAt cl).diverts.look entry = some (.divert company mbox hold log lbanks)) →
      ∃ t, exec (.softError (.diversion cl entry) u) s = .next t ∧ ∀ e ∈ t.ctxs, e.2.inGroup co.pnum co.launch company = false) ∧
    ∀ (k : Nat) (r : Nat) (x : Ctx), s.ctxs.look k = some x → x.task = true → s.inv → ∃ t, exec (.softError (.register k r) true) s = .next t ∧
      ∀ e ∈ t.ctxs, e.2.inGroup (gtidPnum x.gtid) (gtidLaunch x.gtid) x.company.toNat = false

/-- R521, R522, R523, R528: LOAD copies an image and sets BUSY until it is verified: then it is the understudy, or the understudy goes, with the
status of what was found, and a PLDM update goes on to SWITCH; SWITCH waits for a quiescent point, at which the images change places and the
cores restart, and the held doorbells then take effect; DISCARD drops the understudy; a command while one runs is refused with 5. The
measurements are the SHA-512 digests that the spec names.
That a LOAD that fails drops the understudy is the model's reading (log entry 87); that nothing happens before the boot is its choice (91), and what
the device key makes of the measurements is a free value (11). -/
def Sys2Proof.Machine.FirmwareCommands : Prop :=
  ∀ (s : State),
   (s.boot ≠ .running → exec .firmwareLoad s = .next s ∧ exec .firmwareSwitch s = .next s ∧ exec .firmwareDiscard s = .next s ∧
      exec .quiescentSwitchRestart s = .next s ∧ exec .spdmAttestation s = .next s ∧ ∀ d, exec (.pldmFirmwareUpdate d) s = .next s) ∧
   (s.boot = .running →
    let loaded (d : List Byte) : State :=
      { s with fwBusy := false, fwLoading := none, fwStatus := BitVec.ofNat 3 (s.fwStatusOf d), fwDone := true,
               understudy := if s.fwStatusOf d = 0 then some (fwImage d) else none }
    (s.fwBusy = true → exec .firmwareLoad s = .next { s with fwStatus := 5 } ∧ exec .firmwareSwitch s = .next { s with fwStatus := 5 } ∧
      exec .firmwareDiscard s = .next { s with fwStatus := 5 } ∧ ∀ d, exec (.pldmFirmwareUpdate d) s = .next { s with fwStatus := 5 }) ∧
    (s.fwBusy = false →
      exec .firmwareLoad s = .next { s with fwBusy := true, fwLoading := some (s.fwBytes, false) } ∧
      (s.understudy = none → exec .firmwareSwitch s = .next { s with fwStatus := 4, fwDone := true }) ∧
      (s.understudy ≠ none → exec .firmwareSwitch s = .next { s with fwBusy := true }) ∧
      exec .firmwareDiscard s = .next { s with understudy := none, fwStatus := 0, fwDone := true } ∧
      ∀ d, exec (.pldmFirmwareUpdate d) s = .next { s with fwBusy := true, fwLoading := some (d, true) }) ∧
    (∀ d, s.fwLoading = some (d, false) → exec .quiescentSwitchRestart s = .next (loaded d)) ∧
    (∀ d, s.fwLoading = some (d, true) →
      exec .quiescentSwitchRestart s = .next (if s.fwStatusOf d = 0 then { loaded d with fwBusy := true } else loaded d)) ∧
    (s.fwLoading = none →
      (s.restarting = false → s.fwBusy = false ∨ s.quiescent = false → exec .quiescentSwitchRestart s = .next s) ∧
      (∀ u, s.restarting = false → s.fwBusy = true → s.quiescent = true → s.understudy = some u → ∃ t,
        exec .quiescentSwitchRestart s = .next t ∧ t.running = u ∧ t.understudy = some s.running ∧ t.restarting = true ∧ t.mem = s.mem ∧
        t.ctxs = s.ctxs ∧ ∀ cp < 4, t.cpPcs.look cp = some (BitVec.ofNat 64 u.entry)) ∧
      (s.restarting = true →
        let up : State := { s with restarting := false, fwBusy := false, fwStatus := if s.fwBusy then 0 else s.fwStatus, fwDone := s.fwDone || s.fwBusy }
        (s.heldDoorbells = [] → exec .quiescentSwitchRestart s = .next up) ∧
        -- the held doorbells take effect, in arrival order
        exec .quiescentSwitchRestart s =
          .next (s.heldDoorbells.foldl (fun (t : State) d => t.ringDoorbell d.1 d.2) { up with heldDoorbells := [] }) ∧
        ∀ v value, s.heldDoorbells = [(v, value)] →
          exec .quiescentSwitchRestart s = exec (.doorbell v value) { up with heldDoorbells := [] })) ∧
    let found := [sha512 (Config.flashBytes 2), sha512 (recordBytes s.flash), s.running.digest, (s.understudy.map FwImage.digest).getD 0,
      sha512 s.policyKeys]
    exec .spdmAttestation s =
      .next { s with outbox := s.outbox ++ [.measurements found (Config.deviceSignature (found.flatMap fun h => leBytes 64 h.toNat))] })

/-- R525 to R527: power-up verifies the counter block, the configuration record and the primary image, and starts it, or stops; before that no command
has an effect. A record that its key signs, no older than the floor, replaces the one in flash and raises the floors; a signed time record sets
the clock.
That nothing takes effect before the boot, and which bytes stand for keys, are the model's choices (log entries 11 and 91). -/
def Sys2Proof.Machine.BootAndRecords : Prop :=
  ∀ (s : State),
    (s.boot ≠ .off → exec .powerUpBoot s = .next s) ∧
    (s.boot = .off →
      let d := Config.flashBytes 1
      exec .powerUpBoot s = .next (if Config.counterBlockOk (s.recFloor * 2 ^ 16 + s.svnFloor) && s.recordOk s.flash && s.fwStatusOf d == 0 then
        { s with boot := .running, running := fwImage d, cpPcs := (List.range 4).map fun cp => (cp, BitVec.ofNat 64 (fwImage d).entry),
                 linkSteps := [], wdLast := s.cycle } else { s with boot := .stopped })) ∧
    (s.boot ≠ .running → ∀ cp : Fin 4, exec .firmwareLoad s = .next s ∧ exec .watchdogKick s = .next s ∧ exec (.partitionActivate cp) s = .next s ∧
      exec (.quant cp) s = .next s ∧ ∀ t v, exec (.registerWrite t v) s = .next s) ∧
    (s.boot = .running →
      (∀ r : ConfigRecord,
        let ok := r.version < 2 ^ 32 ∧ s.recFloor ≤ r.version ∧
          signatureOk (Config.flashBytes 0) (recordBytes r) r.signature = true
        exec (.configRecordInstall r) s = .next
          (if ok then { s with flash := r, recFloor := max s.recFloor r.version, svnFloor := max s.svnFloor r.minSvn } else s)) ∧
      ∀ r : TimeRecord,
        let ok := signatureOk s.flash.body (leBytes 8 r.seconds ++ r.body) r.signature = true
        exec (.trustedClockSet r) s = .next (if ok then { s with clock := some (r.seconds, s.cycle) } else s))

/-- Firmware, power-up and signed records: the propositions above together. -/
def Obligations.FirmwareAndBoot : Prop :=
  FirmwareCommands ∧ BootAndRecords

/-- R520, R524, R529: KICK restarts the watchdog and ends its ladder, ACK ends that of a fence; a watchdog that is not kicked for T1 starts the ladder,
whose rungs follow after 50, 50, 100, 200 and 500 ms: SWITCH, a reset of the command processor, of the fenced partition, which starts again once
its companies are suspended, of I/O die 0, and of the package, which a junction trip resets at once.
What the rungs keep, and what a package reset keeps, are the model's readings (log entries 89 and 90); that KICK and ACK do nothing before the boot is
its choice (91). -/
def Obligations.WatchdogLadder : Prop :=
  ∀ (s : State),
    (s.boot = .running →
      exec .watchdogKick s = .next { s with wdLast := s.cycle, ladder := s.ladder.filter fun l => l.fence } ∧
      exec .ladderAck s = .next { s with ladder := s.ladder.filter fun l => !l.fence }) ∧
    (s.boot ≠ .running → exec .watchdogKick s = .next s ∧ exec .ladderAck s = .next s) ∧
    (s.watchdogDue = false → exec .watchdogTimeout s = .next s) ∧
    (s.watchdogDue = true → ∃ t, exec .watchdogTimeout s = .next t ∧ t.ladder = some { fence := false, rung := 1, since := s.cycle } ∧
      t.ladderCause = false ∧ t.irqs = s.irqs ++ [.watchdog] ∧ t.ctxs = s.ctxs ∧ t.mem = s.mem) ∧
    (∀ i : Instr, (i = .rungSwitch ∧ s.rungDue 1 50 = false) ∨ (i = .rungCpReset ∧ s.rungDue 2 50 = false) ∨
      (i = .rungPartitionReset ∧ s.cycling = none ∧ s.rungDue 3 100 = false) ∨
      (i = .rungPartitionReset ∧ ∃ p, s.cycling = some p ∧ s.allSuspended p = false) ∨ (i = .rungIoDieReset ∧ s.rungDue 4 200 = false) ∨
      (i = .packageReset ∧ s.rungDue 5 500 = false) → exec i s = .next s) ∧
    (∀ l : Ladder, s.ladder = some l →
      (s.rungDue 1 50 = true → ∃ t, exec .rungSwitch s = .next t ∧ t.ladder = some { l with rung := 2, since := s.cycle } ∧ t.mem = s.mem ∧
        (s.understudy = none → t.running = s.running ∧ t.rung = s.rung) ∧
        ∀ u, s.understudy = some u → t.running = u ∧ t.understudy = some s.running ∧ t.restarting = true) ∧
      (s.rungDue 2 50 = true → ∃ t, exec .rungCpReset s = .next t ∧ t.ladder = some { l with rung := 3, since := s.cycle } ∧ t.mem = s.mem ∧
        t.restarting = true ∧ ∀ u, s.understudy = some u → t.running = u) ∧
      (s.cycling = none → s.rungDue 3 100 = true → s.ladderCause = false → ∃ t, exec .rungPartitionReset s = .next t ∧
        t.ladder = some { l with rung := 4, since := s.cycle } ∧ t.parts = s.parts ∧ t.mem = s.mem) ∧
      (s.cycling = none → s.rungDue 3 100 = true → s.ladderCause = true → ∃ t, exec .rungPartitionReset s = .next t ∧
        t.ladder = some { l with rung := 4, since := s.cycle } ∧ t.parts = s.parts ∧
        t.cycling = if (s.part s.ladderPnum.toNat).active then some s.ladderPnum.toNat else none) ∧
      (s.rungDue 4 200 = true → ∃ t, exec .rungIoDieReset s = .next t ∧ t.parts = [] ∧ t.launches = [] ∧ t.queues = [] ∧ t.oprs = [] ∧
        t.mmio = [] ∧ t.pkg = 0xFFF ∧ t.ladder = some { l with rung := 5, since := s.cycle })) ∧
    (∀ p, s.cycling = some p → s.allSuspended p = true → ∃ t, exec .rungPartitionReset s = .next t ∧ t.cycling = none ∧
      (t.part p).policy = none ∧ (t.part p).boundKey = none ∧ t.ladder = s.ladder) ∧
    (∀ fresh : State, fresh = { State.reset with flash := s.flash, recFloor := s.recFloor, svnFloor := s.svnFloor, outbox := s.outbox, agenda := s.agenda } →
      (s.rungDue 5 500 = true → exec .packageReset s = .next fresh) ∧ exec .junctionTrip s = .next fresh) ∧
    exec .junctionAlarm s = .next { s with irqs := s.irqs ++ [.thermal] }

/-- R20, R172, R517, R520: a port changes its step at a frame boundary, 100 µs after its last change and 2 µs after any port's, and stays within its
cap; its retraining window closes. A packet for another package is refused and has no effect; an atomic at a company's scratch performs and is
answered with the old value.
That a port may change to any step its cap allows, the form of a peer's packet, and the answer to one that names no target, are the model's choices
(log entries 10, 93 and 94). -/
def Obligations.LinksAndPeers : Prop :=
  ∀ (s : State),
    (∀ port step : Nat,
      let may := port < 32 ∧ step < 4 ∧ s.cycle % 256 = 0 ∧ s.stepFree port 270000 = true ∧ s.stepFree 32 5400 = true ∧
        step ≤ (s.linkCaps.extractLsb' (2 * port) 2).toNat
      (¬may → exec (.linkStepChange port step) s = .next s) ∧
      (may → ∃ t, exec (.linkStepChange port step) s = .next t ∧ (t.linkSteps.look port).map Fin.val = some step ∧ port ∈ t.retraining ∧
        t.lastStep.look port = some s.cycle ∧ t.mem = s.mem ∧ t.ctxs = s.ctxs) ∧
      ∃ t, exec (.retrainingEnd port) s = .next t ∧ port ∉ t.retraining ∧ t.mem = s.mem ∧ t.ctxs = s.ctxs) ∧
    (∀ (target : BitVec 12) (company : Nat) (core : Coord) (tag doff : Nat) (d : List Byte) (request : Nat), target ≠ s.pkg →
      exec (.peerPacketArrival (.message target company core tag doff d request)) s =
        .next { s with outbox := s.outbox ++ [.answer request (some .wrongPackage) 0] } ∧
      exec (.peerPacketArrival (.write target company core doff d request)) s =
        .next { s with outbox := s.outbox ++ [.answer request (some .wrongPackage) 0] } ∧
      ∀ opc size value expect, exec (.peerPacketArrival (.atomic target company core doff opc size value expect request)) s =
        .next { s with outbox := s.outbox ++ [.answer request (some .wrongPackage) 0] }) ∧
    (∀ (company : Nat) (core : Coord) (addr : Nat) (d : List Byte) (request : Nat),
      coordValid core = false ∨ d = [] ∨ 2 ^ 21 < addr + d.length ∨ s.company? (clusterOf core) company = none →
        exec (.peerPacketArrival (.write s.pkg company core addr d request)) s =
          .next { s with outbox := s.outbox ++ [.answer request (some .noTarget) 0] }) ∧
    (∀ (company : Nat) (core : Coord) (addr b : Nat) (d : List Byte) (request : Nat), coordValid core = true → d ≠ [] → s.inv →
      addr % 65536 + d.length ≤ 65536 → addr + d.length ≤ 2 ^ 21 → (s.company? (clusterOf core) company).isSome = true →
        (s.clusterAt (clusterOf core)).divertOf company = none →
        (s.clusterAt (clusterOf core)).physBank company (addr / 65536) .scratch = some b →
        (s.clusterAt (clusterOf core)).discarded company (addr / 65536) = false →
        s.ops.look s.fresh = none → ∃ t, exec (.peerPacketArrival (.write s.pkg company core addr d request)) s = .next t ∧
          s.wroteRange t (bankPa (clusterOf core) b (addr % 65536)) d ∧ t.outbox = s.outbox ++ [.answer request none 0]) ∧
    (∀ (company : Nat) (core : Coord) (addr b request : Nat) (value expect : Word), coordValid core = true → addr % 8 = 0 → addr + 8 ≤ 2 ^ 21 →
      let cl := clusterOf core
      (s.company? cl company).isSome = true → (s.clusterAt cl).divertOf company = none →
        (s.clusterAt cl).physBank company (addr / 65536) .scratch = some b → (s.clusterAt cl).discarded company (addr / 65536) = false →
          let pa := bankPa cl b (addr % 65536)
          let old := leValue (s.tierBytes pa 8)
          exec (.peerPacketArrival (.atomic s.pkg company core addr 0x205 8 value expect request)) s =
            .next { s.setTier pa (leBytes 8 ((old + value.toNat) % 2 ^ 64)) with
              outbox := s.outbox ++ [.answer request none (BitVec.ofNat 64 old)] }) ∧
    ∀ (request : Nat) (refusal : Option PeerRefusal) (v : Word) (o : EngOp), s.ops.look request = some o → o.flying ≠ 0 →
      ∃ t, exec (.peerPacketArrival (.answer request refusal v)) s = .next t ∧ t.ops.look request = some { o with
        flying := o.flying - 1, dropped := o.dropped || refusal.isSome, refused := o.refused || refusal == some .wrongPackage } ∧ t.mem = s.mem

/-- R263 to R269, R272, R478: when a context may issue and nothing comes before its instruction, the step is exec of the instruction that the
word at its PC decodes to, or the fault of a word that is no instruction, or SRAM_ECC for a word of which a byte is bad; the word is the one
fetched ahead, else the one in the core's local memory. An event that the agenda names is performed at once. What a step adds to that, and does
last, is a look at the descriptors of queues that were torn down (R452, `stepped`): the model's reading (log entry 60). -/
def Obligations.StepRunsDecodedInstruction : Prop :=
  (∀ (s t : State) (k : Nat), s.letsIssue k t → t.before k = .nothing →
    (∀ w, (t.ctx k).fetchedWord = some w ∨
        ((t.ctx k).fetchedWord = none ∧ t.badWord (t.ctx k).core (t.ctx k).pc.toNat = false ∧ w = t.wordAt (t.ctx k).core (t.ctx k).pc.toNat) →
      (∀ i, decode w = .ok i → step s = stepped (exec i (t.issued k w))) ∧
      ∀ e, decode w = .error e → step s = stepped (.next ((t.issued k w).decodeFault e))) ∧
    ((t.ctx k).fetchedWord = none → t.badWord (t.ctx k).core (t.ctx k).pc.toNat = true → ∀ u : State,
      u = { (t.updCore (t.ctx k).core fun c => { c with last := (t.ctx k).slot, issueAt := t.cycle + 1 }).countCore (t.ctx k).core 0 0
        with cur := k } →
      step s = stepped (.next (u.faultHere .sramEcc (BitVec.ofNat 64 (12 * (t.ctx k).pc.toNat)))))) ∧
  (∀ (s : State) (i : Instr) (rest : List Pick), s.agenda = .event i :: rest → isEvent i = true →
    step s = stepped (exec i { s with agenda := rest })) ∧
  -- with no queue torn down, what a step does last changes nothing
  ∀ s : State, (∀ f ∈ s.vfs, ∀ q ∈ f.2.queues, q.2.state.isDown = false) → stepped (.next s) = .next s

/-- R262 to R286: words worked out in the spec decode to the instructions they stand for, a word of each family among them. -/
def Sys2Proof.Machine.WrittenWordsDecode : Prop :=
  let plain : Hdr := { gpred := 7, gsense := false, issue := .none, last := false, mig := .auto }
  let md (ty : Ty) : Modifier := { ty, ord := .rlx, nsp := false, na := false }
  decode 0x1032_0001_0100_0200_009F_FFFB = .ok (.add { h := { plain with gpred := 2 }, md := md .i64, d := .g 1 0, a := .g 2 0, b := .i (-5) }) ∧
  decode 0x103A_0001_0100_0200_0002_0000 =
    .ok (.add { h := { plain with gpred := 2, gsense := true }, md := md .i64, d := .g 1 0, a := .g 2 0, b := .g 2 0 }) ∧
  decode 0x2007_0003_05C0_B500_0200_0000 =
    .ok (.ld { h := plain, md := { md .n32 with ord := .acq }, d := .g 3 0, a := .m 5 true 2, b := .none }) ∧
  decode 0x1017_0007_0000_0012_3456_789A = .ok (.movi { h := plain, md := md .none, d := .g 7 0, a := .wide 0x12_3456_789A, b := .none }) ∧
  decode 0x1277_00C1_01C0_0400_0080_0064 = .ok (.cmp { h := plain, md := md .n32, d := .p 1, a := .g 4 0, b := .i 100 }) ∧
  decode 0x0097_0080_0001_2300_0080_0005 = .ok (.bqc { h := plain, md := md .none, d := .i 1, a := .q 3, b := .i 5 }) ∧
  decode 0x00C7_0006_0001_6800_0000_0000 = .ok (.gets { h := plain, md := md .none, d := .g 6 1, a := .s .time, b := .none }) ∧
  decode 0x0043_0000_0000_9FFF_FC00_0000 = .ok (.br { h := { plain with gpred := 3 }, md := md .none, d := .none, a := .i (-4), b := .none }) ∧
  decode 0x2057_0001_0D00_A200_0280_0001 =
    .ok (.aadd { h := plain, md := { md .i64 with ord := .ar }, d := .g 1 0, a := .m 2 false 2, b := .i 1 }) ∧
  decode 0x2187_0000_0000_B300_0004_0000 = .ok (.barw { h := plain, md := md .none, d := .none, a := .m 3 true 0, b := .g 4 0 }) ∧
  decode 0x3027_0000_0000_2300_0080_0002 = .ok (.qadv { h := plain, md := md .none, d := .none, a := .q 3, b := .i 2 }) ∧
  decode 0x3107_0005_0000_0600_0000_0000 = .ok (.spawn { h := plain, md := md .none, d := .g 5 0, a := .g 6 0, b := .none }) ∧
  decode 0x3177_0007_0000_B800_0009_0000 = .ok (.cpy { h := plain, md := md .none, d := .g 7 0, a := .m 8 true 0, b := .g 9 0 }) ∧
  decode 0x4007_0001_0000_0200_0003_0000 = .ok (.vadd { h := plain, md := md .none, d := .g 1 0, a := .g 2 0, b := .g 3 0 }) ∧
  decode 0x4147_0004_0280_0500_0080_0001 = .ok (.vcvt { h := plain, md := md .bf16, d := .g 4 0, a := .g 5 0, b := .i 1 }) ∧
  decode 0x4157_0006_0280_0700_0008_0002 = .ok (.vqnt { h := plain, md := md .bf16, d := .g 6 0, a := .g 7 0, b := .g 8 2 }) ∧
  decode 0x41A7_0001_0001_0200_0080_0005 = .ok (.vext { h := plain, md := md .none, d := .g 1 1, a := .g 2 0, b := .i 5 }) ∧
  decode 0x5037_0009_0000_8000_1F00_0000 = .ok (.tmma { h := plain, md := md .none, d := .g 9 0, a := .i 0x1F, b := .none }) ∧
  decode 0x6007_0001_0200_0200_0003_0000 = .ok (.clmul { h := plain, md := md .n64, d := .g 1 0, a := .g 2 0, b := .g 3 0 })

/-- R271, R272, R275: the borderline encodings of the spec: an unassigned opcode and a reserved hint are ILLEGAL_OP, an index out of range and
a nonzero unused field OPERAND_FORM with the field's number. -/
def Sys2Proof.Machine.BorderlineWordsAreRefused : Prop :=
  decode 0x4227_0000_0000_0000_0000_0000 = .ok (.unassignedOpcode 0x422 0x00) ∧
  decode 0x1037_0401_0100_0200_0002_0000 = .error (.illegal 0x103 0x04) ∧ (DecErr.illegal 0x103 0x04).tval = 0x04103 ∧
  decode 0x1037_0001_0100_1000_0002_0000 = .error (.form 0x103 1 0x10_0000) ∧
  decode 0x2007_0003_05C0_B500_0200_0001 = .error (.form 0x200 2 0x00_0001) ∧
  decode 0x1277_00C1_0240_0400_0005_0000 = .error (.form 0x127 0 0xC1_0240) ∧
  decode 0x4007_0001_0240_0200_0003_0000 = .error (.form 0x400 0 0x01_0240)

/-- Words worked out in the spec decode to what they stand for: the propositions above together. -/
def Obligations.WrittenWords : Prop :=
  WrittenWordsDecode ∧ BorderlineWordsAreRefused

/-- R262, R263, R275 to R286: no bit of an encoding is dropped: the word of a well-formed instruction decodes to that instruction, with every operand at
every value its encoding admits, and the 12 bytes of a word in memory give the word back. -/
def Obligations.DecodeOfEncode : Prop :=
  (∀ (i : Instr), i.wf = true → (∀ opc hint, i = .unassignedOpcode opc hint → ofOpc opc = none) →
    ∀ w, encode i = some w → decode w = .ok i) ∧
  ∀ w : InstrWord, wordOfBytes (wordBytes w) = w

/-- R262 to R286: a word that decodes to an assigned instruction is the word of that instruction, which is well formed: no two words stand for one
instruction. -/
def Obligations.EncodeOfDecode : Prop :=
  ∀ (w : InstrWord) (i : Instr), decode w = .ok i → i.sig?.isSome = true → i.wf = true ∧ encode i = some w

/-- R211, R247, R269, R270, R273, R369, R389: an instruction whose guard is false, of an extension its core has, changes nothing but the PC, which
advances by 1, and ends as an instruction that neither waits nor accesses memory: no register, predicate, queue, future or byte of memory
changes; one of T also pins a roaming task. The checks of step 4 come first, whatever the guard holds: those of an immediate that the state
limits have their fault here, with the tval of the field. (TRET, OVRET, GETS and SETS check their privilege first; that has a statement of
its own.) An instruction of V looks at %fmt only where its guard is true. -/
def Obligations.FalseGuardOnlyAdvancesThePc : Prop :=
  (∀ (f : Fields) (s : State) (v : BitVec 21),
    (f.a = .i v →
      (noEntry s (v.signExtend 64) = true → exec (.spawn f) s = .next (s.faultHere .operandForm (DecErr.form 0 1 (operandRaw f.a 0)).tval)) ∧
      (macrosOnStream s (v.signExtend 64) = true →
        exec (.acq f) s = .next (s.faultHere .operandForm (DecErr.form 0 1 (operandRaw f.a 0)).tval) ∧
        exec (.acqt f) s = .next (s.faultHere .operandForm (DecErr.form 0 1 (operandRaw f.a 0)).tval))) ∧
    (f.b = .i v → noEntry s (v.signExtend 64) = true →
      exec (.fwhen f) s = .next (s.faultHere .operandForm (DecErr.form 0 2 (operandRaw f.b 0)).tval))) ∧
  ∀ (i : Instr) (s : State) (f : Fields) (sg : Sig), i.sig? = some (f, sg) → fieldsPass i s → hasExt s.now.core sg.ext = true →
    s.now.guard f.h = false → ((∀ g, i ≠ .tret g ∧ i ≠ .ovret g ∧ i ≠ .gets g ∧ i ≠ .sets g) ∨ s.now.task = false) →
      exec i s = .next ((s.pinFor sg.ext).after1 f.h fun x => x)

/-- No instruction and no event ends a run: every constructor answers a next state in every state, and so does a step whose agenda names as events
only events. -/
def Obligations.EveryInstructionAnswersANextState : Prop :=
  (∀ (i : Instr) (s : State), ∃ t, exec i s = .next t) ∧ ∀ s : State, s.agendaOk → s.goesOn

/-- The memory keeps its canonical form under every step, in every state that has it: the cells rise, and none holds what an unlisted address reads
as. -/
def Obligations.EveryStepKeepsMemoryCanonical : Prop := ∀ s t : State, s.memInv → step s = .next t → t.memInv

/-- The tables keep their form under every step: the keys of the contexts, of the lines, of the launches, of the counters and of each cluster's
companies rise, so that each is listed once. -/
def Obligations.EveryStepKeepsTables : Prop := ∀ s t : State, s.tableInv → step s = .next t → t.tableInv

/-- R15, R21: a coordinate is valid only where each field lies in its range. A rectangle holds each valid coordinate whose die, row and column each
lie between those of its corners, in either order, and no other; the one value with a meaning of its own, 0xFFFF_FFFF, holds every valid one. -/
def Obligations.CoordinatesAndRectangles : Prop :=
  (∀ c : Coord, coordValid c = true ↔ c.toNat / 2 ^ 12 ≤ 7 ∧ c.toNat / 2 ^ 6 % 2 ^ 6 ≤ 11 ∧ c.toNat % 2 ^ 6 ≤ 15) ∧
  (∀ c : Coord, inRect 0xFFFFFFFF c = coordValid c) ∧
  ∀ (a b c : Coord), b ++ a ≠ (0xFFFFFFFF : BitVec 32) →
    (inRect (b ++ a) c = true ↔ coordValid c = true ∧ ∀ field : Nat → Nat, field ∈ [fun n => n / 2 ^ 12, fun n => n / 2 ^ 6 % 2 ^ 6, fun n => n % 2 ^ 6] →
      (field a.toNat ≤ field c.toNat ∧ field c.toNat ≤ field b.toNat) ∨ (field b.toNat ≤ field c.toNat ∧ field c.toNat ≤ field a.toNat))

/-- R63, R454, R513, R525 to R529: the machine right after reset: it is not yet booted, no context exists, every bank of every cluster is CACHE and free, no
partition is active, Q is 1 ms, the heartbeat of the host is 100 ms, the package number is 0xFFF and no trusted time is set; memory lists nothing,
and the form that every step keeps holds. That every core's registers are 0 is the model's choice (log entry 5). -/
def Obligations.ResetState : Prop :=
  State.reset.inv ∧ State.reset.agendaOk ∧ State.reset.boot = .off ∧ State.reset.ctxs = [] ∧ State.reset.mem = [] ∧
    State.reset.quantum = 1000 ∧ State.reset.wdT1 = 100 ∧ State.reset.pkg = 0xFFF ∧ State.reset.clock = none ∧
    (∀ cl b, (State.reset.clusterAt cl).bankAt b = { mode := .cache, next := none, held := false, company := 0, lbank := 0 }) ∧
    (∀ n, (State.reset.part n).active = false) ∧ ∀ core, State.reset.coreAt core = Core.reset
end

