-- ==== Sys2Proof/Laws/Table.lean ====
section
/-! SUPPORT. Tables: what a key reads as after a write, and that every operation keeps the keys rising. -/

namespace Sys2Proof

variable {α : Type}

@[simp] theorem Tbl.look_put_same (t : Tbl α) (k : Nat) (v : α) : (t.put k v).look k = some v := by
  induction t with
  | nil => simp [Tbl.put, Tbl.look]
  | cons e r ih =>
    obtain ⟨j, w⟩ := e
    simp only [Tbl.put]
    split
    · simp [Tbl.look]
    · split
      · simp [Tbl.look]
      · have h : j ≠ k := by omega
        simp [Tbl.look, h, ih]

@[simp] theorem Tbl.look_put_other (t : Tbl α) (k j : Nat) (v : α) (h : j ≠ k) : (t.put k v).look j = t.look j := by
  induction t with
  | nil => simp [Tbl.put, Tbl.look, Ne.symm h]
  | cons e r ih =>
    obtain ⟨i, w⟩ := e
    simp only [Tbl.put]
    split
    · simp [Tbl.look, Ne.symm h]
    · split
      · rename_i h1 h2
        simp [Tbl.look, Ne.symm h, ← h2]
      · simp only [Tbl.look, ih]

@[simp] theorem Tbl.getD_put_same (t : Tbl α) (k : Nat) (v d : α) : (t.put k v).getD k d = v := by simp [Tbl.getD]

@[simp] theorem Tbl.getD_put_other (t : Tbl α) (k j : Nat) (v d : α) (h : j ≠ k) : (t.put k v).getD j d = t.getD j d := by
  simp [Tbl.getD, h]

@[simp] theorem Tbl.look_upd_same (t : Tbl α) (k : Nat) (f : α → α) : (t.upd k f).look k = (t.look k).map f := by
  unfold Tbl.upd
  cases h : t.look k <;> simp [h]

@[simp] theorem Tbl.look_upd_other (t : Tbl α) (k j : Nat) (f : α → α) (h : j ≠ k) : (t.upd k f).look j = t.look j := by
  unfold Tbl.upd
  split <;> simp [h]

/-- Every key of a list that rises from `lo` on is at least `lo`. -/
theorem Tbl.wf_cons (j : Nat) (w : α) (r : Tbl α) :
    Tbl.wf ((j, w) :: r) = true ↔ Tbl.wf r = true ∧ ∀ e, r.head? = some e → j < e.1 := by
  cases r with
  | nil => simp [Tbl.wf]
  | cons e r => simp [Tbl.wf, and_comm]

theorem Tbl.head_put (t : Tbl α) (k : Nat) (v : α) (lo : Nat) (hk : lo < k) (h : ∀ e, t.head? = some e → lo < e.1) :
    ∀ e, (t.put k v).head? = some e → lo < e.1 := by
  cases t with
  | nil => simp [Tbl.put, hk]
  | cons a r =>
    obtain ⟨j, w⟩ := a
    have hj : lo < j := h (j, w) rfl
    simp only [Tbl.put]
    split
    · simp [hk]
    · split <;> simp [hk, hj]

theorem Tbl.put_wf (t : Tbl α) (k : Nat) (v : α) (h : t.wf = true) : (t.put k v).wf = true := by
  induction t with
  | nil => rfl
  | cons a r ih =>
    obtain ⟨j, w⟩ := a
    have ⟨hr, hh⟩ := (Tbl.wf_cons j w r).1 h
    simp only [Tbl.put]
    split
    · rename_i hk
      exact (Tbl.wf_cons k v _).2 ⟨h, by simpa using hk⟩
    · split
      · rename_i hk
        subst hk
        exact (Tbl.wf_cons k v r).2 ⟨hr, hh⟩
      · exact (Tbl.wf_cons j w _).2 ⟨ih hr, Tbl.head_put r k v j (by omega) hh⟩

theorem Tbl.upd_wf (t : Tbl α) (k : Nat) (f : α → α) (h : t.wf = true) : (t.upd k f).wf = true := by
  unfold Tbl.upd
  split
  · exact h
  · exact Tbl.put_wf t k _ h

theorem Tbl.del_wf (t : Tbl α) (k : Nat) (h : t.wf = true) : (t.del k).wf = true := by
  suffices (t.del k).wf = true ∧ ∀ lo, (∀ e, t.head? = some e → lo < e.1) → ∀ e, (t.del k).head? = some e → lo < e.1 from this.1
  induction t with
  | nil => simp [Tbl.del, Tbl.wf]
  | cons a r ih =>
    obtain ⟨j, w⟩ := a
    have ⟨hr, hh⟩ := (Tbl.wf_cons j w r).1 h
    simp only [Tbl.del]
    split
    · exact ⟨hr, fun lo hl e he => Nat.lt_trans (hl (j, w) rfl) (hh e he)⟩
    · exact ⟨(Tbl.wf_cons j w _).2 ⟨(ih hr).1, (ih hr).2 j hh⟩, fun lo hl => by simpa using hl (j, w) rfl⟩

end Sys2Proof
end

