-- ==== Sys2Proof/Laws/State.lean ====
section
/-! SUPPORT. What each update of the state leaves in each field, and what reads as what after it. -/

namespace Sys2Proof.Machine

/-! ## Updates that apply a function -/

@[simp] theorem State.updCtx_eq (s : State) (k : Nat) (f : Ctx → Ctx) : s.updCtx k f = s.setCtx k (f (s.ctx k)) := rfl
@[simp] theorem State.updCore_eq (s : State) (c : Coord) (f : Core → Core) : s.updCore c f = s.setCore c (f (s.coreAt c)) := rfl
@[simp] theorem State.updCluster_eq (s : State) (n : Nat) (f : Cluster → Cluster) : s.updCluster n f = s.setCluster n (f (s.clusterAt n)) := rfl
@[simp] theorem State.updPart_eq (s : State) (p : Nat) (f : Part → Part) : s.updPart p f = s.setPart p (f (s.part p)) := rfl
@[simp] theorem State.updVf_eq (s : State) (v : Nat) (f : Vf → Vf) : s.updVf v f = s.setVf v (f (s.vf v)) := rfl


/-! ## setCtx -/

@[simp] theorem State.setCtx_ctxs (s : State) (k : Nat) (x : Ctx) : (s.setCtx k x).ctxs = s.ctxs.put k x := rfl
@[simp] theorem State.setCtx_cycle (s : State) (k : Nat) (x : Ctx) : (s.setCtx k x).cycle = s.cycle := rfl
@[simp] theorem State.setCtx_cores (s : State) (k : Nat) (x : Ctx) : (s.setCtx k x).cores = s.cores := rfl
@[simp] theorem State.setCtx_clusters (s : State) (k : Nat) (x : Ctx) : (s.setCtx k x).clusters = s.clusters := rfl
@[simp] theorem State.setCtx_mem (s : State) (k : Nat) (x : Ctx) : (s.setCtx k x).mem = s.mem := rfl
@[simp] theorem State.setCtx_bad (s : State) (k : Nat) (x : Ctx) : (s.setCtx k x).bad = s.bad := rfl
@[simp] theorem State.setCtx_lines (s : State) (k : Nat) (x : Ctx) : (s.setCtx k x).lines = s.lines := rfl
@[simp] theorem State.setCtx_walks (s : State) (k : Nat) (x : Ctx) : (s.setCtx k x).walks = s.walks := rfl
@[simp] theorem State.setCtx_walkFaults (s : State) (k : Nat) (x : Ctx) : (s.setCtx k x).walkFaults = s.walkFaults := rfl
@[simp] theorem State.setCtx_tileTlbs (s : State) (k : Nat) (x : Ctx) : (s.setCtx k x).tileTlbs = s.tileTlbs := rfl
@[simp] theorem State.setCtx_held (s : State) (k : Nat) (x : Ctx) : (s.setCtx k x).held = s.held := rfl
@[simp] theorem State.setCtx_reports (s : State) (k : Nat) (x : Ctx) : (s.setCtx k x).reports = s.reports := rfl
@[simp] theorem State.setCtx_sdregs (s : State) (k : Nat) (x : Ctx) : (s.setCtx k x).sdregs = s.sdregs := rfl
@[simp] theorem State.setCtx_shootdowns (s : State) (k : Nat) (x : Ctx) : (s.setCtx k x).shootdowns = s.shootdowns := rfl
@[simp] theorem State.setCtx_queues (s : State) (k : Nat) (x : Ctx) : (s.setCtx k x).queues = s.queues := rfl
@[simp] theorem State.setCtx_ops (s : State) (k : Nat) (x : Ctx) : (s.setCtx k x).ops = s.ops := rfl
@[simp] theorem State.setCtx_pkts (s : State) (k : Nat) (x : Ctx) : (s.setCtx k x).pkts = s.pkts := rfl
@[simp] theorem State.setCtx_oprs (s : State) (k : Nat) (x : Ctx) : (s.setCtx k x).oprs = s.oprs := rfl
@[simp] theorem State.setCtx_launches (s : State) (k : Nat) (x : Ctx) : (s.setCtx k x).launches = s.launches := rfl
@[simp] theorem State.setCtx_images (s : State) (k : Nat) (x : Ctx) : (s.setCtx k x).images = s.images := rfl
@[simp] theorem State.setCtx_parts (s : State) (k : Nat) (x : Ctx) : (s.setCtx k x).parts = s.parts := rfl
@[simp] theorem State.setCtx_vfs (s : State) (k : Nat) (x : Ctx) : (s.setCtx k x).vfs = s.vfs := rfl
@[simp] theorem State.setCtx_hwslots (s : State) (k : Nat) (x : Ctx) : (s.setCtx k x).hwslots = s.hwslots := rfl
@[simp] theorem State.setCtx_lastServed (s : State) (k : Nat) (x : Ctx) : (s.setCtx k x).lastServed = s.lastServed := rfl
@[simp] theorem State.setCtx_quantum (s : State) (k : Nat) (x : Ctx) : (s.setCtx k x).quantum = s.quantum := rfl
@[simp] theorem State.setCtx_waitingQs (s : State) (k : Nat) (x : Ctx) : (s.setCtx k x).waitingQs = s.waitingQs := rfl
@[simp] theorem State.setCtx_reserved (s : State) (k : Nat) (x : Ctx) : (s.setCtx k x).reserved = s.reserved := rfl
@[simp] theorem State.setCtx_csrs (s : State) (k : Nat) (x : Ctx) : (s.setCtx k x).csrs = s.csrs := rfl
@[simp] theorem State.setCtx_mmio (s : State) (k : Nat) (x : Ctx) : (s.setCtx k x).mmio = s.mmio := rfl
@[simp] theorem State.setCtx_unclaimed (s : State) (k : Nat) (x : Ctx) : (s.setCtx k x).unclaimed = s.unclaimed := rfl
@[simp] theorem State.setCtx_discardedReports (s : State) (k : Nat) (x : Ctx) : (s.setCtx k x).discardedReports = s.discardedReports := rfl
@[simp] theorem State.setCtx_traceDrops (s : State) (k : Nat) (x : Ctx) : (s.setCtx k x).traceDrops = s.traceDrops := rfl
@[simp] theorem State.setCtx_counts (s : State) (k : Nat) (x : Ctx) : (s.setCtx k x).counts = s.counts := rfl
@[simp] theorem State.setCtx_countAt (s : State) (k : Nat) (x : Ctx) : (s.setCtx k x).countAt = s.countAt := rfl
@[simp] theorem State.setCtx_totals (s : State) (k : Nat) (x : Ctx) : (s.setCtx k x).totals = s.totals := rfl
@[simp] theorem State.setCtx_swept (s : State) (k : Nat) (x : Ctx) : (s.setCtx k x).swept = s.swept := rfl
@[simp] theorem State.setCtx_sweepAt (s : State) (k : Nat) (x : Ctx) : (s.setCtx k x).sweepAt = s.sweepAt := rfl
@[simp] theorem State.setCtx_replayPos (s : State) (k : Nat) (x : Ctx) : (s.setCtx k x).replayPos = s.replayPos := rfl
@[simp] theorem State.setCtx_replayWritten (s : State) (k : Nat) (x : Ctx) : (s.setCtx k x).replayWritten = s.replayWritten := rfl
@[simp] theorem State.setCtx_replaySeq (s : State) (k : Nat) (x : Ctx) : (s.setCtx k x).replaySeq = s.replaySeq := rfl
@[simp] theorem State.setCtx_boot (s : State) (k : Nat) (x : Ctx) : (s.setCtx k x).boot = s.boot := rfl
@[simp] theorem State.setCtx_running (s : State) (k : Nat) (x : Ctx) : (s.setCtx k x).running = s.running := rfl
@[simp] theorem State.setCtx_understudy (s : State) (k : Nat) (x : Ctx) : (s.setCtx k x).understudy = s.understudy := rfl
@[simp] theorem State.setCtx_fwStatus (s : State) (k : Nat) (x : Ctx) : (s.setCtx k x).fwStatus = s.fwStatus := rfl
@[simp] theorem State.setCtx_fwDone (s : State) (k : Nat) (x : Ctx) : (s.setCtx k x).fwDone = s.fwDone := rfl
@[simp] theorem State.setCtx_fwBusy (s : State) (k : Nat) (x : Ctx) : (s.setCtx k x).fwBusy = s.fwBusy := rfl
@[simp] theorem State.setCtx_fwLoading (s : State) (k : Nat) (x : Ctx) : (s.setCtx k x).fwLoading = s.fwLoading := rfl
@[simp] theorem State.setCtx_restarting (s : State) (k : Nat) (x : Ctx) : (s.setCtx k x).restarting = s.restarting := rfl
@[simp] theorem State.setCtx_cycling (s : State) (k : Nat) (x : Ctx) : (s.setCtx k x).cycling = s.cycling := rfl
@[simp] theorem State.setCtx_ladder (s : State) (k : Nat) (x : Ctx) : (s.setCtx k x).ladder = s.ladder := rfl
@[simp] theorem State.setCtx_rung (s : State) (k : Nat) (x : Ctx) : (s.setCtx k x).rung = s.rung := rfl
@[simp] theorem State.setCtx_ladderCause (s : State) (k : Nat) (x : Ctx) : (s.setCtx k x).ladderCause = s.ladderCause := rfl
@[simp] theorem State.setCtx_ladderPnum (s : State) (k : Nat) (x : Ctx) : (s.setCtx k x).ladderPnum = s.ladderPnum := rfl
@[simp] theorem State.setCtx_wdLast (s : State) (k : Nat) (x : Ctx) : (s.setCtx k x).wdLast = s.wdLast := rfl
@[simp] theorem State.setCtx_pkg (s : State) (k : Nat) (x : Ctx) : (s.setCtx k x).pkg = s.pkg := rfl
@[simp] theorem State.setCtx_wdT1 (s : State) (k : Nat) (x : Ctx) : (s.setCtx k x).wdT1 = s.wdT1 := rfl
@[simp] theorem State.setCtx_fwAdr (s : State) (k : Nat) (x : Ctx) : (s.setCtx k x).fwAdr = s.fwAdr := rfl
@[simp] theorem State.setCtx_flash (s : State) (k : Nat) (x : Ctx) : (s.setCtx k x).flash = s.flash := rfl
@[simp] theorem State.setCtx_recFloor (s : State) (k : Nat) (x : Ctx) : (s.setCtx k x).recFloor = s.recFloor := rfl
@[simp] theorem State.setCtx_svnFloor (s : State) (k : Nat) (x : Ctx) : (s.setCtx k x).svnFloor = s.svnFloor := rfl
@[simp] theorem State.setCtx_clock (s : State) (k : Nat) (x : Ctx) : (s.setCtx k x).clock = s.clock := rfl
@[simp] theorem State.setCtx_linkSteps (s : State) (k : Nat) (x : Ctx) : (s.setCtx k x).linkSteps = s.linkSteps := rfl
@[simp] theorem State.setCtx_linkCaps (s : State) (k : Nat) (x : Ctx) : (s.setCtx k x).linkCaps = s.linkCaps := rfl
@[simp] theorem State.setCtx_retraining (s : State) (k : Nat) (x : Ctx) : (s.setCtx k x).retraining = s.retraining := rfl
@[simp] theorem State.setCtx_lastStep (s : State) (k : Nat) (x : Ctx) : (s.setCtx k x).lastStep = s.lastStep := rfl
@[simp] theorem State.setCtx_irqs (s : State) (k : Nat) (x : Ctx) : (s.setCtx k x).irqs = s.irqs := rfl
@[simp] theorem State.setCtx_outbox (s : State) (k : Nat) (x : Ctx) : (s.setCtx k x).outbox = s.outbox := rfl
@[simp] theorem State.setCtx_peers (s : State) (k : Nat) (x : Ctx) : (s.setCtx k x).peers = s.peers := rfl
@[simp] theorem State.setCtx_heldDoorbells (s : State) (k : Nat) (x : Ctx) : (s.setCtx k x).heldDoorbells = s.heldDoorbells := rfl
@[simp] theorem State.setCtx_cellWrites (s : State) (k : Nat) (x : Ctx) : (s.setCtx k x).cellWrites = s.cellWrites := rfl
@[simp] theorem State.setCtx_cpModes (s : State) (k : Nat) (x : Ctx) : (s.setCtx k x).cpModes = s.cpModes := rfl
@[simp] theorem State.setCtx_cpPcs (s : State) (k : Nat) (x : Ctx) : (s.setCtx k x).cpPcs = s.cpPcs := rfl
@[simp] theorem State.setCtx_reply (s : State) (k : Nat) (x : Ctx) : (s.setCtx k x).reply = s.reply := rfl
@[simp] theorem State.setCtx_cur (s : State) (k : Nat) (x : Ctx) : (s.setCtx k x).cur = s.cur := rfl
@[simp] theorem State.setCtx_detours (s : State) (k : Nat) (x : Ctx) : (s.setCtx k x).detours = s.detours := rfl
@[simp] theorem State.setCtx_agenda (s : State) (k : Nat) (x : Ctx) : (s.setCtx k x).agenda = s.agenda := rfl
@[simp] theorem State.setCtx_fresh (s : State) (k : Nat) (x : Ctx) : (s.setCtx k x).fresh = s.fresh := rfl

/-! ## setCore -/

@[simp] theorem State.setCore_cores (s : State) (c : Coord) (x : Core) : (s.setCore c x).cores = s.cores.put c.toNat x := rfl
@[simp] theorem State.setCore_cycle (s : State) (c : Coord) (x : Core) : (s.setCore c x).cycle = s.cycle := rfl
@[simp] theorem State.setCore_ctxs (s : State) (c : Coord) (x : Core) : (s.setCore c x).ctxs = s.ctxs := rfl
@[simp] theorem State.setCore_clusters (s : State) (c : Coord) (x : Core) : (s.setCore c x).clusters = s.clusters := rfl
@[simp] theorem State.setCore_mem (s : State) (c : Coord) (x : Core) : (s.setCore c x).mem = s.mem := rfl
@[simp] theorem State.setCore_bad (s : State) (c : Coord) (x : Core) : (s.setCore c x).bad = s.bad := rfl
@[simp] theorem State.setCore_lines (s : State) (c : Coord) (x : Core) : (s.setCore c x).lines = s.lines := rfl
@[simp] theorem State.setCore_walks (s : State) (c : Coord) (x : Core) : (s.setCore c x).walks = s.walks := rfl
@[simp] theorem State.setCore_walkFaults (s : State) (c : Coord) (x : Core) : (s.setCore c x).walkFaults = s.walkFaults := rfl
@[simp] theorem State.setCore_tileTlbs (s : State) (c : Coord) (x : Core) : (s.setCore c x).tileTlbs = s.tileTlbs := rfl
@[simp] theorem State.setCore_held (s : State) (c : Coord) (x : Core) : (s.setCore c x).held = s.held := rfl
@[simp] theorem State.setCore_reports (s : State) (c : Coord) (x : Core) : (s.setCore c x).reports = s.reports := rfl
@[simp] theorem State.setCore_sdregs (s : State) (c : Coord) (x : Core) : (s.setCore c x).sdregs = s.sdregs := rfl
@[simp] theorem State.setCore_shootdowns (s : State) (c : Coord) (x : Core) : (s.setCore c x).shootdowns = s.shootdowns := rfl
@[simp] theorem State.setCore_queues (s : State) (c : Coord) (x : Core) : (s.setCore c x).queues = s.queues := rfl
@[simp] theorem State.setCore_ops (s : State) (c : Coord) (x : Core) : (s.setCore c x).ops = s.ops := rfl
@[simp] theorem State.setCore_pkts (s : State) (c : Coord) (x : Core) : (s.setCore c x).pkts = s.pkts := rfl
@[simp] theorem State.setCore_oprs (s : State) (c : Coord) (x : Core) : (s.setCore c x).oprs = s.oprs := rfl
@[simp] theorem State.setCore_launches (s : State) (c : Coord) (x : Core) : (s.setCore c x).launches = s.launches := rfl
@[simp] theorem State.setCore_images (s : State) (c : Coord) (x : Core) : (s.setCore c x).images = s.images := rfl
@[simp] theorem State.setCore_parts (s : State) (c : Coord) (x : Core) : (s.setCore c x).parts = s.parts := rfl
@[simp] theorem State.setCore_vfs (s : State) (c : Coord) (x : Core) : (s.setCore c x).vfs = s.vfs := rfl
@[simp] theorem State.setCore_hwslots (s : State) (c : Coord) (x : Core) : (s.setCore c x).hwslots = s.hwslots := rfl
@[simp] theorem State.setCore_lastServed (s : State) (c : Coord) (x : Core) : (s.setCore c x).lastServed = s.lastServed := rfl
@[simp] theorem State.setCore_quantum (s : State) (c : Coord) (x : Core) : (s.setCore c x).quantum = s.quantum := rfl
@[simp] theorem State.setCore_waitingQs (s : State) (c : Coord) (x : Core) : (s.setCore c x).waitingQs = s.waitingQs := rfl
@[simp] theorem State.setCore_reserved (s : State) (c : Coord) (x : Core) : (s.setCore c x).reserved = s.reserved := rfl
@[simp] theorem State.setCore_csrs (s : State) (c : Coord) (x : Core) : (s.setCore c x).csrs = s.csrs := rfl
@[simp] theorem State.setCore_mmio (s : State) (c : Coord) (x : Core) : (s.setCore c x).mmio = s.mmio := rfl
@[simp] theorem State.setCore_unclaimed (s : State) (c : Coord) (x : Core) : (s.setCore c x).unclaimed = s.unclaimed := rfl
@[simp] theorem State.setCore_discardedReports (s : State) (c : Coord) (x : Core) : (s.setCore c x).discardedReports = s.discardedReports := rfl
@[simp] theorem State.setCore_traceDrops (s : State) (c : Coord) (x : Core) : (s.setCore c x).traceDrops = s.traceDrops := rfl
@[simp] theorem State.setCore_counts (s : State) (c : Coord) (x : Core) : (s.setCore c x).counts = s.counts := rfl
@[simp] theorem State.setCore_countAt (s : State) (c : Coord) (x : Core) : (s.setCore c x).countAt = s.countAt := rfl
@[simp] theorem State.setCore_totals (s : State) (c : Coord) (x : Core) : (s.setCore c x).totals = s.totals := rfl
@[simp] theorem State.setCore_swept (s : State) (c : Coord) (x : Core) : (s.setCore c x).swept = s.swept := rfl
@[simp] theorem State.setCore_sweepAt (s : State) (c : Coord) (x : Core) : (s.setCore c x).sweepAt = s.sweepAt := rfl
@[simp] theorem State.setCore_replayPos (s : State) (c : Coord) (x : Core) : (s.setCore c x).replayPos = s.replayPos := rfl
@[simp] theorem State.setCore_replayWritten (s : State) (c : Coord) (x : Core) : (s.setCore c x).replayWritten = s.replayWritten := rfl
@[simp] theorem State.setCore_replaySeq (s : State) (c : Coord) (x : Core) : (s.setCore c x).replaySeq = s.replaySeq := rfl
@[simp] theorem State.setCore_boot (s : State) (c : Coord) (x : Core) : (s.setCore c x).boot = s.boot := rfl
@[simp] theorem State.setCore_running (s : State) (c : Coord) (x : Core) : (s.setCore c x).running = s.running := rfl
@[simp] theorem State.setCore_understudy (s : State) (c : Coord) (x : Core) : (s.setCore c x).understudy = s.understudy := rfl
@[simp] theorem State.setCore_fwStatus (s : State) (c : Coord) (x : Core) : (s.setCore c x).fwStatus = s.fwStatus := rfl
@[simp] theorem State.setCore_fwDone (s : State) (c : Coord) (x : Core) : (s.setCore c x).fwDone = s.fwDone := rfl
@[simp] theorem State.setCore_fwBusy (s : State) (c : Coord) (x : Core) : (s.setCore c x).fwBusy = s.fwBusy := rfl
@[simp] theorem State.setCore_fwLoading (s : State) (c : Coord) (x : Core) : (s.setCore c x).fwLoading = s.fwLoading := rfl
@[simp] theorem State.setCore_restarting (s : State) (c : Coord) (x : Core) : (s.setCore c x).restarting = s.restarting := rfl
@[simp] theorem State.setCore_cycling (s : State) (c : Coord) (x : Core) : (s.setCore c x).cycling = s.cycling := rfl
@[simp] theorem State.setCore_ladder (s : State) (c : Coord) (x : Core) : (s.setCore c x).ladder = s.ladder := rfl
@[simp] theorem State.setCore_rung (s : State) (c : Coord) (x : Core) : (s.setCore c x).rung = s.rung := rfl
@[simp] theorem State.setCore_ladderCause (s : State) (c : Coord) (x : Core) : (s.setCore c x).ladderCause = s.ladderCause := rfl
@[simp] theorem State.setCore_ladderPnum (s : State) (c : Coord) (x : Core) : (s.setCore c x).ladderPnum = s.ladderPnum := rfl
@[simp] theorem State.setCore_wdLast (s : State) (c : Coord) (x : Core) : (s.setCore c x).wdLast = s.wdLast := rfl
@[simp] theorem State.setCore_pkg (s : State) (c : Coord) (x : Core) : (s.setCore c x).pkg = s.pkg := rfl
@[simp] theorem State.setCore_wdT1 (s : State) (c : Coord) (x : Core) : (s.setCore c x).wdT1 = s.wdT1 := rfl
@[simp] theorem State.setCore_fwAdr (s : State) (c : Coord) (x : Core) : (s.setCore c x).fwAdr = s.fwAdr := rfl
@[simp] theorem State.setCore_flash (s : State) (c : Coord) (x : Core) : (s.setCore c x).flash = s.flash := rfl
@[simp] theorem State.setCore_recFloor (s : State) (c : Coord) (x : Core) : (s.setCore c x).recFloor = s.recFloor := rfl
@[simp] theorem State.setCore_svnFloor (s : State) (c : Coord) (x : Core) : (s.setCore c x).svnFloor = s.svnFloor := rfl
@[simp] theorem State.setCore_clock (s : State) (c : Coord) (x : Core) : (s.setCore c x).clock = s.clock := rfl
@[simp] theorem State.setCore_linkSteps (s : State) (c : Coord) (x : Core) : (s.setCore c x).linkSteps = s.linkSteps := rfl
@[simp] theorem State.setCore_linkCaps (s : State) (c : Coord) (x : Core) : (s.setCore c x).linkCaps = s.linkCaps := rfl
@[simp] theorem State.setCore_retraining (s : State) (c : Coord) (x : Core) : (s.setCore c x).retraining = s.retraining := rfl
@[simp] theorem State.setCore_lastStep (s : State) (c : Coord) (x : Core) : (s.setCore c x).lastStep = s.lastStep := rfl
@[simp] theorem State.setCore_irqs (s : State) (c : Coord) (x : Core) : (s.setCore c x).irqs = s.irqs := rfl
@[simp] theorem State.setCore_outbox (s : State) (c : Coord) (x : Core) : (s.setCore c x).outbox = s.outbox := rfl
@[simp] theorem State.setCore_peers (s : State) (c : Coord) (x : Core) : (s.setCore c x).peers = s.peers := rfl
@[simp] theorem State.setCore_heldDoorbells (s : State) (c : Coord) (x : Core) : (s.setCore c x).heldDoorbells = s.heldDoorbells := rfl
@[simp] theorem State.setCore_cellWrites (s : State) (c : Coord) (x : Core) : (s.setCore c x).cellWrites = s.cellWrites := rfl
@[simp] theorem State.setCore_cpModes (s : State) (c : Coord) (x : Core) : (s.setCore c x).cpModes = s.cpModes := rfl
@[simp] theorem State.setCore_cpPcs (s : State) (c : Coord) (x : Core) : (s.setCore c x).cpPcs = s.cpPcs := rfl
@[simp] theorem State.setCore_reply (s : State) (c : Coord) (x : Core) : (s.setCore c x).reply = s.reply := rfl
@[simp] theorem State.setCore_cur (s : State) (c : Coord) (x : Core) : (s.setCore c x).cur = s.cur := rfl
@[simp] theorem State.setCore_detours (s : State) (c : Coord) (x : Core) : (s.setCore c x).detours = s.detours := rfl
@[simp] theorem State.setCore_agenda (s : State) (c : Coord) (x : Core) : (s.setCore c x).agenda = s.agenda := rfl
@[simp] theorem State.setCore_fresh (s : State) (c : Coord) (x : Core) : (s.setCore c x).fresh = s.fresh := rfl

/-! ## setCluster -/

@[simp] theorem State.setCluster_clusters (s : State) (n : Nat) (x : Cluster) : (s.setCluster n x).clusters = s.clusters.put n x := rfl
@[simp] theorem State.setCluster_cycle (s : State) (n : Nat) (x : Cluster) : (s.setCluster n x).cycle = s.cycle := rfl
@[simp] theorem State.setCluster_ctxs (s : State) (n : Nat) (x : Cluster) : (s.setCluster n x).ctxs = s.ctxs := rfl
@[simp] theorem State.setCluster_cores (s : State) (n : Nat) (x : Cluster) : (s.setCluster n x).cores = s.cores := rfl
@[simp] theorem State.setCluster_mem (s : State) (n : Nat) (x : Cluster) : (s.setCluster n x).mem = s.mem := rfl
@[simp] theorem State.setCluster_bad (s : State) (n : Nat) (x : Cluster) : (s.setCluster n x).bad = s.bad := rfl
@[simp] theorem State.setCluster_lines (s : State) (n : Nat) (x : Cluster) : (s.setCluster n x).lines = s.lines := rfl
@[simp] theorem State.setCluster_walks (s : State) (n : Nat) (x : Cluster) : (s.setCluster n x).walks = s.walks := rfl
@[simp] theorem State.setCluster_walkFaults (s : State) (n : Nat) (x : Cluster) : (s.setCluster n x).walkFaults = s.walkFaults := rfl
@[simp] theorem State.setCluster_tileTlbs (s : State) (n : Nat) (x : Cluster) : (s.setCluster n x).tileTlbs = s.tileTlbs := rfl
@[simp] theorem State.setCluster_held (s : State) (n : Nat) (x : Cluster) : (s.setCluster n x).held = s.held := rfl
@[simp] theorem State.setCluster_reports (s : State) (n : Nat) (x : Cluster) : (s.setCluster n x).reports = s.reports := rfl
@[simp] theorem State.setCluster_sdregs (s : State) (n : Nat) (x : Cluster) : (s.setCluster n x).sdregs = s.sdregs := rfl
@[simp] theorem State.setCluster_shootdowns (s : State) (n : Nat) (x : Cluster) : (s.setCluster n x).shootdowns = s.shootdowns := rfl
@[simp] theorem State.setCluster_queues (s : State) (n : Nat) (x : Cluster) : (s.setCluster n x).queues = s.queues := rfl
@[simp] theorem State.setCluster_ops (s : State) (n : Nat) (x : Cluster) : (s.setCluster n x).ops = s.ops := rfl
@[simp] theorem State.setCluster_pkts (s : State) (n : Nat) (x : Cluster) : (s.setCluster n x).pkts = s.pkts := rfl
@[simp] theorem State.setCluster_oprs (s : State) (n : Nat) (x : Cluster) : (s.setCluster n x).oprs = s.oprs := rfl
@[simp] theorem State.setCluster_launches (s : State) (n : Nat) (x : Cluster) : (s.setCluster n x).launches = s.launches := rfl
@[simp] theorem State.setCluster_images (s : State) (n : Nat) (x : Cluster) : (s.setCluster n x).images = s.images := rfl
@[simp] theorem State.setCluster_parts (s : State) (n : Nat) (x : Cluster) : (s.setCluster n x).parts = s.parts := rfl
@[simp] theorem State.setCluster_vfs (s : State) (n : Nat) (x : Cluster) : (s.setCluster n x).vfs = s.vfs := rfl
@[simp] theorem State.setCluster_hwslots (s : State) (n : Nat) (x : Cluster) : (s.setCluster n x).hwslots = s.hwslots := rfl
@[simp] theorem State.setCluster_lastServed (s : State) (n : Nat) (x : Cluster) : (s.setCluster n x).lastServed = s.lastServed := rfl
@[simp] theorem State.setCluster_quantum (s : State) (n : Nat) (x : Cluster) : (s.setCluster n x).quantum = s.quantum := rfl
@[simp] theorem State.setCluster_waitingQs (s : State) (n : Nat) (x : Cluster) : (s.setCluster n x).waitingQs = s.waitingQs := rfl
@[simp] theorem State.setCluster_reserved (s : State) (n : Nat) (x : Cluster) : (s.setCluster n x).reserved = s.reserved := rfl
@[simp] theorem State.setCluster_csrs (s : State) (n : Nat) (x : Cluster) : (s.setCluster n x).csrs = s.csrs := rfl
@[simp] theorem State.setCluster_mmio (s : State) (n : Nat) (x : Cluster) : (s.setCluster n x).mmio = s.mmio := rfl
@[simp] theorem State.setCluster_unclaimed (s : State) (n : Nat) (x : Cluster) : (s.setCluster n x).unclaimed = s.unclaimed := rfl
@[simp] theorem State.setCluster_discardedReports (s : State) (n : Nat) (x : Cluster) : (s.setCluster n x).discardedReports = s.discardedReports := rfl
@[simp] theorem State.setCluster_traceDrops (s : State) (n : Nat) (x : Cluster) : (s.setCluster n x).traceDrops = s.traceDrops := rfl
@[simp] theorem State.setCluster_counts (s : State) (n : Nat) (x : Cluster) : (s.setCluster n x).counts = s.counts := rfl
@[simp] theorem State.setCluster_countAt (s : State) (n : Nat) (x : Cluster) : (s.setCluster n x).countAt = s.countAt := rfl
@[simp] theorem State.setCluster_totals (s : State) (n : Nat) (x : Cluster) : (s.setCluster n x).totals = s.totals := rfl
@[simp] theorem State.setCluster_swept (s : State) (n : Nat) (x : Cluster) : (s.setCluster n x).swept = s.swept := rfl
@[simp] theorem State.setCluster_sweepAt (s : State) (n : Nat) (x : Cluster) : (s.setCluster n x).sweepAt = s.sweepAt := rfl
@[simp] theorem State.setCluster_replayPos (s : State) (n : Nat) (x : Cluster) : (s.setCluster n x).replayPos = s.replayPos := rfl
@[simp] theorem State.setCluster_replayWritten (s : State) (n : Nat) (x : Cluster) : (s.setCluster n x).replayWritten = s.replayWritten := rfl
@[simp] theorem State.setCluster_replaySeq (s : State) (n : Nat) (x : Cluster) : (s.setCluster n x).replaySeq = s.replaySeq := rfl
@[simp] theorem State.setCluster_boot (s : State) (n : Nat) (x : Cluster) : (s.setCluster n x).boot = s.boot := rfl
@[simp] theorem State.setCluster_running (s : State) (n : Nat) (x : Cluster) : (s.setCluster n x).running = s.running := rfl
@[simp] theorem State.setCluster_understudy (s : State) (n : Nat) (x : Cluster) : (s.setCluster n x).understudy = s.understudy := rfl
@[simp] theorem State.setCluster_fwStatus (s : State) (n : Nat) (x : Cluster) : (s.setCluster n x).fwStatus = s.fwStatus := rfl
@[simp] theorem State.setCluster_fwDone (s : State) (n : Nat) (x : Cluster) : (s.setCluster n x).fwDone = s.fwDone := rfl
@[simp] theorem State.setCluster_fwBusy (s : State) (n : Nat) (x : Cluster) : (s.setCluster n x).fwBusy = s.fwBusy := rfl
@[simp] theorem State.setCluster_fwLoading (s : State) (n : Nat) (x : Cluster) : (s.setCluster n x).fwLoading = s.fwLoading := rfl
@[simp] theorem State.setCluster_restarting (s : State) (n : Nat) (x : Cluster) : (s.setCluster n x).restarting = s.restarting := rfl
@[simp] theorem State.setCluster_cycling (s : State) (n : Nat) (x : Cluster) : (s.setCluster n x).cycling = s.cycling := rfl
@[simp] theorem State.setCluster_ladder (s : State) (n : Nat) (x : Cluster) : (s.setCluster n x).ladder = s.ladder := rfl
@[simp] theorem State.setCluster_rung (s : State) (n : Nat) (x : Cluster) : (s.setCluster n x).rung = s.rung := rfl
@[simp] theorem State.setCluster_ladderCause (s : State) (n : Nat) (x : Cluster) : (s.setCluster n x).ladderCause = s.ladderCause := rfl
@[simp] theorem State.setCluster_ladderPnum (s : State) (n : Nat) (x : Cluster) : (s.setCluster n x).ladderPnum = s.ladderPnum := rfl
@[simp] theorem State.setCluster_wdLast (s : State) (n : Nat) (x : Cluster) : (s.setCluster n x).wdLast = s.wdLast := rfl
@[simp] theorem State.setCluster_pkg (s : State) (n : Nat) (x : Cluster) : (s.setCluster n x).pkg = s.pkg := rfl
@[simp] theorem State.setCluster_wdT1 (s : State) (n : Nat) (x : Cluster) : (s.setCluster n x).wdT1 = s.wdT1 := rfl
@[simp] theorem State.setCluster_fwAdr (s : State) (n : Nat) (x : Cluster) : (s.setCluster n x).fwAdr = s.fwAdr := rfl
@[simp] theorem State.setCluster_flash (s : State) (n : Nat) (x : Cluster) : (s.setCluster n x).flash = s.flash := rfl
@[simp] theorem State.setCluster_recFloor (s : State) (n : Nat) (x : Cluster) : (s.setCluster n x).recFloor = s.recFloor := rfl
@[simp] theorem State.setCluster_svnFloor (s : State) (n : Nat) (x : Cluster) : (s.setCluster n x).svnFloor = s.svnFloor := rfl
@[simp] theorem State.setCluster_clock (s : State) (n : Nat) (x : Cluster) : (s.setCluster n x).clock = s.clock := rfl
@[simp] theorem State.setCluster_linkSteps (s : State) (n : Nat) (x : Cluster) : (s.setCluster n x).linkSteps = s.linkSteps := rfl
@[simp] theorem State.setCluster_linkCaps (s : State) (n : Nat) (x : Cluster) : (s.setCluster n x).linkCaps = s.linkCaps := rfl
@[simp] theorem State.setCluster_retraining (s : State) (n : Nat) (x : Cluster) : (s.setCluster n x).retraining = s.retraining := rfl
@[simp] theorem State.setCluster_lastStep (s : State) (n : Nat) (x : Cluster) : (s.setCluster n x).lastStep = s.lastStep := rfl
@[simp] theorem State.setCluster_irqs (s : State) (n : Nat) (x : Cluster) : (s.setCluster n x).irqs = s.irqs := rfl
@[simp] theorem State.setCluster_outbox (s : State) (n : Nat) (x : Cluster) : (s.setCluster n x).outbox = s.outbox := rfl
@[simp] theorem State.setCluster_peers (s : State) (n : Nat) (x : Cluster) : (s.setCluster n x).peers = s.peers := rfl
@[simp] theorem State.setCluster_heldDoorbells (s : State) (n : Nat) (x : Cluster) : (s.setCluster n x).heldDoorbells = s.heldDoorbells := rfl
@[simp] theorem State.setCluster_cellWrites (s : State) (n : Nat) (x : Cluster) : (s.setCluster n x).cellWrites = s.cellWrites := rfl
@[simp] theorem State.setCluster_cpModes (s : State) (n : Nat) (x : Cluster) : (s.setCluster n x).cpModes = s.cpModes := rfl
@[simp] theorem State.setCluster_cpPcs (s : State) (n : Nat) (x : Cluster) : (s.setCluster n x).cpPcs = s.cpPcs := rfl
@[simp] theorem State.setCluster_reply (s : State) (n : Nat) (x : Cluster) : (s.setCluster n x).reply = s.reply := rfl
@[simp] theorem State.setCluster_cur (s : State) (n : Nat) (x : Cluster) : (s.setCluster n x).cur = s.cur := rfl
@[simp] theorem State.setCluster_detours (s : State) (n : Nat) (x : Cluster) : (s.setCluster n x).detours = s.detours := rfl
@[simp] theorem State.setCluster_agenda (s : State) (n : Nat) (x : Cluster) : (s.setCluster n x).agenda = s.agenda := rfl
@[simp] theorem State.setCluster_fresh (s : State) (n : Nat) (x : Cluster) : (s.setCluster n x).fresh = s.fresh := rfl

/-! ## setPart -/

@[simp] theorem State.setPart_parts (s : State) (p : Nat) (x : Part) : (s.setPart p x).parts = s.parts.put p x := rfl
@[simp] theorem State.setPart_cycle (s : State) (p : Nat) (x : Part) : (s.setPart p x).cycle = s.cycle := rfl
@[simp] theorem State.setPart_ctxs (s : State) (p : Nat) (x : Part) : (s.setPart p x).ctxs = s.ctxs := rfl
@[simp] theorem State.setPart_cores (s : State) (p : Nat) (x : Part) : (s.setPart p x).cores = s.cores := rfl
@[simp] theorem State.setPart_clusters (s : State) (p : Nat) (x : Part) : (s.setPart p x).clusters = s.clusters := rfl
@[simp] theorem State.setPart_mem (s : State) (p : Nat) (x : Part) : (s.setPart p x).mem = s.mem := rfl
@[simp] theorem State.setPart_bad (s : State) (p : Nat) (x : Part) : (s.setPart p x).bad = s.bad := rfl
@[simp] theorem State.setPart_lines (s : State) (p : Nat) (x : Part) : (s.setPart p x).lines = s.lines := rfl
@[simp] theorem State.setPart_walks (s : State) (p : Nat) (x : Part) : (s.setPart p x).walks = s.walks := rfl
@[simp] theorem State.setPart_walkFaults (s : State) (p : Nat) (x : Part) : (s.setPart p x).walkFaults = s.walkFaults := rfl
@[simp] theorem State.setPart_tileTlbs (s : State) (p : Nat) (x : Part) : (s.setPart p x).tileTlbs = s.tileTlbs := rfl
@[simp] theorem State.setPart_held (s : State) (p : Nat) (x : Part) : (s.setPart p x).held = s.held := rfl
@[simp] theorem State.setPart_reports (s : State) (p : Nat) (x : Part) : (s.setPart p x).reports = s.reports := rfl
@[simp] theorem State.setPart_sdregs (s : State) (p : Nat) (x : Part) : (s.setPart p x).sdregs = s.sdregs := rfl
@[simp] theorem State.setPart_shootdowns (s : State) (p : Nat) (x : Part) : (s.setPart p x).shootdowns = s.shootdowns := rfl
@[simp] theorem State.setPart_queues (s : State) (p : Nat) (x : Part) : (s.setPart p x).queues = s.queues := rfl
@[simp] theorem State.setPart_ops (s : State) (p : Nat) (x : Part) : (s.setPart p x).ops = s.ops := rfl
@[simp] theorem State.setPart_pkts (s : State) (p : Nat) (x : Part) : (s.setPart p x).pkts = s.pkts := rfl
@[simp] theorem State.setPart_oprs (s : State) (p : Nat) (x : Part) : (s.setPart p x).oprs = s.oprs := rfl
@[simp] theorem State.setPart_launches (s : State) (p : Nat) (x : Part) : (s.setPart p x).launches = s.launches := rfl
@[simp] theorem State.setPart_images (s : State) (p : Nat) (x : Part) : (s.setPart p x).images = s.images := rfl
@[simp] theorem State.setPart_vfs (s : State) (p : Nat) (x : Part) : (s.setPart p x).vfs = s.vfs := rfl
@[simp] theorem State.setPart_hwslots (s : State) (p : Nat) (x : Part) : (s.setPart p x).hwslots = s.hwslots := rfl
@[simp] theorem State.setPart_lastServed (s : State) (p : Nat) (x : Part) : (s.setPart p x).lastServed = s.lastServed := rfl
@[simp] theorem State.setPart_quantum (s : State) (p : Nat) (x : Part) : (s.setPart p x).quantum = s.quantum := rfl
@[simp] theorem State.setPart_waitingQs (s : State) (p : Nat) (x : Part) : (s.setPart p x).waitingQs = s.waitingQs := rfl
@[simp] theorem State.setPart_reserved (s : State) (p : Nat) (x : Part) : (s.setPart p x).reserved = s.reserved := rfl
@[simp] theorem State.setPart_csrs (s : State) (p : Nat) (x : Part) : (s.setPart p x).csrs = s.csrs := rfl
@[simp] theorem State.setPart_mmio (s : State) (p : Nat) (x : Part) : (s.setPart p x).mmio = s.mmio := rfl
@[simp] theorem State.setPart_unclaimed (s : State) (p : Nat) (x : Part) : (s.setPart p x).unclaimed = s.unclaimed := rfl
@[simp] theorem State.setPart_discardedReports (s : State) (p : Nat) (x : Part) : (s.setPart p x).discardedReports = s.discardedReports := rfl
@[simp] theorem State.setPart_traceDrops (s : State) (p : Nat) (x : Part) : (s.setPart p x).traceDrops = s.traceDrops := rfl
@[simp] theorem State.setPart_counts (s : State) (p : Nat) (x : Part) : (s.setPart p x).counts = s.counts := rfl
@[simp] theorem State.setPart_countAt (s : State) (p : Nat) (x : Part) : (s.setPart p x).countAt = s.countAt := rfl
@[simp] theorem State.setPart_totals (s : State) (p : Nat) (x : Part) : (s.setPart p x).totals = s.totals := rfl
@[simp] theorem State.setPart_swept (s : State) (p : Nat) (x : Part) : (s.setPart p x).swept = s.swept := rfl
@[simp] theorem State.setPart_sweepAt (s : State) (p : Nat) (x : Part) : (s.setPart p x).sweepAt = s.sweepAt := rfl
@[simp] theorem State.setPart_replayPos (s : State) (p : Nat) (x : Part) : (s.setPart p x).replayPos = s.replayPos := rfl
@[simp] theorem State.setPart_replayWritten (s : State) (p : Nat) (x : Part) : (s.setPart p x).replayWritten = s.replayWritten := rfl
@[simp] theorem State.setPart_replaySeq (s : State) (p : Nat) (x : Part) : (s.setPart p x).replaySeq = s.replaySeq := rfl
@[simp] theorem State.setPart_boot (s : State) (p : Nat) (x : Part) : (s.setPart p x).boot = s.boot := rfl
@[simp] theorem State.setPart_running (s : State) (p : Nat) (x : Part) : (s.setPart p x).running = s.running := rfl
@[simp] theorem State.setPart_understudy (s : State) (p : Nat) (x : Part) : (s.setPart p x).understudy = s.understudy := rfl
@[simp] theorem State.setPart_fwStatus (s : State) (p : Nat) (x : Part) : (s.setPart p x).fwStatus = s.fwStatus := rfl
@[simp] theorem State.setPart_fwDone (s : State) (p : Nat) (x : Part) : (s.setPart p x).fwDone = s.fwDone := rfl
@[simp] theorem State.setPart_fwBusy (s : State) (p : Nat) (x : Part) : (s.setPart p x).fwBusy = s.fwBusy := rfl
@[simp] theorem State.setPart_fwLoading (s : State) (p : Nat) (x : Part) : (s.setPart p x).fwLoading = s.fwLoading := rfl
@[simp] theorem State.setPart_restarting (s : State) (p : Nat) (x : Part) : (s.setPart p x).restarting = s.restarting := rfl
@[simp] theorem State.setPart_cycling (s : State) (p : Nat) (x : Part) : (s.setPart p x).cycling = s.cycling := rfl
@[simp] theorem State.setPart_ladder (s : State) (p : Nat) (x : Part) : (s.setPart p x).ladder = s.ladder := rfl
@[simp] theorem State.setPart_rung (s : State) (p : Nat) (x : Part) : (s.setPart p x).rung = s.rung := rfl
@[simp] theorem State.setPart_ladderCause (s : State) (p : Nat) (x : Part) : (s.setPart p x).ladderCause = s.ladderCause := rfl
@[simp] theorem State.setPart_ladderPnum (s : State) (p : Nat) (x : Part) : (s.setPart p x).ladderPnum = s.ladderPnum := rfl
@[simp] theorem State.setPart_wdLast (s : State) (p : Nat) (x : Part) : (s.setPart p x).wdLast = s.wdLast := rfl
@[simp] theorem State.setPart_pkg (s : State) (p : Nat) (x : Part) : (s.setPart p x).pkg = s.pkg := rfl
@[simp] theorem State.setPart_wdT1 (s : State) (p : Nat) (x : Part) : (s.setPart p x).wdT1 = s.wdT1 := rfl
@[simp] theorem State.setPart_fwAdr (s : State) (p : Nat) (x : Part) : (s.setPart p x).fwAdr = s.fwAdr := rfl
@[simp] theorem State.setPart_flash (s : State) (p : Nat) (x : Part) : (s.setPart p x).flash = s.flash := rfl
@[simp] theorem State.setPart_recFloor (s : State) (p : Nat) (x : Part) : (s.setPart p x).recFloor = s.recFloor := rfl
@[simp] theorem State.setPart_svnFloor (s : State) (p : Nat) (x : Part) : (s.setPart p x).svnFloor = s.svnFloor := rfl
@[simp] theorem State.setPart_clock (s : State) (p : Nat) (x : Part) : (s.setPart p x).clock = s.clock := rfl
@[simp] theorem State.setPart_linkSteps (s : State) (p : Nat) (x : Part) : (s.setPart p x).linkSteps = s.linkSteps := rfl
@[simp] theorem State.setPart_linkCaps (s : State) (p : Nat) (x : Part) : (s.setPart p x).linkCaps = s.linkCaps := rfl
@[simp] theorem State.setPart_retraining (s : State) (p : Nat) (x : Part) : (s.setPart p x).retraining = s.retraining := rfl
@[simp] theorem State.setPart_lastStep (s : State) (p : Nat) (x : Part) : (s.setPart p x).lastStep = s.lastStep := rfl
@[simp] theorem State.setPart_irqs (s : State) (p : Nat) (x : Part) : (s.setPart p x).irqs = s.irqs := rfl
@[simp] theorem State.setPart_outbox (s : State) (p : Nat) (x : Part) : (s.setPart p x).outbox = s.outbox := rfl
@[simp] theorem State.setPart_peers (s : State) (p : Nat) (x : Part) : (s.setPart p x).peers = s.peers := rfl
@[simp] theorem State.setPart_heldDoorbells (s : State) (p : Nat) (x : Part) : (s.setPart p x).heldDoorbells = s.heldDoorbells := rfl
@[simp] theorem State.setPart_cellWrites (s : State) (p : Nat) (x : Part) : (s.setPart p x).cellWrites = s.cellWrites := rfl
@[simp] theorem State.setPart_cpModes (s : State) (p : Nat) (x : Part) : (s.setPart p x).cpModes = s.cpModes := rfl
@[simp] theorem State.setPart_cpPcs (s : State) (p : Nat) (x : Part) : (s.setPart p x).cpPcs = s.cpPcs := rfl
@[simp] theorem State.setPart_reply (s : State) (p : Nat) (x : Part) : (s.setPart p x).reply = s.reply := rfl
@[simp] theorem State.setPart_cur (s : State) (p : Nat) (x : Part) : (s.setPart p x).cur = s.cur := rfl
@[simp] theorem State.setPart_detours (s : State) (p : Nat) (x : Part) : (s.setPart p x).detours = s.detours := rfl
@[simp] theorem State.setPart_agenda (s : State) (p : Nat) (x : Part) : (s.setPart p x).agenda = s.agenda := rfl
@[simp] theorem State.setPart_fresh (s : State) (p : Nat) (x : Part) : (s.setPart p x).fresh = s.fresh := rfl

/-! ## setVf -/

@[simp] theorem State.setVf_vfs (s : State) (v : Nat) (x : Vf) : (s.setVf v x).vfs = s.vfs.put v x := rfl
@[simp] theorem State.setVf_cycle (s : State) (v : Nat) (x : Vf) : (s.setVf v x).cycle = s.cycle := rfl
@[simp] theorem State.setVf_ctxs (s : State) (v : Nat) (x : Vf) : (s.setVf v x).ctxs = s.ctxs := rfl
@[simp] theorem State.setVf_cores (s : State) (v : Nat) (x : Vf) : (s.setVf v x).cores = s.cores := rfl
@[simp] theorem State.setVf_clusters (s : State) (v : Nat) (x : Vf) : (s.setVf v x).clusters = s.clusters := rfl
@[simp] theorem State.setVf_mem (s : State) (v : Nat) (x : Vf) : (s.setVf v x).mem = s.mem := rfl
@[simp] theorem State.setVf_bad (s : State) (v : Nat) (x : Vf) : (s.setVf v x).bad = s.bad := rfl
@[simp] theorem State.setVf_lines (s : State) (v : Nat) (x : Vf) : (s.setVf v x).lines = s.lines := rfl
@[simp] theorem State.setVf_walks (s : State) (v : Nat) (x : Vf) : (s.setVf v x).walks = s.walks := rfl
@[simp] theorem State.setVf_walkFaults (s : State) (v : Nat) (x : Vf) : (s.setVf v x).walkFaults = s.walkFaults := rfl
@[simp] theorem State.setVf_tileTlbs (s : State) (v : Nat) (x : Vf) : (s.setVf v x).tileTlbs = s.tileTlbs := rfl
@[simp] theorem State.setVf_held (s : State) (v : Nat) (x : Vf) : (s.setVf v x).held = s.held := rfl
@[simp] theorem State.setVf_reports (s : State) (v : Nat) (x : Vf) : (s.setVf v x).reports = s.reports := rfl
@[simp] theorem State.setVf_sdregs (s : State) (v : Nat) (x : Vf) : (s.setVf v x).sdregs = s.sdregs := rfl
@[simp] theorem State.setVf_shootdowns (s : State) (v : Nat) (x : Vf) : (s.setVf v x).shootdowns = s.shootdowns := rfl
@[simp] theorem State.setVf_queues (s : State) (v : Nat) (x : Vf) : (s.setVf v x).queues = s.queues := rfl
@[simp] theorem State.setVf_ops (s : State) (v : Nat) (x : Vf) : (s.setVf v x).ops = s.ops := rfl
@[simp] theorem State.setVf_pkts (s : State) (v : Nat) (x : Vf) : (s.setVf v x).pkts = s.pkts := rfl
@[simp] theorem State.setVf_oprs (s : State) (v : Nat) (x : Vf) : (s.setVf v x).oprs = s.oprs := rfl
@[simp] theorem State.setVf_launches (s : State) (v : Nat) (x : Vf) : (s.setVf v x).launches = s.launches := rfl
@[simp] theorem State.setVf_images (s : State) (v : Nat) (x : Vf) : (s.setVf v x).images = s.images := rfl
@[simp] theorem State.setVf_parts (s : State) (v : Nat) (x : Vf) : (s.setVf v x).parts = s.parts := rfl
@[simp] theorem State.setVf_hwslots (s : State) (v : Nat) (x : Vf) : (s.setVf v x).hwslots = s.hwslots := rfl
@[simp] theorem State.setVf_lastServed (s : State) (v : Nat) (x : Vf) : (s.setVf v x).lastServed = s.lastServed := rfl
@[simp] theorem State.setVf_quantum (s : State) (v : Nat) (x : Vf) : (s.setVf v x).quantum = s.quantum := rfl
@[simp] theorem State.setVf_waitingQs (s : State) (v : Nat) (x : Vf) : (s.setVf v x).waitingQs = s.waitingQs := rfl
@[simp] theorem State.setVf_reserved (s : State) (v : Nat) (x : Vf) : (s.setVf v x).reserved = s.reserved := rfl
@[simp] theorem State.setVf_csrs (s : State) (v : Nat) (x : Vf) : (s.setVf v x).csrs = s.csrs := rfl
@[simp] theorem State.setVf_mmio (s : State) (v : Nat) (x : Vf) : (s.setVf v x).mmio = s.mmio := rfl
@[simp] theorem State.setVf_unclaimed (s : State) (v : Nat) (x : Vf) : (s.setVf v x).unclaimed = s.unclaimed := rfl
@[simp] theorem State.setVf_discardedReports (s : State) (v : Nat) (x : Vf) : (s.setVf v x).discardedReports = s.discardedReports := rfl
@[simp] theorem State.setVf_traceDrops (s : State) (v : Nat) (x : Vf) : (s.setVf v x).traceDrops = s.traceDrops := rfl
@[simp] theorem State.setVf_counts (s : State) (v : Nat) (x : Vf) : (s.setVf v x).counts = s.counts := rfl
@[simp] theorem State.setVf_countAt (s : State) (v : Nat) (x : Vf) : (s.setVf v x).countAt = s.countAt := rfl
@[simp] theorem State.setVf_totals (s : State) (v : Nat) (x : Vf) : (s.setVf v x).totals = s.totals := rfl
@[simp] theorem State.setVf_swept (s : State) (v : Nat) (x : Vf) : (s.setVf v x).swept = s.swept := rfl
@[simp] theorem State.setVf_sweepAt (s : State) (v : Nat) (x : Vf) : (s.setVf v x).sweepAt = s.sweepAt := rfl
@[simp] theorem State.setVf_replayPos (s : State) (v : Nat) (x : Vf) : (s.setVf v x).replayPos = s.replayPos := rfl
@[simp] theorem State.setVf_replayWritten (s : State) (v : Nat) (x : Vf) : (s.setVf v x).replayWritten = s.replayWritten := rfl
@[simp] theorem State.setVf_replaySeq (s : State) (v : Nat) (x : Vf) : (s.setVf v x).replaySeq = s.replaySeq := rfl
@[simp] theorem State.setVf_boot (s : State) (v : Nat) (x : Vf) : (s.setVf v x).boot = s.boot := rfl
@[simp] theorem State.setVf_running (s : State) (v : Nat) (x : Vf) : (s.setVf v x).running = s.running := rfl
@[simp] theorem State.setVf_understudy (s : State) (v : Nat) (x : Vf) : (s.setVf v x).understudy = s.understudy := rfl
@[simp] theorem State.setVf_fwStatus (s : State) (v : Nat) (x : Vf) : (s.setVf v x).fwStatus = s.fwStatus := rfl
@[simp] theorem State.setVf_fwDone (s : State) (v : Nat) (x : Vf) : (s.setVf v x).fwDone = s.fwDone := rfl
@[simp] theorem State.setVf_fwBusy (s : State) (v : Nat) (x : Vf) : (s.setVf v x).fwBusy = s.fwBusy := rfl
@[simp] theorem State.setVf_fwLoading (s : State) (v : Nat) (x : Vf) : (s.setVf v x).fwLoading = s.fwLoading := rfl
@[simp] theorem State.setVf_restarting (s : State) (v : Nat) (x : Vf) : (s.setVf v x).restarting = s.restarting := rfl
@[simp] theorem State.setVf_cycling (s : State) (v : Nat) (x : Vf) : (s.setVf v x).cycling = s.cycling := rfl
@[simp] theorem State.setVf_ladder (s : State) (v : Nat) (x : Vf) : (s.setVf v x).ladder = s.ladder := rfl
@[simp] theorem State.setVf_rung (s : State) (v : Nat) (x : Vf) : (s.setVf v x).rung = s.rung := rfl
@[simp] theorem State.setVf_ladderCause (s : State) (v : Nat) (x : Vf) : (s.setVf v x).ladderCause = s.ladderCause := rfl
@[simp] theorem State.setVf_ladderPnum (s : State) (v : Nat) (x : Vf) : (s.setVf v x).ladderPnum = s.ladderPnum := rfl
@[simp] theorem State.setVf_wdLast (s : State) (v : Nat) (x : Vf) : (s.setVf v x).wdLast = s.wdLast := rfl
@[simp] theorem State.setVf_pkg (s : State) (v : Nat) (x : Vf) : (s.setVf v x).pkg = s.pkg := rfl
@[simp] theorem State.setVf_wdT1 (s : State) (v : Nat) (x : Vf) : (s.setVf v x).wdT1 = s.wdT1 := rfl
@[simp] theorem State.setVf_fwAdr (s : State) (v : Nat) (x : Vf) : (s.setVf v x).fwAdr = s.fwAdr := rfl
@[simp] theorem State.setVf_flash (s : State) (v : Nat) (x : Vf) : (s.setVf v x).flash = s.flash := rfl
@[simp] theorem State.setVf_recFloor (s : State) (v : Nat) (x : Vf) : (s.setVf v x).recFloor = s.recFloor := rfl
@[simp] theorem State.setVf_svnFloor (s : State) (v : Nat) (x : Vf) : (s.setVf v x).svnFloor = s.svnFloor := rfl
@[simp] theorem State.setVf_clock (s : State) (v : Nat) (x : Vf) : (s.setVf v x).clock = s.clock := rfl
@[simp] theorem State.setVf_linkSteps (s : State) (v : Nat) (x : Vf) : (s.setVf v x).linkSteps = s.linkSteps := rfl
@[simp] theorem State.setVf_linkCaps (s : State) (v : Nat) (x : Vf) : (s.setVf v x).linkCaps = s.linkCaps := rfl
@[simp] theorem State.setVf_retraining (s : State) (v : Nat) (x : Vf) : (s.setVf v x).retraining = s.retraining := rfl
@[simp] theorem State.setVf_lastStep (s : State) (v : Nat) (x : Vf) : (s.setVf v x).lastStep = s.lastStep := rfl
@[simp] theorem State.setVf_irqs (s : State) (v : Nat) (x : Vf) : (s.setVf v x).irqs = s.irqs := rfl
@[simp] theorem State.setVf_outbox (s : State) (v : Nat) (x : Vf) : (s.setVf v x).outbox = s.outbox := rfl
@[simp] theorem State.setVf_peers (s : State) (v : Nat) (x : Vf) : (s.setVf v x).peers = s.peers := rfl
@[simp] theorem State.setVf_heldDoorbells (s : State) (v : Nat) (x : Vf) : (s.setVf v x).heldDoorbells = s.heldDoorbells := rfl
@[simp] theorem State.setVf_cellWrites (s : State) (v : Nat) (x : Vf) : (s.setVf v x).cellWrites = s.cellWrites := rfl
@[simp] theorem State.setVf_cpModes (s : State) (v : Nat) (x : Vf) : (s.setVf v x).cpModes = s.cpModes := rfl
@[simp] theorem State.setVf_cpPcs (s : State) (v : Nat) (x : Vf) : (s.setVf v x).cpPcs = s.cpPcs := rfl
@[simp] theorem State.setVf_reply (s : State) (v : Nat) (x : Vf) : (s.setVf v x).reply = s.reply := rfl
@[simp] theorem State.setVf_cur (s : State) (v : Nat) (x : Vf) : (s.setVf v x).cur = s.cur := rfl
@[simp] theorem State.setVf_detours (s : State) (v : Nat) (x : Vf) : (s.setVf v x).detours = s.detours := rfl
@[simp] theorem State.setVf_agenda (s : State) (v : Nat) (x : Vf) : (s.setVf v x).agenda = s.agenda := rfl
@[simp] theorem State.setVf_fresh (s : State) (v : Nat) (x : Vf) : (s.setVf v x).fresh = s.fresh := rfl

/-! ## count -/

/-- An event counter changes only the counters and the cycles in which they changed. -/
theorem State.count_eq (s : State) (unit cls ev n : Nat) :
    s.count unit cls ev n = { s with counts := (s.count unit cls ev n).counts, countAt := (s.count unit cls ev n).countAt } := by
  unfold State.count
  dsimp only
  split <;> rfl

@[simp] theorem State.count_cycle (s : State) (unit cls ev n : Nat) : (s.count unit cls ev n).cycle = s.cycle := by
  rw [State.count_eq]
@[simp] theorem State.count_ctxs (s : State) (unit cls ev n : Nat) : (s.count unit cls ev n).ctxs = s.ctxs := by
  rw [State.count_eq]
@[simp] theorem State.count_cores (s : State) (unit cls ev n : Nat) : (s.count unit cls ev n).cores = s.cores := by
  rw [State.count_eq]
@[simp] theorem State.count_clusters (s : State) (unit cls ev n : Nat) : (s.count unit cls ev n).clusters = s.clusters := by
  rw [State.count_eq]
@[simp] theorem State.count_mem (s : State) (unit cls ev n : Nat) : (s.count unit cls ev n).mem = s.mem := by
  rw [State.count_eq]
@[simp] theorem State.count_bad (s : State) (unit cls ev n : Nat) : (s.count unit cls ev n).bad = s.bad := by
  rw [State.count_eq]
@[simp] theorem State.count_lines (s : State) (unit cls ev n : Nat) : (s.count unit cls ev n).lines = s.lines := by
  rw [State.count_eq]
@[simp] theorem State.count_walks (s : State) (unit cls ev n : Nat) : (s.count unit cls ev n).walks = s.walks := by
  rw [State.count_eq]
@[simp] theorem State.count_walkFaults (s : State) (unit cls ev n : Nat) : (s.count unit cls ev n).walkFaults = s.walkFaults := by
  rw [State.count_eq]
@[simp] theorem State.count_tileTlbs (s : State) (unit cls ev n : Nat) : (s.count unit cls ev n).tileTlbs = s.tileTlbs := by
  rw [State.count_eq]
@[simp] theorem State.count_held (s : State) (unit cls ev n : Nat) : (s.count unit cls ev n).held = s.held := by
  rw [State.count_eq]
@[simp] theorem State.count_reports (s : State) (unit cls ev n : Nat) : (s.count unit cls ev n).reports = s.reports := by
  rw [State.count_eq]
@[simp] theorem State.count_sdregs (s : State) (unit cls ev n : Nat) : (s.count unit cls ev n).sdregs = s.sdregs := by
  rw [State.count_eq]
@[simp] theorem State.count_shootdowns (s : State) (unit cls ev n : Nat) : (s.count unit cls ev n).shootdowns = s.shootdowns := by
  rw [State.count_eq]
@[simp] theorem State.count_queues (s : State) (unit cls ev n : Nat) : (s.count unit cls ev n).queues = s.queues := by
  rw [State.count_eq]
@[simp] theorem State.count_ops (s : State) (unit cls ev n : Nat) : (s.count unit cls ev n).ops = s.ops := by
  rw [State.count_eq]
@[simp] theorem State.count_pkts (s : State) (unit cls ev n : Nat) : (s.count unit cls ev n).pkts = s.pkts := by
  rw [State.count_eq]
@[simp] theorem State.count_oprs (s : State) (unit cls ev n : Nat) : (s.count unit cls ev n).oprs = s.oprs := by
  rw [State.count_eq]
@[simp] theorem State.count_launches (s : State) (unit cls ev n : Nat) : (s.count unit cls ev n).launches = s.launches := by
  rw [State.count_eq]
@[simp] theorem State.count_images (s : State) (unit cls ev n : Nat) : (s.count unit cls ev n).images = s.images := by
  rw [State.count_eq]
@[simp] theorem State.count_parts (s : State) (unit cls ev n : Nat) : (s.count unit cls ev n).parts = s.parts := by
  rw [State.count_eq]
@[simp] theorem State.count_vfs (s : State) (unit cls ev n : Nat) : (s.count unit cls ev n).vfs = s.vfs := by
  rw [State.count_eq]
@[simp] theorem State.count_hwslots (s : State) (unit cls ev n : Nat) : (s.count unit cls ev n).hwslots = s.hwslots := by
  rw [State.count_eq]
@[simp] theorem State.count_lastServed (s : State) (unit cls ev n : Nat) : (s.count unit cls ev n).lastServed = s.lastServed := by
  rw [State.count_eq]
@[simp] theorem State.count_quantum (s : State) (unit cls ev n : Nat) : (s.count unit cls ev n).quantum = s.quantum := by
  rw [State.count_eq]
@[simp] theorem State.count_waitingQs (s : State) (unit cls ev n : Nat) : (s.count unit cls ev n).waitingQs = s.waitingQs := by
  rw [State.count_eq]
@[simp] theorem State.count_reserved (s : State) (unit cls ev n : Nat) : (s.count unit cls ev n).reserved = s.reserved := by
  rw [State.count_eq]
@[simp] theorem State.count_csrs (s : State) (unit cls ev n : Nat) : (s.count unit cls ev n).csrs = s.csrs := by
  rw [State.count_eq]
@[simp] theorem State.count_mmio (s : State) (unit cls ev n : Nat) : (s.count unit cls ev n).mmio = s.mmio := by
  rw [State.count_eq]
@[simp] theorem State.count_unclaimed (s : State) (unit cls ev n : Nat) : (s.count unit cls ev n).unclaimed = s.unclaimed := by
  rw [State.count_eq]
@[simp] theorem State.count_discardedReports (s : State) (unit cls ev n : Nat) : (s.count unit cls ev n).discardedReports = s.discardedReports := by
  rw [State.count_eq]
@[simp] theorem State.count_traceDrops (s : State) (unit cls ev n : Nat) : (s.count unit cls ev n).traceDrops = s.traceDrops := by
  rw [State.count_eq]
@[simp] theorem State.count_totals (s : State) (unit cls ev n : Nat) : (s.count unit cls ev n).totals = s.totals := by
  rw [State.count_eq]
@[simp] theorem State.count_swept (s : State) (unit cls ev n : Nat) : (s.count unit cls ev n).swept = s.swept := by
  rw [State.count_eq]
@[simp] theorem State.count_sweepAt (s : State) (unit cls ev n : Nat) : (s.count unit cls ev n).sweepAt = s.sweepAt := by
  rw [State.count_eq]
@[simp] theorem State.count_replayPos (s : State) (unit cls ev n : Nat) : (s.count unit cls ev n).replayPos = s.replayPos := by
  rw [State.count_eq]
@[simp] theorem State.count_replayWritten (s : State) (unit cls ev n : Nat) : (s.count unit cls ev n).replayWritten = s.replayWritten := by
  rw [State.count_eq]
@[simp] theorem State.count_replaySeq (s : State) (unit cls ev n : Nat) : (s.count unit cls ev n).replaySeq = s.replaySeq := by
  rw [State.count_eq]
@[simp] theorem State.count_boot (s : State) (unit cls ev n : Nat) : (s.count unit cls ev n).boot = s.boot := by
  rw [State.count_eq]
@[simp] theorem State.count_running (s : State) (unit cls ev n : Nat) : (s.count unit cls ev n).running = s.running := by
  rw [State.count_eq]
@[simp] theorem State.count_understudy (s : State) (unit cls ev n : Nat) : (s.count unit cls ev n).understudy = s.understudy := by
  rw [State.count_eq]
@[simp] theorem State.count_fwStatus (s : State) (unit cls ev n : Nat) : (s.count unit cls ev n).fwStatus = s.fwStatus := by
  rw [State.count_eq]
@[simp] theorem State.count_fwDone (s : State) (unit cls ev n : Nat) : (s.count unit cls ev n).fwDone = s.fwDone := by
  rw [State.count_eq]
@[simp] theorem State.count_fwBusy (s : State) (unit cls ev n : Nat) : (s.count unit cls ev n).fwBusy = s.fwBusy := by
  rw [State.count_eq]
@[simp] theorem State.count_fwLoading (s : State) (unit cls ev n : Nat) : (s.count unit cls ev n).fwLoading = s.fwLoading := by
  rw [State.count_eq]
@[simp] theorem State.count_restarting (s : State) (unit cls ev n : Nat) : (s.count unit cls ev n).restarting = s.restarting := by
  rw [State.count_eq]
@[simp] theorem State.count_cycling (s : State) (unit cls ev n : Nat) : (s.count unit cls ev n).cycling = s.cycling := by
  rw [State.count_eq]
@[simp] theorem State.count_ladder (s : State) (unit cls ev n : Nat) : (s.count unit cls ev n).ladder = s.ladder := by
  rw [State.count_eq]
@[simp] theorem State.count_rung (s : State) (unit cls ev n : Nat) : (s.count unit cls ev n).rung = s.rung := by
  rw [State.count_eq]
@[simp] theorem State.count_ladderCause (s : State) (unit cls ev n : Nat) : (s.count unit cls ev n).ladderCause = s.ladderCause := by
  rw [State.count_eq]
@[simp] theorem State.count_ladderPnum (s : State) (unit cls ev n : Nat) : (s.count unit cls ev n).ladderPnum = s.ladderPnum := by
  rw [State.count_eq]
@[simp] theorem State.count_wdLast (s : State) (unit cls ev n : Nat) : (s.count unit cls ev n).wdLast = s.wdLast := by
  rw [State.count_eq]
@[simp] theorem State.count_pkg (s : State) (unit cls ev n : Nat) : (s.count unit cls ev n).pkg = s.pkg := by
  rw [State.count_eq]
@[simp] theorem State.count_wdT1 (s : State) (unit cls ev n : Nat) : (s.count unit cls ev n).wdT1 = s.wdT1 := by
  rw [State.count_eq]
@[simp] theorem State.count_fwAdr (s : State) (unit cls ev n : Nat) : (s.count unit cls ev n).fwAdr = s.fwAdr := by
  rw [State.count_eq]
@[simp] theorem State.count_flash (s : State) (unit cls ev n : Nat) : (s.count unit cls ev n).flash = s.flash := by
  rw [State.count_eq]
@[simp] theorem State.count_recFloor (s : State) (unit cls ev n : Nat) : (s.count unit cls ev n).recFloor = s.recFloor := by
  rw [State.count_eq]
@[simp] theorem State.count_svnFloor (s : State) (unit cls ev n : Nat) : (s.count unit cls ev n).svnFloor = s.svnFloor := by
  rw [State.count_eq]
@[simp] theorem State.count_clock (s : State) (unit cls ev n : Nat) : (s.count unit cls ev n).clock = s.clock := by
  rw [State.count_eq]
@[simp] theorem State.count_linkSteps (s : State) (unit cls ev n : Nat) : (s.count unit cls ev n).linkSteps = s.linkSteps := by
  rw [State.count_eq]
@[simp] theorem State.count_linkCaps (s : State) (unit cls ev n : Nat) : (s.count unit cls ev n).linkCaps = s.linkCaps := by
  rw [State.count_eq]
@[simp] theorem State.count_retraining (s : State) (unit cls ev n : Nat) : (s.count unit cls ev n).retraining = s.retraining := by
  rw [State.count_eq]
@[simp] theorem State.count_lastStep (s : State) (unit cls ev n : Nat) : (s.count unit cls ev n).lastStep = s.lastStep := by
  rw [State.count_eq]
@[simp] theorem State.count_irqs (s : State) (unit cls ev n : Nat) : (s.count unit cls ev n).irqs = s.irqs := by
  rw [State.count_eq]
@[simp] theorem State.count_outbox (s : State) (unit cls ev n : Nat) : (s.count unit cls ev n).outbox = s.outbox := by
  rw [State.count_eq]
@[simp] theorem State.count_peers (s : State) (unit cls ev n : Nat) : (s.count unit cls ev n).peers = s.peers := by
  rw [State.count_eq]
@[simp] theorem State.count_heldDoorbells (s : State) (unit cls ev n : Nat) : (s.count unit cls ev n).heldDoorbells = s.heldDoorbells := by
  rw [State.count_eq]
@[simp] theorem State.count_cellWrites (s : State) (unit cls ev n : Nat) : (s.count unit cls ev n).cellWrites = s.cellWrites := by
  rw [State.count_eq]
@[simp] theorem State.count_cpModes (s : State) (unit cls ev n : Nat) : (s.count unit cls ev n).cpModes = s.cpModes := by
  rw [State.count_eq]
@[simp] theorem State.count_cpPcs (s : State) (unit cls ev n : Nat) : (s.count unit cls ev n).cpPcs = s.cpPcs := by
  rw [State.count_eq]
@[simp] theorem State.count_reply (s : State) (unit cls ev n : Nat) : (s.count unit cls ev n).reply = s.reply := by
  rw [State.count_eq]
@[simp] theorem State.count_cur (s : State) (unit cls ev n : Nat) : (s.count unit cls ev n).cur = s.cur := by
  rw [State.count_eq]
@[simp] theorem State.count_detours (s : State) (unit cls ev n : Nat) : (s.count unit cls ev n).detours = s.detours := by
  rw [State.count_eq]
@[simp] theorem State.count_agenda (s : State) (unit cls ev n : Nat) : (s.count unit cls ev n).agenda = s.agenda := by
  rw [State.count_eq]
@[simp] theorem State.count_fresh (s : State) (unit cls ev n : Nat) : (s.count unit cls ev n).fresh = s.fresh := by
  rw [State.count_eq]
@[simp] theorem State.countCore_eq (s : State) (c : Coord) (cls ev n : Nat) : s.countCore c cls ev n = s.count (coreUnit c) cls ev n := rfl
@[simp] theorem State.countCluster_eq (s : State) (cl cls ev n : Nat) : s.countCluster cl cls ev n = s.count (1536 + cl) cls ev n := rfl

/-! ## Reads of tables -/

theorem State.ctx_def (s : State) (k : Nat) : s.ctx k = s.ctxs.getD k (Ctx.control (BitVec.ofNat 16 k)) := rfl
theorem State.coreAt_def (s : State) (c : Coord) : s.coreAt c = s.cores.getD c.toNat Core.reset := rfl
theorem State.clusterAt_def (s : State) (n : Nat) : s.clusterAt n = s.clusters.getD n Cluster.reset := rfl
theorem State.vf_def (s : State) (v : Nat) : s.vf v = s.vfs.getD v Vf.reset := rfl
theorem State.part_def (s : State) (p : Nat) : s.part p = s.parts.getD p Part.reset := rfl

@[simp] theorem State.ctx_setCtx_same (s : State) (k : Nat) (x : Ctx) : (s.setCtx k x).ctx k = x := by simp [State.ctx_def]
@[simp] theorem State.ctx_setCtx_other (s : State) (k : Nat) (x : Ctx) (j : Nat) (h : j ≠ k) : (s.setCtx k x).ctx j = s.ctx j := by simp [State.ctx_def, h]
@[simp] theorem State.ctx_setCore (s : State) (c : Coord) (x : Core) (j : Nat) : (s.setCore c x).ctx j = s.ctx j := rfl
@[simp] theorem State.ctx_setCluster (s : State) (n : Nat) (x : Cluster) (j : Nat) : (s.setCluster n x).ctx j = s.ctx j := rfl
@[simp] theorem State.ctx_setPart (s : State) (p : Nat) (x : Part) (j : Nat) : (s.setPart p x).ctx j = s.ctx j := rfl
@[simp] theorem State.ctx_setVf (s : State) (v : Nat) (x : Vf) (j : Nat) : (s.setVf v x).ctx j = s.ctx j := rfl
@[simp] theorem State.ctx_count (s : State) (unit cls ev n : Nat) (j : Nat) : (s.count unit cls ev n).ctx j = s.ctx j := by simp [State.ctx_def]
@[simp] theorem State.coreAt_setCtx (s : State) (k : Nat) (x : Ctx) (j : Coord) : (s.setCtx k x).coreAt j = s.coreAt j := rfl
@[simp] theorem State.coreAt_setCore_same (s : State) (c : Coord) (x : Core) : (s.setCore c x).coreAt c = x := by simp [State.coreAt_def]
@[simp] theorem State.coreAt_setCore_other (s : State) (c j : Coord) (x : Core) (h : j ≠ c) : (s.setCore c x).coreAt j = s.coreAt j := by
  have h1 : j.toNat ≠ c.toNat := fun e => h (BitVec.eq_of_toNat_eq e)
  simp [State.coreAt_def, h1]
@[simp] theorem State.coreAt_setCluster (s : State) (n : Nat) (x : Cluster) (j : Coord) : (s.setCluster n x).coreAt j = s.coreAt j := rfl
@[simp] theorem State.coreAt_setPart (s : State) (p : Nat) (x : Part) (j : Coord) : (s.setPart p x).coreAt j = s.coreAt j := rfl
@[simp] theorem State.coreAt_setVf (s : State) (v : Nat) (x : Vf) (j : Coord) : (s.setVf v x).coreAt j = s.coreAt j := rfl
@[simp] theorem State.coreAt_count (s : State) (unit cls ev n : Nat) (j : Coord) : (s.count unit cls ev n).coreAt j = s.coreAt j := by simp [State.coreAt_def]
@[simp] theorem State.clusterAt_setCtx (s : State) (k : Nat) (x : Ctx) (j : Nat) : (s.setCtx k x).clusterAt j = s.clusterAt j := rfl
@[simp] theorem State.clusterAt_setCore (s : State) (c : Coord) (x : Core) (j : Nat) : (s.setCore c x).clusterAt j = s.clusterAt j := rfl
@[simp] theorem State.clusterAt_setCluster_same (s : State) (n : Nat) (x : Cluster) : (s.setCluster n x).clusterAt n = x := by simp [State.clusterAt_def]
@[simp] theorem State.clusterAt_setCluster_other (s : State) (n : Nat) (x : Cluster) (j : Nat) (h : j ≠ n) : (s.setCluster n x).clusterAt j = s.clusterAt j := by simp [State.clusterAt_def, h]
@[simp] theorem State.clusterAt_setPart (s : State) (p : Nat) (x : Part) (j : Nat) : (s.setPart p x).clusterAt j = s.clusterAt j := rfl
@[simp] theorem State.clusterAt_setVf (s : State) (v : Nat) (x : Vf) (j : Nat) : (s.setVf v x).clusterAt j = s.clusterAt j := rfl
@[simp] theorem State.clusterAt_count (s : State) (unit cls ev n : Nat) (j : Nat) : (s.count unit cls ev n).clusterAt j = s.clusterAt j := by simp [State.clusterAt_def]
@[simp] theorem State.part_setCtx (s : State) (k : Nat) (x : Ctx) (j : Nat) : (s.setCtx k x).part j = s.part j := rfl
@[simp] theorem State.part_setCore (s : State) (c : Coord) (x : Core) (j : Nat) : (s.setCore c x).part j = s.part j := rfl
@[simp] theorem State.part_setCluster (s : State) (n : Nat) (x : Cluster) (j : Nat) : (s.setCluster n x).part j = s.part j := rfl
@[simp] theorem State.part_setPart_same (s : State) (p : Nat) (x : Part) : (s.setPart p x).part p = x := by simp [State.part_def]
@[simp] theorem State.part_setPart_other (s : State) (p : Nat) (x : Part) (j : Nat) (h : j ≠ p) : (s.setPart p x).part j = s.part j := by simp [State.part_def, h]
@[simp] theorem State.part_setVf (s : State) (v : Nat) (x : Vf) (j : Nat) : (s.setVf v x).part j = s.part j := rfl
@[simp] theorem State.part_count (s : State) (unit cls ev n : Nat) (j : Nat) : (s.count unit cls ev n).part j = s.part j := by simp [State.part_def]
@[simp] theorem State.vf_setCtx (s : State) (k : Nat) (x : Ctx) (j : Nat) : (s.setCtx k x).vf j = s.vf j := rfl
@[simp] theorem State.vf_setCore (s : State) (c : Coord) (x : Core) (j : Nat) : (s.setCore c x).vf j = s.vf j := rfl
@[simp] theorem State.vf_setCluster (s : State) (n : Nat) (x : Cluster) (j : Nat) : (s.setCluster n x).vf j = s.vf j := rfl
@[simp] theorem State.vf_setPart (s : State) (p : Nat) (x : Part) (j : Nat) : (s.setPart p x).vf j = s.vf j := rfl
@[simp] theorem State.vf_setVf_same (s : State) (v : Nat) (x : Vf) : (s.setVf v x).vf v = x := by simp [State.vf_def]
@[simp] theorem State.vf_setVf_other (s : State) (v : Nat) (x : Vf) (j : Nat) (h : j ≠ v) : (s.setVf v x).vf j = s.vf j := by simp [State.vf_def, h]
@[simp] theorem State.vf_count (s : State) (unit cls ev n : Nat) (j : Nat) : (s.count unit cls ev n).vf j = s.vf j := by simp [State.vf_def]

end Sys2Proof.Machine
end

