-- ==== Sys2Proof/Laws/Instr.lean ====
section
/-! SUPPORT. What surrounds every instruction, said once: the checks and waits that pass leave the state alone, and an instruction whose
body succeeds ends with what the body left (R216, R264, R269, R273, R304, R339). -/

namespace Sys2Proof.Machine

/-! ## Parts of an instruction -/

theorem M_bind {α β : Type} (m : M α) (f : α → M β) (s : State) : (m >>= f) s = match m s with | .ok (a, t) => f a t | .error e => .error e := by
  show (StateT.bind m f s) = _
  unfold StateT.bind
  show Except.bind _ _ = _
  unfold Except.bind
  split <;> rename_i h <;> simp [h]
theorem M_map {α β : Type} (g : α → β) (m : M α) (s : State) :
    (g <$> m) s = match m s with | .ok (a, t) => .ok (g a, t) | .error e => .error e := by
  show (StateT.map g m s) = _
  unfold StateT.map
  show Except.bind _ _ = _
  unfold Except.bind
  split <;> rename_i h <;> simp [h] <;> rfl
@[simp] theorem M_pure {α : Type} (a : α) (s : State) : (pure a : M α) s = .ok (a, s) := rfl
@[simp] theorem me_apply (s : State) : me s = .ok (s.now, s) := rfl
@[simp] theorem setMe_apply (f : Ctx → Ctx) (s : State) : setMe f s = .ok ((), s.setCtx s.cur (f s.now)) := rfl
@[simp] theorem State.ctx_cur (s : State) : s.ctx s.cur = s.now := rfl
@[simp] theorem get_apply (s : State) : (get : M State) s = .ok (s, s) := rfl
@[simp] theorem modify_apply (f : State → State) (s : State) : (modify f : M Unit) s = .ok ((), f s) := rfl
@[simp] theorem stop_apply {α : Type} (f : State → State) (s : State) : (stop f : M α) s = .error f := rfl
@[simp] theorem runM_apply (m : M Unit) (s : State) : runM m s = match m s with | .ok (_, t) => t | .error e => e s := rfl
theorem waitHandle_settled (o : Operand) (s : State) (h : s.now.settled o) : waitHandle o s = .ok ((), s) := by
  cases o <;> simp [waitHandle, M_bind] <;> rename_i r _ <;>
    (have := (h _ rfl).1; simp_all)
theorem readFuture_settled (r : Fin 16) (s : State) (h : s.now.ft[r] = 0 ∧ s.now.fut.look r.val = none) : readFuture r s = .ok ((), s) := by
  have h1 : s.now.ft[r.val] = 0#2 := h.1
  simp [readFuture, M_bind, h1, observe, h.2]
theorem readFutures_settled (o : Operand) (s : State) (h : s.now.settled o) : readFutures o s = .ok ((), s) := by
  cases o <;> simp [readFutures] <;> exact readFuture_settled _ _ (h _ rfl)
theorem settleFutures_settled (i : Instr) (f : Fields) (s : State) (hd : s.now.settled f.d) (ha : s.now.settled f.a)
    (hb : s.now.settled f.b) : settleFutures i f s = .ok ((), s) := by
  have a1 := waitHandle_settled _ _ ha
  have b1 := waitHandle_settled _ _ hb
  have d1 := waitHandle_settled _ _ hd
  have a2 := readFutures_settled _ _ ha
  have b2 := readFutures_settled _ _ hb
  unfold settleFutures
  by_cases hf : (handleField i != some 1) = true <;> cases he : f.d <;> by_cases hr : readsD i = true <;>
    simp [M_bind, a1, b1, ← he, d1, a2, b2, hf, hr] <;> exact readFuture_settled _ _ (hd _ (by rw [he]; rfl))
theorem checkExt_of_has (e : Ext) (opc : BitVec 12) (s : State) (h : hasExt s.now.core e = true) : checkExt e opc s = .ok ((), s) := by
  simp [checkExt, M_bind, h]


/-- Only TRET, OVRET, GETS and SETS have a privilege check (R269). -/
theorem checkPriv_unprivileged (i : Instr) (opc : BitVec 12) (s : State)
    (h : ∀ f, i ≠ .tret f ∧ i ≠ .ovret f ∧ i ≠ .gets f ∧ i ≠ .sets f) : checkPriv i opc s = .ok ((), s) := by
  cases hk : s.now.task <;> simp [checkPriv, M_bind, hk]
  split <;> simp_all

/-- A pattern read as a two's complement integer (R302). -/
theorem signedOf_pattern (w : Nat) (a : Word) : signedOf w (a.toNat % 2 ^ w) = wordInt w true a := by
  simp only [signedOf, wordInt, Bool.true_and, decide_eq_true_eq]
  split <;> split <;> first | rfl | omega

/-! ## A context written twice -/

theorem Tbl_put_put {α : Type} (t : Tbl α) (k : Nat) (v w : α) : (t.put k v).put k w = t.put k w := by
  induction t with
  | nil => simp [Tbl.put]
  | cons e r ih =>
    obtain ⟨j, u⟩ := e
    simp only [Tbl.put]
    split
    · simp [Tbl.put]
    · split
      · simp [Tbl.put]
      · rename_i h1 h2
        simp only [Tbl.put, h1, h2, if_false, ih]

@[simp] theorem State.setCtx_setCtx (s : State) (k : Nat) (x y : Ctx) : (s.setCtx k x).setCtx k y = s.setCtx k y := by
  simp [State.setCtx, Tbl_put_put]

@[simp] theorem State.now_setCtx (s : State) (x : Ctx) : (s.setCtx s.cur x).now = x := by unfold State.now; simp

@[simp] theorem State.now_count (s : State) (unit cls ev n : Nat) : (s.count unit cls ev n).now = s.now := by unfold State.now; simp

/-! ## The next PC -/

theorem Ctx.next_def (x : Ctx) : { x with pc := x.pc + 1 } = x.next := rfl
@[simp] theorem Ctx.next_g (x : Ctx) : x.next.g = x.g := rfl
@[simp] theorem Ctx.next_p (x : Ctx) : x.next.p = x.p := rfl
@[simp] theorem Ctx.next_pc (x : Ctx) : x.next.pc = x.pc + 1 := rfl
@[simp] theorem Ctx.next_fmt (x : Ctx) : x.next.fmt = x.fmt := rfl
@[simp] theorem Ctx.next_know (x : Ctx) : x.next.know = x.know := rfl
@[simp] theorem Ctx.next_core (x : Ctx) : x.next.core = x.core := rfl
@[simp] theorem Ctx.next_task (x : Ctx) : x.next.task = x.task := rfl
@[simp] theorem Ctx.next_ft (x : Ctx) : x.next.ft = x.ft := rfl
@[simp] theorem Ctx.next_fut (x : Ctx) : x.next.fut = x.fut := rfl
@[simp] theorem Ctx.next_gtid (x : Ctx) : x.next.gtid = x.gtid := rfl
@[simp] theorem Ctx.next_home (x : Ctx) : x.next.home = x.home := rfl
@[simp] theorem Ctx.next_slot (x : Ctx) : x.next.slot = x.slot := rfl
@[simp] theorem Ctx.next_company (x : Ctx) : x.next.company = x.company := rfl
@[simp] theorem Ctx.next_rcCount (x : Ctx) : x.next.rcCount = x.rcCount := rfl
@[simp] theorem Ctx.next_qregs (x : Ctx) : x.next.qregs = x.qregs := rfl
@[simp] theorem Ctx.next_status (x : Ctx) : x.next.status = x.status := rfl
@[simp] theorem Ctx.next_pred (x : Ctx) (r : Fin 8) : x.next.pred r = x.pred r := rfl

/-! ## The whole of an instruction -/

theorem Ctx.settled_next (x : Ctx) (o : Operand) (h : x.settled o) : x.next.settled o := h

@[simp] theorem State.now_stepped (s : State) : s.stepped.now = s.now.next := by simp [State.stepped]
@[simp] theorem State.ctx_stepped (s : State) : s.stepped.ctx s.cur = s.now.next := s.now_stepped
@[simp] theorem State.cur_stepped (s : State) : s.stepped.cur = s.cur := by simp [State.stepped]
theorem State.stepped_def (s : State) : s.setCtx s.cur s.now.next = s.stepped := rfl

theorem countExt_counted (e : Ext) (s : State) : countExt e s = .ok ((), s.counted e) := by
  cases e <;> simp [countExt, M_bind, State.counted]

/-- An instruction whose checks pass and whose body succeeds ends with what the body left. -/
theorem instrM_ok (i : Instr) (f : Fields) (sg : Sig) (check body : M Unit) (s t : State) (hext : hasExt s.now.core sg.ext = true)
    (hc : check s = .ok ((), s)) (hv : checkPriv i sg.opc s = .ok ((), s)) (hf : s.free f)
    (hd : sg.d = .dst → isQueueField f.d = true → queuesReady sg f s.stepped = .ok ((), s.stepped)) (hb : body s.stepped = .ok ((), t)) :
    runM (instrM i f sg check body) s = s.ended t sg.ext f.h := by
  obtain ⟨hq, hs⟩ := hf
  have h1 : settleFutures i f s.stepped = .ok ((), s.stepped) :=
    settleFutures_settled i f _ (by rw [State.now_stepped]; exact hs.1) (by rw [State.now_stepped]; exact hs.2.1)
      (by rw [State.now_stepped]; exact hs.2.2)
  have hn : s.ctx s.cur = s.now := rfl
  by_cases hD : (sg.d = .dst && isQueueField f.d) = true
  · have h2 : queuesReady sg f s.stepped = .ok ((), s.stepped) := by
      rw [Bool.and_eq_true, decide_eq_true_eq] at hD
      exact hd hD.1 hD.2
    simp only [runM_apply, instrM, M_bind, checkExt_of_has _ _ _ hext, hc, hv, me_apply, setMe_apply, hq, if_true,
      Ctx.next_def, State.stepped_def, h1, hD, h2, hb, countExt_counted, State.ended]
    cases s.now.know.sat <;> cases (t.counted sg.ext).now.know.sat <;> rfl
  · simp only [runM_apply, instrM, M_bind, checkExt_of_has _ _ _ hext, hc, hv, me_apply, setMe_apply, hq, if_true,
      Ctx.next_def, State.stepped_def, h1, hD, Bool.false_eq_true, if_false, hb, countExt_counted, State.ended]
    cases s.now.know.sat <;> cases (t.counted sg.ext).now.know.sat <;> rfl

@[simp] theorem State.pinFor_base (s : State) : s.pinFor .base = s := by simp [State.pinFor]
@[simp] theorem State.pinFor_v (s : State) : s.pinFor .v = s := by simp [State.pinFor]
@[simp] theorem State.pinFor_x (s : State) : s.pinFor .x = s := by simp [State.pinFor]

/-- An instruction that a free context executes and whose body succeeds ends with what the body left. -/
theorem instr_ended {i : Instr} {f : Fields} {sg : Sig} {body check : Fields → M Unit} {s : State} (t : State)
    (hs : i.sig? = some (f, sg)) (hx : sg.ext ≠ .t) (hext : hasExt s.now.core sg.ext = true) (hc : check f s = .ok ((), s))
    (hv : checkPriv i sg.opc s = .ok ((), s)) (hf : s.free f)
    (hd : sg.d = .dst → isQueueField f.d = true → queuesReady sg f s.stepped = .ok ((), s.stepped)) (hb : body f s.stepped = .ok ((), t)) :
    instr i body check s = .next (s.ended t sg.ext f.h) := by
  have h : s.pinFor sg.ext = s := by cases he : sg.ext <;> simp_all
  simp only [instr, hs, h]
  exact congrArg _ (instrM_ok i f sg _ _ s t hext hc hv hf hd hb)

/-- A base instruction that a free context executes and whose body succeeds. -/
theorem instr_base {i : Instr} {f : Fields} {sg : Sig} {body check : Fields → M Unit} {s : State} (t : State)
    (hs : i.sig? = some (f, sg)) (hx : sg.ext = .base) (hc : check f s = .ok ((), s)) (hv : checkPriv i sg.opc s = .ok ((), s))
    (hf : s.free f) (hd : sg.d = .dst → isQueueField f.d = true → queuesReady sg f s.stepped = .ok ((), s.stepped)) (hb : body f s.stepped = .ok ((), t)) :
    instr i body check s = .next (s.ended t .base f.h) := by
  rw [instr_ended t hs (by rw [hx]; simp) (by rw [hx]; rfl) hc hv hf hd hb, hx]

theorem State.ended_base (s : State) (g : Ctx → Ctx) (h : Hdr) (hk : (g s.now.next).know = s.now.know) :
    s.ended (s.stepped.setCtx s.cur (g s.now.next)) .base h = s.after1 h g := by
  simp [State.ended, State.counted, State.stepped, State.after1, hk]

/-- A base instruction that a free context executes and whose body changes only that context. -/
theorem instr_after1 {i : Instr} {f : Fields} {sg : Sig} {body check : Fields → M Unit} {s : State} (g : Ctx → Ctx)
    (hs : i.sig? = some (f, sg)) (hx : sg.ext = .base) (hc : check f s = .ok ((), s)) (hv : checkPriv i sg.opc s = .ok ((), s))
    (hf : s.free f) (hd : sg.d = .dst → isQueueField f.d = true → queuesReady sg f s.stepped = .ok ((), s.stepped))
    (hb : body f s.stepped = .ok ((), s.stepped.setCtx s.cur (g s.now.next))) (hk : (g s.now.next).know = s.now.know) :
    instr i body check s = .next (s.after1 f.h g) := by
  rw [instr_ended _ hs (by rw [hx]; simp) (by rw [hx]; rfl) hc hv hf hd hb, hx, State.ended_base s g f.h hk]

theorem destReady_register (r : Fin 16) (lane : Fin 64) (s : State) : destReady (.g r lane) s = .ok ((), s) := rfl

/-- A destination of a register needs nothing of a queue. -/
theorem queuesReady_register {sg : Sig} {f : Fields} {r : Fin 16} {lane : Fin 64} (h : f.d = .g r lane) (s : State) :
    sg.d = .dst → isQueueField f.d = true → queuesReady sg f s = .ok ((), s) := by simp [h, isQueueField]

/-- What an instruction takes from queues is there: the sources one after the other, then the destination (R152). -/
theorem queuesReady_of {sg : Sig} {f : Fields} {s s1 s2 : State} (ha : popSource sg.a f.a s = .ok ((), s1))
    (hb : popSource sg.b f.b s1 = .ok ((), s2)) (hd : destReady f.d s = .ok ((), s)) : queuesReady sg f s = .ok ((), s) := by
  simp only [queuesReady, M_bind, get_apply, ha, hb]
  exact hd

/-! ## Plain operands -/

theorem State.plainWord_next (s : State) (o : Operand) : s.stepped.plainWord o = s.plainWord o := by
  cases o <;> simp [State.plainWord]

theorem State.plainVec_next (s : State) (o : Operand) : s.stepped.plainVec o = s.plainVec o := by
  cases o <;> simp [State.plainVec]

theorem setWidth_signExtend (w : Nat) (v : BitVec w) : (v.signExtend 256).setWidth 64 = v.signExtend 64 := by
  apply BitVec.eq_of_getLsbD_eq
  intro i hi
  have h1 : i < 256 := by omega
  simp [BitVec.getElem_signExtend, hi, h1]

/-- A source that is a register lane or an immediate reads without effect (R302). -/
theorem src64_plain (o : Operand) (s : State) (v : Word) (h : s.plainWord o = some v) : src64 o s = .ok (v, s) := by
  cases o <;> simp [State.plainWord] at h <;>
    simp [src64, srcVec, M_bind, ← h, setWidth_signExtend]

/-- A source that is a register or an immediate reads without effect (R309). -/
theorem srcVec_plain (o : Operand) (s : State) (v : Vec) (h : s.plainVec o = some v) : srcVec o s = .ok (v, s) := by
  cases o <;> simp [State.plainVec] at h <;> simp [srcVec, M_bind, ← h]

/-- An integer source that is a register lane or an immediate (R302). -/
theorem srcInt_plain (o : Operand) (w : Nat) (sg : Bool) (s : State) (v : Word) (h : s.plainWord o = some v) :
    srcInt o w sg s = .ok (wordInt w sg v, s) := by simp [srcInt, M_map, src64_plain o s v h]

/-- A write of a register lane (R302). -/
theorem writeWord_lane (r : Fin 16) (lane : Fin 64) (v : Word) (s : State) :
    writeWord (.g r lane) v s = .ok ((), s.setCtx s.cur (s.now.withLane r lane v)) := rfl

theorem writeInt_lane (r : Fin 16) (lane : Fin 64) (w : Nat) (sg : Bool) (v : Int) (s : State) :
    writeInt (.g r lane) w sg v s = .ok ((), s.setCtx s.cur (s.now.withLane r lane (intWord w sg v))) := rfl

/-- A write of a whole register (R309). -/
theorem writeVec_register (r : Fin 16) (lane : Fin 64) (v : Vec) (s : State) :
    writeVec (.g r lane) v s = .ok ((), s.setCtx s.cur (s.now.setG r v)) := rfl

end Sys2Proof.Machine
end

