-- ==== Sys2Proof/Laws/Memory.lean ====
section
/-! SUPPORT. Memory: what a byte reads as after a write, and that every memory operation keeps the canonical form. -/

namespace Sys2Proof.Machine

/-- A byte below every listed address reads as unwritten. -/
theorem Mem.byte_below (m : List Host.Cell) (lo a : Nat) (h : Mem.wfFrom lo m = true) (ha : a < lo) : Mem.byte m a = unwritten := by
  cases m with
  | nil => rfl
  | cons c r =>
    obtain ⟨b, w⟩ := c
    simp only [Mem.wfFrom, Bool.and_eq_true, decide_eq_true_eq] at h
    have h1 : b ≠ a := by omega
    have h2 : a < b := by omega
    simp [Mem.byte, h1, h2]

theorem Mem.byte_setByte_same (m : List Host.Cell) (a : Nat) (v : Byte) (lo : Nat) (h : Mem.wfFrom lo m = true) :
    Mem.byte (Mem.setByte m a v) a = v := by
  induction m generalizing lo with
  | nil => by_cases hv : v = unwritten <;> simp [Mem.setByte, Mem.byte, hv]
  | cons c r ih =>
    obtain ⟨b, w⟩ := c
    simp only [Mem.wfFrom, Bool.and_eq_true, decide_eq_true_eq] at h
    simp only [Mem.setByte]
    split
    · rename_i hb
      have h1 : b ≠ a := by omega
      by_cases hv : v = unwritten <;> simp [Mem.byte, hv, h1, hb]
    · split
      · rename_i hb
        by_cases hv : v = unwritten
        · simpa [hv] using Mem.byte_below r (b + 1) a h.2 (by omega)
        · simp [Mem.byte, hv]
      · have h1 : b ≠ a := by omega
        have h2 : ¬ a < b := by omega
        simpa [Mem.byte, h1, h2] using ih (b + 1) h.2

theorem Mem.byte_setByte_other (m : List Host.Cell) (a x : Nat) (v : Byte) (lo : Nat) (h : Mem.wfFrom lo m = true) (hx : x ≠ a) :
    Mem.byte (Mem.setByte m a v) x = Mem.byte m x := by
  induction m generalizing lo with
  | nil => by_cases hv : v = unwritten <;> simp [Mem.setByte, Mem.byte, hv, Ne.symm hx]
  | cons c r ih =>
    obtain ⟨b, w⟩ := c
    simp only [Mem.wfFrom, Bool.and_eq_true, decide_eq_true_eq] at h
    simp only [Mem.setByte]
    split
    · rename_i hb
      by_cases hv : v = unwritten
      · simp [hv]
      · simp only [hv, if_false, Mem.byte, Ne.symm hx]
        split
        · have h1 : b ≠ x := by omega
          have h2 : x < b := by omega
          simp [h1, h2]
        · rfl
    · split
      · rename_i hb
        subst hb
        by_cases hv : v = unwritten
        · simp only [hv, if_true, Mem.byte, Ne.symm hx, if_false]
          split
          · exact Mem.byte_below r (a + 1) x h.2 (by omega)
          · rfl
        · simp [hv, Mem.byte, Ne.symm hx]
      · simp only [Mem.byte, ih (b + 1) h.2]

theorem Mem.setByte_wfFrom (m : List Host.Cell) (a : Nat) (v : Byte) (lo : Nat) (hl : lo ≤ a) (h : Mem.wfFrom lo m = true) :
    Mem.wfFrom lo (Mem.setByte m a v) = true := by
  induction m generalizing lo with
  | nil => by_cases hv : v = unwritten <;> simp [Mem.setByte, Mem.wfFrom, hv, hl]
  | cons c r ih =>
    obtain ⟨b, w⟩ := c
    have h' := h
    simp only [Mem.wfFrom, Bool.and_eq_true, decide_eq_true_eq] at h
    simp only [Mem.setByte]
    split
    · by_cases hv : v = unwritten
      · simpa [hv] using h'
      · simp only [hv, if_false, Mem.wfFrom, Bool.and_eq_true, decide_eq_true_eq]
        exact ⟨⟨hl, hv⟩, ⟨⟨by omega, h.1.2⟩, h.2⟩⟩
    · split
      · rename_i hb
        subst hb
        by_cases hv : v = unwritten
        · simp only [hv, if_true]
          exact Mem.wfFrom_mono r (a + 1) lo (by omega) h.2
        · simp only [hv, if_false, Mem.wfFrom, Bool.and_eq_true, decide_eq_true_eq]
          exact ⟨⟨hl, hv⟩, h.2⟩
      · simp only [Mem.wfFrom, Bool.and_eq_true, decide_eq_true_eq]
        exact ⟨h.1, ih (b + 1) (by omega) h.2⟩
where
  Mem.wfFrom_mono (m : List Host.Cell) (hi lo : Nat) (hl : lo ≤ hi) (h : Mem.wfFrom hi m = true) : Mem.wfFrom lo m = true := by
    cases m with
    | nil => rfl
    | cons c r =>
      simp only [Mem.wfFrom, Bool.and_eq_true, decide_eq_true_eq] at *
      exact ⟨⟨by omega, h.1.2⟩, h.2⟩

theorem Mem.setByte_wf (m : List Host.Cell) (a : Nat) (v : Byte) (h : Memory.wf m = true) : Memory.wf (Mem.setByte m a v) = true :=
  Mem.setByte_wfFrom m a v 0 (Nat.zero_le a) h

theorem Mem.setBytes_wf (m : List Host.Cell) (a : Nat) (d : List Byte) (h : Memory.wf m = true) :
    Memory.wf (Mem.setBytes m a d) = true := by
  induction d generalizing m a with
  | nil => exact h
  | cons v r ih => exact ih _ _ (Mem.setByte_wf m a v h)

theorem Mem.filter_wfFrom (m : List Host.Cell) (p : Host.Cell → Bool) (lo : Nat) (h : Mem.wfFrom lo m = true) :
    Mem.wfFrom lo (m.filter p) = true := by
  induction m generalizing lo with
  | nil => rfl
  | cons c r ih =>
    simp only [Mem.wfFrom, Bool.and_eq_true, decide_eq_true_eq] at h
    simp only [List.filter_cons]
    split
    · simp only [Mem.wfFrom, Bool.and_eq_true, decide_eq_true_eq]
      exact ⟨h.1, ih _ h.2⟩
    · exact Mem.lower r p (c.1 + 1) lo (by omega) (ih _ h.2)
where
  Mem.lower (r : List Host.Cell) (p : Host.Cell → Bool) (hi lo : Nat) (hl : lo ≤ hi) (h : Mem.wfFrom hi (r.filter p) = true) :
      Mem.wfFrom lo (r.filter p) = true := by
    cases hr : r.filter p with
    | nil => rfl
    | cons c q =>
      rw [hr] at h
      simp only [Mem.wfFrom, Bool.and_eq_true, decide_eq_true_eq] at *
      exact ⟨⟨by omega, h.1.2⟩, h.2⟩

theorem Mem.cut_wf (m : List Host.Cell) (a n : Nat) (h : Memory.wf m = true) : Memory.wf (Mem.cut m a n).2 = true :=
  Mem.filter_wfFrom m _ 0 h

theorem Mem.foldl_setByte_wf {β : Type} (l : List β) (f : β → Nat × Byte) (m : List Host.Cell) (h : Memory.wf m = true) :
    Memory.wf (l.foldl (fun m e => Mem.setByte m (f e).1 (f e).2) m) = true := by
  induction l generalizing m with
  | nil => exact h
  | cons e r ih => exact ih _ (Mem.setByte_wf m _ _ h)

/-- A write to a tier or window keeps the canonical form. -/
theorem State.setTier_wf (s : State) (pa : Nat) (d : List Byte) (h : Memory.wf s.mem = true) : Memory.wf (s.setTier pa d).mem = true :=
  Mem.foldl_setByte_wf d.zipIdx (fun e => (cellAddr (pa + e.2), e.1)) s.mem h

theorem Mem.byte_foldl_other {β : Type} (l : List β) (f : β → Nat × Byte) (m : List Host.Cell) (x : Nat) (h : Memory.wf m = true)
    (hx : ∀ e ∈ l, (f e).1 ≠ x) : Mem.byte (l.foldl (fun m e => Mem.setByte m (f e).1 (f e).2) m) x = Mem.byte m x := by
  induction l generalizing m with
  | nil => rfl
  | cons e r ih =>
    rw [List.foldl_cons, ih _ (Mem.setByte_wf m _ _ h) (fun e' h' => hx e' (List.mem_cons_of_mem _ h'))]
    exact Mem.byte_setByte_other m _ x _ 0 h (Ne.symm (hx e List.mem_cons_self))

/-- A write to a tier or window leaves every other cell alone. -/
theorem State.setTier_byte_other (s : State) (pa : Nat) (d : List Byte) (x : Nat) (h : Memory.wf s.mem = true)
    (hx : ∀ i, i < d.length → cellAddr (pa + i) ≠ x) : Mem.byte (s.setTier pa d).mem x = Mem.byte s.mem x := by
  refine Mem.byte_foldl_other d.zipIdx (fun e => (cellAddr (pa + e.2), e.1)) s.mem x h fun e he => hx e.2 ?_
  have := List.snd_lt_of_mem_zipIdx he
  omega

theorem State.reset_mem_wf : Memory.wf State.reset.mem = true := rfl

end Sys2Proof.Machine
end

