-- ==== Sys2Proof/Tests/Slice0.lean ====
section
/-! SUPPORT. Tests: ill-formed terms, words and results worked out in the spec, and a state that meets the hypotheses of each statement. -/

namespace Sys2Proof.Tests

open Sys2Proof Sys2Proof.Machine

/-- Fields under a guard that always holds. -/
def fs (d a b : Operand) (md : Modifier := .plain) : Fields := { h := plainHdr, md, d, a, b }

/-- A modifier of a type alone. -/
def ofTy (ty : Ty) : Modifier := { Modifier.plain with ty }

/-- A modifier of a type that selects scratch or local memory by NSP. -/
def nspTy (ty : Ty) : Modifier := { Modifier.plain with ty, nsp := true }

/-- A task of partition 1, company 0, alone on core 0, which executes. -/
def task : State := { State.reset.withFetchWord 96 0 with cur := 65536 }

/-- The same task on a tile core. -/
def tileTask : State := { State.reset.withFetchWord 96 (leValue ((wordBytes 0x5037_0009_0000_8000_1F00_0000).map fun b => b)) with cur := 65536 }

/-- The task, its context changed. -/
def taskWith (f : Ctx → Ctx) : State := task.updCtx 65536 f

/-- The control context of core 0, executing. -/
def control : State := { State.reset with cur := 0 }

/-- A state may run an instruction's effect, as a test. -/
def freeB (s : State) (f : Fields) : Bool :=
  s.now.guard f.h && [f.d, f.a, f.b].all fun o => (List.finRange 16).all fun (r : Fin 16) =>
    regOf o != some r || (s.now.ft[r] == 0 && (s.now.fut.look r.val).isNone)

theorem free_of {s : State} {f : Fields} (h : freeB s f = true) : s.free f := by
  simp only [freeB, Bool.and_eq_true, List.all_cons, List.all_nil, Bool.and_true, List.all_eq_true, List.mem_finRange, true_implies,
    Bool.or_eq_true, bne_iff_ne, ne_eq, beq_iff_eq, Option.isNone_iff_eq_none] at h
  exact ⟨h.1, fun r hr => (h.2.1 r).resolve_left (fun n => n hr), fun r hr => (h.2.2.1 r).resolve_left (fun n => n hr),
    fun r hr => (h.2.2.2 r).resolve_left (fun n => n hr)⟩

/-- No cluster's companies are listed out of order, as a test. -/
def invB (s : State) : Bool :=
  Memory.wf s.mem && Tbl.wf s.ctxs && Tbl.wf s.lines && Tbl.wf s.launches && Tbl.wf s.counts &&
    s.clusters.all fun (e : Nat × Cluster) => Tbl.wf e.2.companies

theorem look_mem {α : Type} (t : Tbl α) (k : Nat) (v : α) (h : t.look k = some v) : (k, v) ∈ t := by
  induction t with
  | nil => simp [Tbl.look] at h
  | cons e r ih =>
    obtain ⟨j, w⟩ := e
    simp only [Tbl.look] at h
    split at h
    · simp_all
    · exact List.mem_cons_of_mem _ (ih h)

/-- What holds of each cluster that is listed, and of one after reset, holds of every cluster. -/
theorem clusters_of {s : State} {p : Cluster → Bool} (h0 : p .reset = true) (h : s.clusters.all (fun e => p e.2) = true) (cl : Nat) :
    p (s.clusterAt cl) = true := by
  unfold State.clusterAt Tbl.getD
  cases hl : s.clusters.look cl with
  | none => exact h0
  | some c => exact (List.all_eq_true.1 h) _ (look_mem _ _ _ hl)

theorem companies_of {s : State} (h : s.clusters.all (fun (e : Nat × Cluster) => Tbl.wf e.2.companies) = true) (cl : Nat) :
    Tbl.wf (s.clusterAt cl).companies = true := clusters_of (p := fun c => Tbl.wf c.companies) rfl h cl

theorem inv_of {s : State} (h : invB s = true) : s.inv := by
  simp only [invB, Bool.and_eq_true] at h
  exact ⟨h.1.1.1.1.1, h.1.1.1.1.2, h.1.1.1.2, h.1.1.2, h.1.2, companies_of h.2⟩

theorem unheld_of {s : State} (h : s.held = []) : s.unheld := by rw [State.unheld, h]; exact fun _ he => nomatch he
theorem unfenced_of {s : State} (h : s.held = []) : s.unfenced := by rw [State.unfenced, h]; exact fun _ he => nomatch he

theorem room_of {s : State} {q : Nat} (h : s.held = []) (hr : (s.engQueue s.now.core q).length < engDepth q) : s.engineRoom q := ⟨unheld_of h, hr⟩

/-- The leaf under which an access goes on is a given one, as a test. -/
def goesUnder (s : State) (va : Nat) (write : Bool) (l : Leaf) : Bool :=
  va < 2 ^ 56 && match s.now.leaves.find? fun m => m.vpn == va / 2 ^ 16 && (!write || m.write) with
    | some m => l == m
    | none => match tlbFind (s.clusterAt (clusterOf s.now.core)).tlb (s.pnumOf s.now) va with
      | some m => (!write || (leafW m.entry && leafD m.entry)) && l == { m with vpn := va / 2 ^ 16, write }
      | none => false

theorem xlated_of {s : State} {va : Nat} {write : Bool} {l : Leaf} (h : goesUnder s va write l = true) : s.xlated va write l := by
  unfold goesUnder at h
  rw [Bool.and_eq_true, decide_eq_true_eq] at h
  obtain ⟨h1, h2⟩ := h
  refine ⟨h1, ?_⟩
  split at h2
  · simp_all
  · split at h2
    · rename_i _ hn _ m hm
      simp only [Bool.and_eq_true, Bool.or_eq_true, Bool.not_eq_true', beq_iff_eq] at h2
      try rw [hn]
      exact ⟨m, hm, fun hw => by simpa [hw] using h2.1, h2.2⟩
    · cases h2
/-! ## Results that the spec works out -/

/-- An instruction's next state passes a test. -/
def after (i : Instr) (s : State) (f : State → Bool) : Bool :=
  match exec i s with
  | .next t => f t
  | _ => false

/-- The task with 64-bit operands in lane 0 of g2 and g3. -/
def operands (a b : Word) : State := taskWith fun x => { x with g := (x.g.set 2 (a.setWidth 256)).set 3 (b.setWidth 256) }

/-- An instruction on lane 0 of g2 and g3 of a type gives a value in lane 0 of g1. -/
def gives (mk : Fields → Instr) (ty : Ty) (a b v : Word) : Bool :=
  after (mk (fs (.g 1 0) (.g 2 0) (.g 3 0) (ofTy ty))) (operands a b) fun t => laneOf t.now.g[(1 : Fin 16)] 0 == v && t.now.pc == 1

/-- The borderline results of chapter 9. -/
theorem test_div_overflow : gives .div .i32 0xFFFFFFFF80000000 (-1) 0xFFFFFFFF80000000 = true := by decide
theorem test_rem_overflow : gives .rem .i32 0xFFFFFFFF80000000 (-1) 0 = true := by decide
theorem test_div_truncates : gives .div .i64 (-7) 2 0xFFFFFFFFFFFFFFFD = true := by decide
theorem test_rem_truncates : gives .rem .i64 (-7) 2 (-1) = true := by decide
theorem test_divn_zero : gives .divn .n16 1000 0 0xFFFF = true := by decide
theorem test_remn_zero : gives .remn .n16 1000 0 0x3E8 = true := by decide
theorem test_mulhn : gives .mulhn .n64 (-1) (-1) 0xFFFFFFFFFFFFFFFE = true := by decide
theorem test_mulh : gives .mulh .i64 (-1) (-1) 0 = true := by decide
theorem test_shl_width : gives .shl .n32 1 32 0 = true := by decide
theorem test_sra_beyond : gives .sra .i8 0x80 200 (-1) = true := by decide
theorem test_ror_wraps : gives .ror .n16 1 17 0x8000 = true := by decide
theorem test_adds_saturates : gives .adds .i8 100 100 0x7F = true := by decide
theorem test_subs_saturates : gives .subs .n8 5 9 0 = true := by decide
theorem test_clz_zero : gives .clz .n32 0 0 0x20 = true := by decide
theorem test_bfx_extends : gives .bfx .i32 0xF0 0x0404 (-1) = true := by decide
theorem test_cdist_dies : gives .cdist .none 0x2084 0x5189 0x10003 = true := by decide

theorem test_rect_holds : after (.rect (fs (.p 1) (.g 2 0) (.g 3 0))) (operands 0x10C70084 0x1084) (fun t => t.now.p[(1 : Fin 8)].getLsbD 0) = true := by decide
theorem test_rect_refuses : after (.rect (fs (.p 1) (.g 2 0) (.g 3 0))) (operands 0x10C70084 0x0104) (fun t => !t.now.p[(1 : Fin 8)].getLsbD 0) = true := by decide

/-- Chapter 11: carry-less products and bit deposits. -/
theorem test_clmulh : gives .clmulh .n64 0x8000000000000001 3 1 = true := by decide
theorem test_clmul : gives .clmul .n64 0x8000000000000001 3 0x8000000000000003 = true := by decide
theorem test_bdep : gives .bdep .n16 0xB5 0x0F0F 0x0B05 = true := by decide
theorem test_bext : gives .bext .n16 0x0B05 0x0F0F 0xB5 = true := by decide

/-- The conversions of 300, 500 and 2^-10 to E4M3 in chapter 3. -/
def toE4m3 (bits : Nat) (sat : Bool) : List Nat := [Rnd.rne, .rtz, .rdn, .rup].map fun r => convertNum 0 3 r sat (numOfBits 0 bits)

theorem test_e4m3_300 : toE4m3 0x43960000 false = [0x79, 0x79, 0x79, 0x7A] := by decide
theorem test_e4m3_minus_300 : toE4m3 0xC3960000 false = [0xF9, 0xF9, 0xFA, 0xF9] := by decide
theorem test_e4m3_500 : toE4m3 0x43FA0000 false = [0x7F, 0x7E, 0x7E, 0x7F] := by decide
theorem test_e4m3_500_saturates : toE4m3 0x43FA0000 true = [0x7E, 0x7E, 0x7E, 0x7E] := by decide
theorem test_e4m3_tie : toE4m3 0x3A800000 false = [0, 0, 0, 1] := by decide
theorem test_qn4_decode : qn4Decode 0x3F400000 200 13 = 0x3E960000 ∧ qn4Decode 0x3F400000 200 2 = 0xBEA41000 ∧ qn4Decode 0x3F400000 200 8 = 0 := by decide

/-- The task with vectors in g2 and g3 under a value of %fmt. -/
def vectors (fmt : Word) (a b : Vec) : State := taskWith fun x => { x with g := (x.g.set 2 a).set 3 b, fmt := fmt.setWidth _ }

/-- A vector instruction's result in g1. -/
def vecGives (i : Instr) (fmt : Word) (a b v : Vec) : Bool := after i (vectors fmt a b) fun t => t.now.g[(1 : Fin 16)] == v

/-- The vector results at the edges, chapter 11. -/
theorem test_vadd_tie : vecGives (.vadd (fs (.g 1 0) (.g 2 0) (.g 3 0))) 0x1 0x3F80 0x3B80 0x3F80 = true := by decide
theorem test_vmin_zero : vecGives (.vmin (fs (.g 1 0) (.g 2 0) (.g 3 0))) 0 0x80000000 0 0x80000000 = true := by decide
theorem test_vred_tree : vecGives (.vred (fs (.g 1 0) (.g 2 0) (.i 0))) 0 0x3F800000_3F800000_3F800000_4B800000 0 0x4B800001 = true := by decide

/-! ## Words and ill-formed terms -/

/-- A word decodes to an instruction that passes a test. -/
def decodes (w : InstrWord) (f : Instr → Bool) : Bool :=
  match decode w with
  | .ok i => f i && i.wf && encode i == some w
  | .error _ => false

theorem test_word_add : decodes 0x1032_0001_0100_0200_009F_FFFB
    (· == .add { h := { plainHdr with gpred := 2 }, md := ofTy .i64, d := .g 1 0, a := .g 2 0, b := .i (-5) }) = true := by decide
theorem test_word_ld : decodes 0x2007_0003_05C0_B500_0200_0000
    (· == .ld { h := plainHdr, md := { ofTy .n32 with ord := .acq }, d := .g 3 0, a := .m 5 true 2, b := .none }) = true := by decide
theorem test_word_br : decodes 0x0043_0000_0000_9FFF_FC00_0000
    (· == .br { h := { plainHdr with gpred := 3 }, md := .plain, d := .none, a := .i (-4), b := .none }) = true := by decide
theorem test_word_vadd : decodes 0x4007_0001_0000_0200_0003_0000 (· == .vadd (fs (.g 1 0) (.g 2 0) (.g 3 0))) = true := by decide
theorem test_word_tmma : decodes 0x5037_0009_0000_8000_1F00_0000 (· == .tmma (fs (.g 9 0) (.i 0x1F) .none)) = true := by decide
theorem test_word_clmul : decodes 0x6007_0001_0200_0200_0003_0000 (· == .clmul (fs (.g 1 0) (.g 2 0) (.g 3 0) (ofTy .n64))) = true := by decide

/-- A word is refused with a tval. -/
def refused (w : InstrWord) (tval : Word) : Bool :=
  match decode w with
  | .ok _ => false
  | .error e => e.tval == tval

theorem test_reserved_hint : refused 0x1037_0401_0100_0200_0002_0000 0x04103 = true := by decide

/-- Each check of well-formedness refuses a term: an operand of another kind in each field, a type that the class leaves out, a memory operand's
space, an immediate out of range, a modifier without a carrier. -/
theorem test_wf_destination : (Instr.add (fs .none (.g 2 0) (.g 3 0) (ofTy .i64))).wf = false := by decide
theorem test_wf_first_source : (Instr.add (fs (.g 1 0) .none (.g 3 0) (ofTy .i64))).wf = false := by decide
theorem test_wf_second_source : (Instr.add (fs (.g 1 0) (.g 2 0) (.m 3 false 0) (ofTy .i64))).wf = false := by decide
theorem test_wf_type : (Instr.div (fs (.g 1 0) (.g 2 0) (.g 3 0) (ofTy .n32))).wf = false := by decide
theorem test_wf_lane_without_type : (Instr.mov (fs (.g 1 2) (.g 2 0) .none (ofTy .none))).wf = false := by decide
theorem test_wf_immediate : (Instr.bqc (fs (.i 0) (.q 3) (.i 0))).wf = false := by decide
theorem test_wf_order : (Instr.ld (fs (.g 1 0) (.m 2 false 0) .none { ofTy .n32 with ord := .rel })).wf = false := by decide
theorem test_wf_modifier : (Instr.ret { fs .none .none .none with md := ofTy .i64 }).wf = false := by decide
theorem test_wf_add : (Instr.add (fs (.g 1 0) (.g 2 0) (.g 3 0) (ofTy .i64))).wf = true := by decide

/-! ## Statements about integer instructions, predicates and control transfers -/

theorem wit_TwoSourceResultAndFrame : ((.add, (64, true), fun w sg a b => wordInt w sg a + wordInt w sg b) : (Fields → Instr) × (Nat × Bool) × (Nat → Bool → Word → Word → Int)) ∈ twoSource ∧
    (fs (.g 1 63) (.g 2 0) (.i (-5))).d = .g 1 63 ∧ task.plainWord (.g 2 0) = some 0 ∧ task.plainWord (.i (-5)) = some (-5) ∧
    task.free (fs (.g 1 63) (.g 2 0) (.i (-5))) :=
  ⟨List.mem_cons_self, rfl, by decide, by decide, free_of (by decide)⟩

theorem wit_OneSourceResultAndFrame : ((.neg, fun w sg a => -wordInt w sg a) : (Fields → Instr) × (Nat → Bool → Word → Int)) ∈ oneSource ∧
    (fs (.g 0 0) (.g 15 63) .none).d = .g 0 0 ∧ task.plainWord (.g 15 63) = some 0 ∧ task.free (fs (.g 0 0) (.g 15 63) .none) :=
  ⟨List.mem_cons_self, rfl, by decide, free_of (by decide)⟩

theorem wit_ThreeSourceResultAndFrame :
    ((.madd, fun w sg d a b => wordInt w sg d + wordInt w sg a * wordInt w sg b) :
      (Fields → Instr) × (Nat → Bool → Word → Word → Word → Int)) ∈ threeSource ∧
    (fs (.g 2 0) (.g 3 0) (.g 3 0)).d = .g 2 0 ∧ task.plainWord (.g 3 0) = some 0 ∧ task.free (fs (.g 2 0) (.g 3 0) (.g 3 0)) :=
  ⟨List.mem_cons_self, rfl, by decide, free_of (by decide)⟩

theorem wit_FieldExtractAndExtend : (fs (.g 1 0) (.g 2 0) (.i 64)).d = .g 1 0 ∧ task.plainWord (.g 2 0) = some 0 ∧ task.plainWord (.i 64) = some 64 ∧
    task.free (fs (.g 1 0) (.g 2 0) (.i 64)) :=
  ⟨rfl, by decide, by decide, free_of (by decide)⟩

theorem wit_MovesResultAndFrame : task.free (fs (.g 1 0) (.g 2 0) .none) ∧ task.plainVec (.g 2 0) = some 0 ∧ Modifier.plain.ty = .none ∧
    task.plainWord (.g 2 0) = some 0 ∧ (ofTy .i8).ty ≠ .none ∧ task.free (fs (.g 1 0) (.wide (-1)) .none) ∧
    (fs (.g 1 0) (.wide (-1)) .none).a = .wide 0xFFFFFFFFFFFF := by
  repeat' with_reducible apply And.intro
  all_goals first | decide | exact free_of (by decide) | rfl

theorem wit_ComparisonsWriteBitZero : ((.cmp, fun w sg a b => decide (wordInt w sg a < wordInt w sg b)) :
      (Fields → Instr) × (Nat → Bool → Word → Word → Bool)) ∈ predOfWords ∧
    task.plainWord (.g 4 0) = some 0 ∧ task.plainWord (.i 100) = some 100 ∧ task.free (fs (.p 7) (.g 4 0) (.i 100)) :=
  ⟨List.mem_cons_self, by decide, by decide, free_of (by decide)⟩

theorem wit_PredicateInstructions : task.free (fs (.p 7) (.p 0) (.p 1)) ∧
    ((.pand, fun x y => x &&& y) : (Fields → Instr) × (Word → Word → Word)) ∈ predTwo ∧
    task.free (fs (.p 1) (.p 7) (.i 64)) ∧ task.plainWord (.i 64) = some 64 ∧ task.free (fs (.p 1) (.g 2 0) .none) ∧
    task.plainWord (.g 2 0) = some 0 ∧ task.free (fs (.g 1 63) (.p 7) .none) := by
  repeat' with_reducible apply And.intro
  all_goals first | decide | exact free_of (by decide) | exact List.mem_cons_self

theorem wit_AddressesAndDistances : task.free (fs (.g 1 0) (.m 2 true 0xFFFF) .none) ∧ task.free (fs (.g 1 0) (.i 0x31CA) (.g 2 0)) ∧
    task.plainWord (.i 0x31CA) = some 0x31CA ∧ task.plainWord (.g 2 0) = some 0 ∧
    coordValid 0x31CA = true ∧ coordValid 0xFFFF = false := by
  repeat' with_reducible apply And.intro
  all_goals first | decide | exact free_of (by decide)

/-- A leaf of page 0 for a write: a mapped line of socket 0. -/
def leaf0 : Leaf := { vpn := 0, write := true, level := 0, entry := 0 }

/-- The task with the translation of page 0 in its hands, its streak counted. -/
def translated : State := taskWith fun x => { x with leaves := [leaf0], streaked := 1, arrived := true }

theorem wit_HomeOfTranslatedAddress : translated.plainWord (.g 2 0) = some 0 ∧ translated.free (fs (.g 1 0) (.g 2 0) .none) ∧
    ∃ l t, translateVa 0 false false translated.stepped = .ok (l, t) :=
  ⟨by decide, free_of (by decide), _, _, rfl⟩

theorem wit_BranchTargetsAndWrites : task.free (fs .none (.i (-4)) .none) ∧ task.free (fs .none (.g 1 0) (.g 2 0)) ∧
    task.plainWord (.g 1 0) = some 0 ∧ task.free (fs (.g 1 0) (.i 0xFFFFF) .none) ∧ task.free (fs (.g 1 0) (.g 1 0) .none) :=
  ⟨free_of (by decide), free_of (by decide), by decide, free_of (by decide), free_of (by decide)⟩

theorem wit_SchedulingAndMarks : task.free (fs .none (.g 1 0) .none) ∧ task.plainWord (.g 1 0) = some 0 := ⟨free_of (by decide), by decide⟩

theorem wit_ExitRetiresOrHalts : task.free (fs .none .none .none) ∧ task.now.task = true ∧ control.free (fs .none .none .none) ∧
    control.now.task = false ∧ control.cur = control.now.core.toNat :=
  ⟨free_of (by decide), by decide, free_of (by decide), by decide, by decide⟩

/-! ## Special registers, privilege and traps -/

theorem unlogged_task : task.unlogged := .inr (by decide)

theorem wit_GetsReadsSpecialRegisters : task.free (fs (.g 1 0) (.s .gtid) .none) ∧ task.now.task = true ∧ task.unlogged ∧
    task.free (fs (.g 1 0) (.s .time) .none) ∧ task.free (fs (.g 1 0) (.s .cycle) .none) :=
  ⟨free_of (by decide), by decide, unlogged_task, free_of (by decide), free_of (by decide)⟩

/-- The control context of core 0, a trap of the task in service with an action. -/
def serving (act : Word) : State :=
  ({ task with cur := 0 }.updCtx 65536 fun x => { x with status := .trapped (trapAt .trap 7 3) true }).updCore 0 fun c =>
    { c with serving := some 65536, active := true, cause := act * 2 ^ 16, epc := 3, xb := 8 }

/-- A store of the task to page 0, held at a cluster. -/
def heldStore0 : HeldStore :=
  { by_ := .ctx, na := false, key := 65536, gtid := task.now.gtid, pnum := 1, cl := 0, core := 0, homeCl := 0, company := 0, walking := none, ready := none, digest := 0,
    home := 5, va := 0, leaf := leaf0, data := [1], stamper := some { lnch := 0, tag := 0, cnt := 0, bh := 0, be := 0 }, sync := false,
    fence := false, release := none }

/-- The task, a store of its own held behind a FENCE. -/
def fencedOff : State := { task with held := [(1, { heldStore0 with fence := true })] }

theorem wit_GetsReadsSpecialRegisters_control : (serving 0).free (fs (.g 1 0) (.s .gtid) .none) ∧ (serving 0).now.task = false ∧
    (SReg.gtid, ((serving 0).ctx 65536).gtid) ∈ controlRegisters (serving 0) ∧ fencedOff.free (fs (.g 1 0) (.s .time) .none) ∧ ¬fencedOff.passes ∧
    task.passes ∧ (∃ v t, logPoint 6 (cDie task.now.core) (sregIndex .time).val (BitVec.ofNat 64 (task.cycle * 10 / 27) : Word).toNat task.stepped = .ok (v, t)) ∧
    ∃ v t, logPoint 6 (cDie task.now.core) (sregIndex .cycle).val (BitVec.ofNat 64 task.cycle : Word).toNat task.stepped = .ok (v, t) := by
  repeat' with_reducible apply And.intro
  all_goals first
    | decide | exact free_of (by decide) | exact List.mem_cons_self | exact ⟨_, _, rfl⟩
    | exact unfenced_of rfl | exact fun h => absurd (h _ List.mem_cons_self rfl) (by decide)

theorem wit_SetsWritesWritableFields : task.plainWord (.g 1 0) = some 0 ∧ task.free (fs (.s .fmt) (.g 1 0) .none) ∧ task.now.task = true ∧
    task.free (fs (.s .gtid) (.g 1 0) .none) ∧ task.free (fs (.s .xb) (.g 1 0) .none) ∧ (serving 0).plainWord (.i 0x1FFFFF) = some (-1) ∧
    control.plainWord (.g 1 0) = some 0 ∧ control.free (fs (.s .fmt) (.g 1 0) .none) ∧ control.now.task = false ∧
    (control.coreAt control.now.core).serving = none ∧ control.free (fs (.s .cause) (.g 1 0) .none) ∧ (serving 0).free (fs (.s .fmt) (.i 0x1FFFFF) .none) ∧
    ((serving 0).coreAt (serving 0).now.core).serving = some 65536 ∧ 65536 ≠ (serving 0).cur ∧ SReg.gtid ∈ [SReg.gtid, .coord] ∧
    (serving 0).now.task = false ∧ (serving 0).free (fs (.s .xb) (.i 0x1FFFFF) .none) ∧
    ((serving 0).coreAt (serving 0).now.core).serving.isSome = true ∧ (serving 0).free (fs (.s .cause) (.i 0x1FFFFF) .none) := by
  repeat' with_reducible apply And.intro
  all_goals first | decide | exact free_of (by decide)

theorem wit_PrivilegeFaults : task.now.task = true ∧ (fs (.g 1 0) (.s .epc) .none).a = .s .epc ∧ (fs (.s .tval) (.g 1 0) .none).d = .s .tval :=
  ⟨by decide, rfl, rfl⟩

/-- The task with a base register that holds an address. -/
def based (a : Nat) : State := (taskWith fun x => { x with g := x.g.set 2 (BitVec.ofNat 256 a) })

/-- The task with %xb 0, all of whose local memory is data, and a base register. -/
def dataTask (a : Nat) : State := (based a).updCore 0 fun c => { c with xb := 1 }

theorem clear_data (a n : Nat) (s : State) (h : (s.coreAt s.now.core).localOk a n = true) (hb : s.bad = []) (hh : s.held = []) : s.localClear a n :=
  ⟨h, by simp [hb], by simp [hh]⟩

theorem wit_AlignmentAndDataRegionFaults : (based 1).free (fs (.g 1 0) (.m 2 true 0) .none (nspTy .n32)) ∧
    operandAddr (based 1) 2 0 4 % 4 ≠ 0 ∧ (based 0).free (fs (.g 1 0) (.m 2 true 0) .none (nspTy .n32)) ∧ operandAddr (based 0) 2 0 4 % 4 = 0 ∧
    (∀ h ∈ (based 0).held, h.2.key ≠ (based 0).cur) ∧ ((based 0).coreAt (based 0).now.core).localOk (operandAddr (based 0) 2 0 4) 4 = false ∧
    (based 1).free (fs (.m 2 true 0) (.g 1 0) .none (nspTy .n32)) ∧ (based 0).unheld ∧ (based 0).plainWord (.g 1 0) = some 0 ∧
    (based 0).plainVec (.g 1 0) = some 0 ∧ ((based 0).coreAt (based 0).now.core).localOk (operandAddr (based 0) 2 0 32) 32 = false ∧
    -- elements of LDVT: the second misaligned, the second outside the data region, all aligned
    (based 0).plainWord (.i 1) = some 1 ∧ 1 % 4 ≠ 0 ∧ (dataTask 32).plainWord (.i 0x100000) = some 0xFFFFFFFFFFF00000 ∧
    (dataTask 32).localClear 32 4 ∧
    (∀ j < 8, ((((operandAddr (dataTask 32) 2 0 4 : Nat) : Int) + (j : Nat) * (0xFFFFFFFFFFF00000 : Word).toInt) % 2 ^ 64).toNat % 4 = 0) ∧
    ((dataTask 32).coreAt (dataTask 32).now.core).localOk ((((operandAddr (dataTask 32) 2 0 4 : Nat) : Int) + (1 : Nat) * (0xFFFFFFFFFFF00000 : Word).toInt) % 2 ^ 64).toNat 4 = false := by
  repeat' with_reducible apply And.intro
  all_goals first | decide | exact free_of (by decide) | exact unheld_of rfl | exact clear_data _ _ _ (by decide) rfl rfl

theorem wit_TrapsAreTaken : task.plainWord (.i 7) = some 7 ∧ task.free (fs .none (.i 7) .none) ∧ task.now.task = true :=
  ⟨by decide, free_of (by decide), by decide⟩

/-- The task trapped, and its core's control context idle. -/
def trapped : State :=
  (taskWith fun x => { x with status := .trapped (trapAt .trap 7 3) false }).updCore 0 fun c => { c with traps := [65536] }

theorem wit_TrapServiceEntry : (trapped.coreAt 0).active = false ∧ (trapped.coreAt 0).chalt = false ∧ (trapped.coreAt 0).serving = none ∧
    trapped.nextTrap 0 = some 65536 ∧ (trapped.ctx 65536).status = .trapped (trapAt .trap 7 3) false ∧ (65536 : Nat) ≠ (0 : Coord).toNat := by
  decide

theorem wit_TrapReturn : control.free (fs .none .none .none) ∧ control.now.task = false ∧ (control.coreAt control.now.core).serving = none ∧
    (serving 0).free (fs .none .none .none) ∧ ((serving 0).coreAt (serving 0).now.core).serving = some 65536 ∧
    ((serving 0).ctx 65536).status = .trapped (trapAt .trap 7 3) true ∧ (65536 : Nat) ≠ (serving 0).cur ∧
    ((serving 0).coreAt 0).cause.extractLsb' 16 2 = 0 ∧ ((serving 1).coreAt 0).cause.extractLsb' 16 2 = 1 ∧
    2 ≤ (((serving 2).coreAt 0).cause.extractLsb' 16 2).toNat ∧ 2 ≤ (((serving 3).coreAt 0).cause.extractLsb' 16 2).toNat ∧
    ((serving 0).ctx 65536).img = ((serving 0).coreAt 0).img ∧
    (((serving 0).coreAt 0).epc.setWidth 32).toNat < ((serving 0).coreAt 0).xb.toNat := by
  repeat' with_reducible apply And.intro
  all_goals first | decide | exact free_of (by decide)

/-- The control context while the trapped task's image is another than its core's. -/
def servingOther : State := (serving 0).updCtx 65536 fun x => { x with img := 9 }

theorem wit_TrapReturn_overlay : servingOther.free (fs .none .none .none) ∧ (servingOther.ctx 65536).img ≠ (servingOther.coreAt 0).img ∧
    (servingOther.coreAt servingOther.now.core).serving = some 65536 ∧ (servingOther.ctx 65536).status = .trapped (trapAt .trap 7 3) true :=
  ⟨free_of (by decide), by decide, by decide, by decide⟩

/-- The task in a partition whose pitch is cluster 0. -/
def pitched : State := task.updPart 1 fun p => { p with active := true, pitch := 1 }

theorem wit_EventSleepAndDeadline : pitched.plainWord (.i 0) = some 0 ∧ pitched.free (fs .none (.i 0) .none) ∧
    (coordValid 0 && (pitched.part (pitched.pnumOf pitched.now)).pitch.getLsbD (clusterOf 0)) = true ∧ pitched.plainWord (.i 0x31CA) = some 0x31CA ∧
    (coordValid 0x31CA && (pitched.part (pitched.pnumOf pitched.now)).pitch.getLsbD (clusterOf 0x31CA)) = false ∧
    task.free (fs (.g 1 0) (.i 5) .none) ∧ task.now.status = .idle := by
  repeat' with_reducible apply And.intro
  all_goals first | decide | exact free_of (by decide)

/-- The task with a SLEEP or a TWAIT in flight. -/
def flying (f : Flight) (susp : Bool) : State := taskWith fun x => { x with status := .flight f, suspended := susp }

/-- The same, within the seven cycles after its issue. -/
def early (f : Flight) : State := (flying f false).updCtx 65536 fun x => { x with readyAt := 8 }

theorem wit_EventSleepAndDeadline_flights : (flying (.sleep 0 9 (some 2)) true).free (fs (.g 1 0) (.i 5) .none) ∧
    (flying (.sleep 0 9 (some 2)) true).now.status = .flight (.sleep 0 9 (some 2)) ∧ (flying (.sleep 0 9 (some 2)) true).unlogged ∧
    (flying (.sleep 0 9 (some 2)) true).now.readyAt ≤ (flying (.sleep 0 9 (some 2)) true).cycle + 1 ∧ (some (2 : Fin 3)).isSome = true ∧
    (flying (.sleep 0 0 none) false).free (fs (.g 1 0) (.i 5) .none) ∧ (flying (.sleep 0 0 none) false).now.status = .flight (.sleep 0 0 none) ∧
    0 ≤ (flying (.sleep 0 0 none) false).cycle * 10 / 27 ∧ (early (.sleep 0 9 none)).free (fs (.g 1 0) (.i 5) .none) ∧
    (early (.sleep 0 9 none)).now.status = .flight (.sleep 0 9 none) ∧ (early (.sleep 0 9 none)).cycle + 1 < (early (.sleep 0 9 none)).now.readyAt ∧
    (flying (.twait 0 0) false).free (fs (.g 1 0) (.i 5) .none) ∧ (flying (.twait 0 0) false).now.status = .flight (.twait 0 0) ∧
    (flying (.twait 0 0) false).unlogged ∧ (flying (.twait 0 0) false).now.readyAt ≤ (flying (.twait 0 0) false).cycle + 1 ∧
    (early (.twait 0 0)).now.status = .flight (.twait 0 0) ∧ (early (.twait 0 0)).cycle + 1 < (early (.twait 0 0)).now.readyAt := by
  repeat' with_reducible apply And.intro
  all_goals first | decide | exact free_of (by decide) | exact .inr (by decide)

/-! ## Loads, stores, atomics, fences and barriers -/

theorem wit_LocalLoadsResultAndFrame : (nspTy .i16).nsp = true ∧ (nspTy .i16).ord = .rlx ∧ (nspTy .i16).ty ∈ tyMemory ∧
    (dataTask 32).free (fs (.g 1 0) (.m 2 true 0) (.i 2) (nspTy .i16)) ∧ operandAddr (dataTask 32) 2 0 2 % 2 = 0 ∧
    (dataTask 32).localClear (operandAddr (dataTask 32) 2 0 2) 2 ∧ (dataTask 32).localClear (operandAddr (dataTask 32) 2 0 32) 32 ∧
    (dataTask 32).plainWord (.i 2) = some 2 ∧ (∀ i : Nat, i < 16 → (((operandAddr (dataTask 32) 2 0 2 : Int) + i * (2 : Word).toInt) % 2 ^ 64).toNat % 2 = 0 ∧
      (dataTask 32).localClear (((operandAddr (dataTask 32) 2 0 2 : Int) + i * (2 : Word).toInt) % 2 ^ 64).toNat 2) := by
  refine ⟨rfl, rfl, by decide, free_of (by decide), by decide, clear_data _ _ _ (by decide) rfl rfl, clear_data _ _ _ (by decide) rfl rfl,
    by decide, ?_⟩
  have h : ∀ i : Nat, i < 16 → (((operandAddr (dataTask 32) 2 0 2 : Int) + i * (2 : Word).toInt) % 2 ^ 64).toNat % 2 = 0 ∧
      ((dataTask 32).coreAt (dataTask 32).now.core).localOk (((operandAddr (dataTask 32) 2 0 2 : Int) + i * (2 : Word).toInt) % 2 ^ 64).toNat 2 = true := by
    decide
  exact fun i hi => ⟨(h i hi).1, clear_data _ _ _ (h i hi).2 rfl rfl⟩

theorem wit_LocalStoresResultAndFrame : (dataTask 32).free (fs (.m 2 true 0) (.g 1 0) .none (nspTy .n64)) ∧ (dataTask 32).inv ∧
    (dataTask 32).plainWord (.g 1 0) = some 0 ∧ operandAddr (dataTask 32) 2 0 8 % 8 = 0 ∧ (dataTask 32).localClear (operandAddr (dataTask 32) 2 0 8) 8 ∧
    (dataTask 32).plainVec (.g 1 0) = some 0 ∧ (dataTask 32).localClear (operandAddr (dataTask 32) 2 0 32) 32 := by
  repeat' with_reducible apply And.intro
  all_goals first | decide | exact free_of (by decide) | exact inv_of (by decide) | exact clear_data _ _ _ (by decide) rfl rfl

theorem wit_LocalAtomicsResultAndFrame : ((.aadd, (64, true), fun old v _ => some (old + v)) :
      (Fields → Instr) × (Nat × Bool) × (Int → Int → Int → Option Int)) ∈ atomicOps ∧
    (dataTask 32).plainWord (.i 1) = some 1 ∧ (dataTask 32).free (fs (.g 1 0) (.m 2 true 0) (.i 1) (nspTy .i64)) ∧ (dataTask 32).inv ∧
    (dataTask 32).unlogged ∧ operandAddr (dataTask 32) 2 0 8 % 8 = 0 ∧ (dataTask 32).localClear (operandAddr (dataTask 32) 2 0 8) 8 := by
  repeat' with_reducible apply And.intro
  all_goals first
    | decide | exact List.mem_cons_self | exact free_of (by decide) | exact inv_of (by decide) | exact .inr (by decide)
    | exact clear_data _ _ _ (by decide) rfl rfl

theorem wit_LoadsAndStoresInEverySpace : (dataTask 32).free (fs (.g 1 0) (.m 2 true 0) .none (nspTy .n32)) ∧
    (∃ d t, loadBytes (fs (.g 1 0) (.m 2 true 0) .none (nspTy .n32)) { space := .l, addr := 32, scope := 0, base := 32 } 4 (dataTask 32).stepped =
      .ok (d, t)) ∧ operandAddr (dataTask 32) 2 0 4 % 4 = 0 ∧
    (∃ d t, loadBytes (fs (.g 1 0) (.m 2 true 0) .none (nspTy .n32)) { space := .l, addr := 32, scope := 0, base := 32 } 32 (dataTask 32).stepped =
      .ok (d, t)) ∧
    (dataTask 32).free (fs (.m 2 true 0) (.g 1 0) .none (nspTy .n32)) ∧
    (∃ t, storeBytes (fs (.m 2 true 0) (.g 1 0) .none (nspTy .n32)) { space := .l, addr := 32, scope := 0, base := 32 } (leBytes 4 0)
      (dataTask 32).stepped = .ok ((), t)) ∧
    (dataTask 32).plainWord (.i 1) = some 1 ∧ operandAddr (dataTask 32) 2 0 8 % 8 = 0 ∧
    (∃ d t, atomicMem { space := .l, addr := 32, scope := 0, base := 32 } (howOf (fs (.g 1 0) (.m 2 true 0) (.i 1) (nspTy .i64)) true true 0) 8
      (fun old => some (leBytes 8 (leValue old + 1))) (pure []) (dataTask 32).stepped = .ok (d, t)) ∧
    ∃ t, storeBytes (fs (.m 2 true 0) (.g 1 0) .none (nspTy .n32)) { space := .l, addr := 32, scope := 0, base := 32 } (leBytes 32 0)
      (dataTask 32).stepped = .ok ((), t) := by
  repeat' with_reducible apply And.intro
  all_goals first | decide | exact free_of (by decide) | exact ⟨_, _, rfl⟩ | exact ⟨_, rfl⟩ | exact _ | rfl

/-- A plain access. -/
def plainHow (write : Bool) : How :=
  { write, atomic := false, acquire := false, release := false, na := false, ar := false, mig := .auto, scope := 0 }

/-- A line of zeros at cluster 0. -/
def line0 (dirty : Bool) : Line := { home := 0, bank := 0, data := 0, dirty, poison := false, stamp := none }

/-- The task whose access to line 0 has reached the line's home, which has it. -/
def atHome : State := { translated with lines := [(0, line0 true)] }

/-- A computation succeeds with a result that passes a test. -/
def okB {α : Type} (r : Except (State → State) (α × State)) (f : α → State → Bool) : Bool :=
  match r with
  | .ok (a, t) => f a t
  | .error _ => false

theorem ok_of {α : Type} {r : Except (State → State) (α × State)} {f : α → State → Bool} (h : okB r f = true) :
    ∃ a t, r = .ok (a, t) ∧ f a t = true := by
  unfold okB at h
  split at h
  · exact ⟨_, _, rfl, h⟩
  · cases h

/-- One place at its home, of 8 bytes. -/
def onePlace (f : Place → State → Bool) (l : List Place) (t : State) : Bool :=
  match l with
  | [p] => p.homed && p.len == 8 && p.off == 0 && p.pa % 64 + 8 ≤ 64 && f p t
  | _ => false

theorem one_of {r : Except (State → State) (List Place × State)} {f : Place → State → Bool} (h : okB r (onePlace f) = true) :
    ∃ p t, r = .ok ([p], t) ∧ p.homed = true ∧ p.len = 8 ∧ p.off = 0 ∧ p.pa % 64 + 8 ≤ 64 ∧ f p t = true := by
  obtain ⟨l, t, hr, hf⟩ := ok_of h
  unfold onePlace at hf
  split at hf
  · simp only [Bool.and_eq_true, beq_iff_eq, decide_eq_true_eq] at hf
    exact ⟨_, _, hr, hf.1.1.1.1, hf.1.1.1.2, hf.1.1.2, hf.1.2, hf.2⟩
  · cases hf

/-- An access that acquires or releases, or both. -/
def orderedHow (write acquire release : Bool) : How := { plainHow write with acquire, release }

/-- A leaf of page 0 whose lines no cluster store holds, and the task with it. -/
def bypassLeaf : Leaf := { leaf0 with entry := 0x40 }

def bypassing : State := taskWith fun x => { x with leaves := [bypassLeaf], streaked := 1, arrived := true }

/-- The task at the homes of lines 0 and 1, which have them. -/
def twoLines : State := { (taskWith fun x => { x with leaves := [leaf0], streaked := 2, arrived := true }) with lines := [(0, line0 true), (1, line0 true)] }

/-- No log records what the context executing does, as a test. -/
def unloggedB (t : State) : Bool := !t.now.task || t.modeOf (gtidPnum t.now.gtid) (gtidLaunch t.now.gtid) == 0

theorem unlogged_of {t : State} (h : unloggedB t = true) : t.unlogged := by simpa [unloggedB, State.unlogged] using h

theorem wit_GlobalAccessAtItsHome :
    -- a plain read, and a read of two lines that acquires
    (∃ l t, gReady (plainHow false) false false 0 [(0, 0, 8)] atHome = .ok (l, t) ∧ unloggedB t = true) ∧
    (∃ (l : List Place) (t : State), gReady (orderedHow false true false) true true 60 (linePieces 0 60 8) twoLines = .ok (l, t) ∧
      (unloggedB t && l.length == 2 && t.now.task) = true) ∧
    -- a plain write of one line that is present, and one that is absent
    (∃ p t, gReady (plainHow true) false false 0 (linePieces 0 0 8) atHome = .ok ([p], t) ∧ p.homed = true ∧ p.len = 8 ∧ p.off = 0 ∧
      p.pa % 64 + 8 ≤ 64 ∧ (unloggedB t && !leafWb p.leaf.entry && (t.lineAt p.pa).isSome) = true) ∧
    (∃ p t, gReady (plainHow true) false false 0 (linePieces 0 0 8) bypassing = .ok ([p], t) ∧ p.homed = true ∧ p.len = 8 ∧ p.off = 0 ∧
      p.pa % 64 + 8 ≤ 64 ∧ (unloggedB t && !leafWb p.leaf.entry && (t.lineAt p.pa).isNone && invB t) = true) ∧
    -- a write of two lines that releases
    (∃ (l : List Place) (t : State), gReady (orderedHow true false true) true true 60 (linePieces 0 60 8) twoLines = .ok (l, t) ∧
      (unloggedB t && l.length == 2 && l.all (fun p => !leafWb p.leaf.entry) && t.now.task) = true) ∧
    -- an atomic
    ∃ p t, gReady (orderedHow true true true) true false 0 [(0, 0, 8)] atHome = .ok ([p], t) ∧ p.homed = true ∧ p.len = 8 ∧ p.off = 0 ∧
      p.pa % 64 + 8 ≤ 64 ∧ (unloggedB t && !leafWb p.leaf.entry && t.now.probed.isNone) = true := by
  repeat' with_reducible apply And.intro
  · exact ok_of (f := fun _ t => unloggedB t) (by decide)
  · exact ok_of (f := fun (l : List Place) t => unloggedB t && l.length == 2 && t.now.task) (by decide)
  · exact one_of (f := fun p t => unloggedB t && !leafWb p.leaf.entry && (t.lineAt p.pa).isSome) (by decide)
  · exact one_of (f := fun p t => unloggedB t && !leafWb p.leaf.entry && (t.lineAt p.pa).isNone && invB t) (by decide)
  · exact ok_of (f := fun (l : List Place) t => unloggedB t && l.length == 2 && l.all (fun p => !leafWb p.leaf.entry) && t.now.task) (by decide)
  · exact one_of (f := fun p t => unloggedB t && !leafWb p.leaf.entry && t.now.probed.isNone) (by decide)

/-- The task with as many operations in an engine queue of its core as the queue takes. -/
def crowded (qsel n : Nat) : State :=
  { task with ops := (List.range n).map fun i => (i, task.newOp qsel (.join [] [] 0)) }

theorem wit_FenceAndJoin : task.free (fs (.g 1 0) (.i 1) .none) ∧ task.plainWord (.i 1) = some 1 ∧ ((1 : Word) &&& ~~~0xFFFF003F = 0) ∧
    task.plainWord (.i 64) = some 64 ∧ ((64 : Word) &&& ~~~0xFFFF003F ≠ 0) ∧ task.engineRoom 6 ∧ (crowded 6 8).free (fs (.g 1 0) (.i 1) .none) ∧
    engDepth 6 ≤ ((crowded 6 8).engQueue (crowded 6 8).now.core 6).length ∧ (crowded 6 8).unheld := by
  repeat' with_reducible apply And.intro
  all_goals first | decide | exact free_of (by decide) | exact room_of rfl (by decide) | exact unheld_of rfl

/-- The task on a core whose cluster translates page 0 by a leaf. -/
def cachedAs (l : Leaf) : State := task.updCluster 0 fun c => { c with tlb := [{ pnum := task.pnumOf task.now, leaf := l }] }

/-- The task on a core whose cluster translates page 0. -/
def cached : State := cachedAs leaf0

/-- The task at the home of line 0, which holds a line or nothing. -/
def homed (l : List (Nat × Line)) : State := { translated with lines := l }

theorem noWritebacks (s : State) (h : s.clusters.all (fun e => e.2.writebacks.isEmpty) = true) (c line : Nat) :
    ∀ w ∈ (s.clusterAt c).writebacks, w.1 ≠ line := by
  have hc := clusters_of (p := fun c => c.writebacks.isEmpty) rfl h c
  rw [List.isEmpty_iff] at hc
  simp [hc]

set_option maxRecDepth 8000 in
theorem wit_LineOperations : cached.free (fs .none (.m 2 false 0) .none) ∧ operandAddr cached 2 0 1 = 0 ∧
    (cached.engineTranslate (.pref 0 0) 0 (cached.pnumOf cached.now) 0 false).1 = .leaf { leaf0 with write := false } ∧
    (task.engineTranslate (.pref 0 0) 0 (task.pnumOf task.now) 0 false).1 = .miss ∧
    cached.allocates leaf0.entry (leaf0.homeAt 0) false = true ∧ noHome leaf0.entry = false ∧
    atHome.free (fs .none (.m 2 false 0) .none) ∧ operandAddr atHome 2 0 1 = 0 ∧ atHome.xlated 0 true leaf0 ∧ atHome.unheld ∧ atHome.inv ∧
    atHome.poisoned (leaf0.pa 0) = false ∧ atHome.lines.look (leaf0.pa 0 / 64) = some (line0 true) ∧ (line0 true).poison = false ∧
    (∀ c, ∀ w ∈ (atHome.clusterAt c).writebacks, w.1 ≠ leaf0.pa 0 / 64) := by
  repeat' with_reducible apply And.intro
  all_goals first
    | decide | exact free_of (by decide) | exact xlated_of (by decide) | exact unheld_of rfl | exact inv_of (by decide)
    | exact fun c => noWritebacks _ (by decide) c _

/-- A leaf of page 0 for a physical window. -/
def windowLeaf : Leaf := { leaf0 with entry := 0xE0000000000C3 }

set_option maxRecDepth 8000 in
theorem wit_LineOperations_edges : (homed []).xlated 0 true leaf0 ∧ (homed []).inv ∧ (homed []).lines.look (leaf0.pa 0 / 64) = none ∧
    (∀ c, ∀ w ∈ ((homed []).clusterAt c).writebacks, w.1 ≠ leaf0.pa 0 / 64) ∧ (homed []).free (fs .none (.m 2 false 0) .none) ∧
    (homed [(0, { line0 true with poison := true })]).poisoned (leaf0.pa 0) = true ∧ (homed [(0, { line0 true with poison := true })]).inv ∧
    (homed [(0, { line0 true with poison := true })]).xlated 0 true leaf0 ∧
    (taskWith fun x => { x with leaves := [windowLeaf] }).xlated 0 true windowLeaf ∧ noHome windowLeaf.entry = true := by
  repeat' with_reducible apply And.intro
  all_goals first
    | decide | exact free_of (by decide) | exact xlated_of (by decide) | exact inv_of (by decide)
    | exact fun c => noWritebacks _ (by decide) c _

/-- The task that probes line 0, which a task that it knows nothing of has written. -/
def racing : State :=
  { cached with lines := [(0, { line0 true with stamp := some { Stamp.fresh (gtidLaunch task.now.gtid) with wtag := 77, wcnt := 1, wmask := 1 } })] }

theorem wit_ProbeReports : (taskWith fun x => { x with g := x.g.set 2 (-1) }).free (fs (.g 1 0) (.m 2 false 0) .none) ∧
    mSpace false false = .g ∧ 2 ^ 56 ≤ operandAddr (taskWith fun x => { x with g := x.g.set 2 (-1) }) 2 0 1 ∧
    (taskWith fun x => { x with probed := some (.xlatePerm, 2, 0) }).free (fs (.g 1 0) (.m 2 false 0) .none) ∧
    operandAddr (taskWith fun x => { x with probed := some (.xlatePerm, 2, 0) }) 2 0 1 < 2 ^ 56 ∧
    cached.free (fs (.g 1 0) (.m 2 false 0) .none) ∧ operandAddr cached 2 0 1 = 0 ∧ cached.now.probed = none ∧
    cached.xlated 0 false { leaf0 with write := false } ∧ cached.lineAt (leaf0.pa 0) = none ∧
    racing.free (fs (.g 1 0) (.m 2 false 0) .none) ∧ racing.xlated 0 false { leaf0 with write := false } ∧ racing.now.task = true ∧
    leafPolicy leaf0.entry ≠ 3 ∧ (racing.lineAt (leaf0.pa 0)).any (fun ln => (raceCheck ln.stamp (gtidLaunch racing.now.gtid) (gtidTag racing.now.gtid)
      racing.now.know { mask := byteMask (leaf0.pa 0 % 64) 1, write := false, sync := false }).isSome) = true ∧ task.now.probed = none ∧ task.now.leaves = [] ∧
    tlbFind (task.clusterAt (clusterOf task.now.core)).tlb (task.pnumOf task.now) (operandAddr task 2 0 1) = none := by
  repeat' with_reducible apply And.intro
  all_goals first | decide | exact free_of (by decide) | exact xlated_of (by decide)

/-- The task whose company holds bank 0 of its cluster as logical bank 0, with a barrier word at its start. -/
def barrierTask (word : List Byte) : State :=
  { (task.updCluster 0 fun c => c.updBank 0 fun _ => { mode := .scratch, next := none, held := true, company := 0, lbank := 0 }) with
    mem := Mem.setBytes task.mem (bankPa 0 0 0) word }

set_option maxRecDepth 8000 in
theorem wit_ProbeReports_local : mSpace true true = .l ∧ (based 0).free (fs (.g 1 0) (.m 2 true 0) .none (nspTy .none)) ∧
    ((based 0).coreAt (based 0).now.core).localOk (operandAddr (based 0) 2 0 1) 1 = false ∧
    (dataTask 32).free (fs (.g 1 0) (.m 2 true 0) .none (nspTy .none)) ∧
    ((dataTask 32).coreAt (dataTask 32).now.core).localOk (operandAddr (dataTask 32) 2 0 1) 1 = true ∧
    (∀ e ∈ (dataTask 32).bad, localPa (dataTask 32).now.core (operandAddr (dataTask 32) 2 0 1) / 8 ≠ e / 8) ∧ mSpace true false = .s ∧
    (barrierTask [2]).free (fs (.g 1 0) (.m 2 true 0) .none) ∧ (barrierTask [2]).scratchHome (barrierTask [2]).now.g[(2 : Fin 16)] = some (0, 0) ∧
    operandAddr (barrierTask [2]) 2 0 1 = 0 ∧ ((barrierTask [2]).clusterAt 0).divertOf 0 = none ∧
    ((barrierTask [2]).scratchPa (barrierTask [2]).now.g[(2 : Fin 16)] 0 1).isSome = true ∧
    task.scratchHome task.now.g[(2 : Fin 16)] = some (0, 0) ∧ (task.clusterAt 0).divertOf 0 = none ∧ (task.clusterAt 0).physBank 0 0 .scratch = none := by
  repeat' with_reducible apply And.intro
  all_goals first | decide | exact free_of (by decide)

theorem wit_ScratchResultAndFrame : mSpace true false = .s ∧ (barrierTask [2]).free (fs (.g 1 0) (.m 2 true 0) (.i 1)) ∧ (barrierTask [2]).unheld ∧
    operandAddr (barrierTask [2]) 2 0 8 % 8 = 0 ∧ ((barrierTask [2]).scratchPa (barrierTask [2]).now.g[(2 : Fin 16)] (operandAddr (barrierTask [2]) 2 0 8) 8).isSome = true ∧
    (barrierTask [2]).plainWord (.i 1) = some 1 ∧ (barrierTask [2]).inv ∧ (barrierTask [2]).unlogged := by
  repeat' with_reducible apply And.intro
  all_goals first | decide | exact inv_of (by decide) | exact .inr (by decide) | exact free_of (by decide) | exact unheld_of rfl

set_option maxRecDepth 8000 in
theorem wit_BarrierOperations : mSpace true false = .s ∧ (barrierTask [2]).barrierAt 2 0 = some (bankPa 0 0 0) ∧
    (barrierTask [2]).free (fs (.g 1 0) (.m 2 true 0) (.i 1)) ∧ (barrierTask [2]).inv ∧ (barrierTask [2]).unlogged ∧
    (barrierTask [2]).plainWord (.i 0) = some 0 ∧ (barrierTask [2]).plainWord (.i 1) = some 1 ∧ (1 : Word).toNat < 2 ^ 32 ∧
    (barrierTask [2]).plainWord (.i (-1)) = some (-1) ∧ 2 ^ 32 ≤ (-1 : Word).toNat ∧
    episodeDone ((barrierTask [2]).barRead (bankPa 0 0 0)).episode ((-1 : Word).toNat % 2 ^ 32) = true ∧
    episodeDone ((barrierTask [2]).barRead (bankPa 0 0 0)).episode ((1 : Word).toNat % 2 ^ 32) = false := by
  repeat' with_reducible apply And.intro
  all_goals first | decide | exact inv_of (by decide) | exact .inr (by decide) | exact free_of (by decide)

/-- The task on a core whose mailbox counter 15 holds 3, with contexts that wait for it. -/
def countedBy (waiters : List Nat) : State := task.updCore 0 fun c => { c with mail := c.mail.set 15 { Mail.zero with count := 3, waiters } }

/-- The same with none waiting. -/
def counted : State := countedBy []

set_option maxRecDepth 8000 in
theorem wit_MailboxCounters : counted.free (fs (.g 1 0) (.i 15) (.i 3)) ∧ counted.unlogged ∧ counted.plainWord (.i 3) = some 3 ∧
    ((3 : Word).setWidth 32 : BitVec 32) ≠ 0 ∧ ((counted.coreAt counted.now.core).mail[Fin.ofNat 16 (15 : BitVec 21).toNat]).waiters = [] ∧
    ((3 : Word).setWidth 32 : BitVec 32).toNat ≤ ((counted.coreAt counted.now.core).mail[Fin.ofNat 16 (15 : BitVec 21).toNat]).count.toNat ∧
    counted.plainWord (.i 0) = some 0 ∧ ((0 : Word).setWidth 32 : BitVec 32) = 0 ∧ counted.plainWord (.i 4) = some 4 ∧
    ((counted.coreAt counted.now.core).mail[Fin.ofNat 16 (15 : BitVec 21).toNat]).count.toNat < ((4 : Word).setWidth 32 : BitVec 32).toNat ∧
    counted.unfenced ∧ (countedBy [9]).free (fs .none (.i 15) (.i 3)) ∧
    ((countedBy [9]).coreAt (countedBy [9]).now.core).mail[Fin.ofNat 16 (15 : BitVec 21).toNat].waiters = [9] := by
  repeat' with_reducible apply And.intro
  all_goals first | decide | exact free_of (by decide) | exact .inr (by decide) | exact unfenced_of rfl

/-! ## Queues -/

/-- A narrow queue of launch 0 of partition 1, four entries deep. -/
def queue0 : Queue :=
  { pnum := 1, launch := 0, qnum := 0, wide := false, depth := 4, ext := 0, tagged := false, bridged := false, place := .core 0,
    prod := .unbound, cons := .unbound, entries := [], inRing := 0, transit := [], credits := 1, returning := 0, marker := none,
    carrier := .empty, knows := [], pushed := 0, taken := 0, discards := false, reserve := false }

/-- An entry of a kind. -/
def entry (kind : Fin 8) : Entry := { payload := 5, kind, fmark := false, tag := 0 }

/-- The task with q3 bound to an end of queue 0. -/
def queueTask (q : Queue) (prod : Bool) (wpend : Nat := 0) (fenced : Option Coord := none) : State :=
  { (taskWith fun x => { x with qregs := x.qregs.set 3 { QReg.unbound with bound := some (0, prod), wpend, fenced } }) with queues := [(0, q)] }

/-- Queue 0 with entries delivered. -/
def holding (l : List Entry) : Queue := { queue0 with entries := l, inRing := l.length, cons := .task 65536 3 }

theorem consumes_task (q : Queue) : (queueTask q false).consumes 3 0 q := ⟨rfl, rfl, unfenced_of rfl, fun _ he => (nomatch he)⟩

theorem produces_task (q : Queue) (w : Nat) : (queueTask q true w).produces 3 0 q := ⟨rfl, rfl, rfl, fun _ he => (nomatch he), unheld_of rfl⟩

theorem unbound_of {s : State} {r : Fin 16} (prod : Bool) (h : s.now.qregs[r].bound = none) : ∀ n, s.now.qregs[r].bound ≠ some (n, prod) :=
  fun _ hn => nomatch h.symm.trans hn

/-- Queue 0 with entries delivered and the marker of core 1 behind some of them. -/
def marked (l : List Entry) (k : Nat) : Queue := { holding l with marker := some (1, k) }

theorem wit_QueueSources : task.free (fs (.g 1 0) (.q 3) .none) ∧ (∀ n, task.now.qregs[(3 : Fin 16)].bound ≠ some (n, false)) ∧
    (queueTask (holding []) false).free (fs (.g 1 0) (.q 3) .none) ∧ (queueTask (holding []) false).consumes 3 0 (holding []) ∧
    (holding []).marker = none ∧ (holding []).entries = [] ∧
    (queueTask (holding [entry 0]) false).free (fs (.g 1 0) (.q 3) .none) ∧ (queueTask (holding [entry 0]) false).consumes 3 0 (holding [entry 0]) ∧
    (holding [entry 0]).entries = [entry 0] ∧ (holding [entry 0]).inRing ≠ 0 ∧ (entry 0).kind = 0 ∧
    (queueTask (holding [entry 7]) false).consumes 3 0 (holding [entry 7]) ∧ (entry 7).kind ≠ 0 ∧ (entry 7).fmark = false ∧
    (queueTask (marked [] 0) false).consumes 3 0 (marked [] 0) ∧ (marked [] 0).markerAt = some (0, 1) ∧
    (queueTask (holding [entry 0]) false).free (fs (.g 1 0) (.w 3 0) .none) ∧ (holding []).view.length ≤ (15 : Fin 16).val ∧
    (∀ e ∈ (holding [entry 0]).view.take ((0 : Fin 16).val + 1), e.kind = 0) ∧ (holding [entry 0]).view[(0 : Fin 16).val]? = some (entry 0) ∧
    (queueTask (marked [entry 0] 1) false).consumes 3 0 (marked [entry 0] 1) ∧ (1 : Fin 16).val < (marked [entry 0] 1).view.length ∧
    ((marked [entry 0] 1).view.take ((1 : Fin 16).val + 1)).find? (fun e => e.kind != 0) = some (markerEntry 1) := by
  repeat' with_reducible apply And.intro
  all_goals first | decide | exact consumes_task _ | exact unbound_of _ (by decide) | exact free_of (by decide)

theorem wit_QueueDestinations : (∀ n, task.now.qregs[(3 : Fin 16)].bound ≠ some (n, true)) ∧ task.free (fs (.q 3) (.i 9) .none) ∧
    (queueTask queue0 true).plainVec (.i 9) = some 9 ∧ (queueTask queue0 true).free (fs (.q 3) (.i 9) .none) ∧
    (queueTask queue0 true 0 (some 1)).free (fs (.q 3) (.i 9) .none) ∧ (queueTask queue0 true 0 (some 1)).now.qregs[(3 : Fin 16)].bound = some (0, true) ∧
    ((queueTask queue0 true 0 (some 1)).queue? 0).isSome = true ∧ (queueTask queue0 true 0 (some 1)).now.qregs[(3 : Fin 16)].fenced = some 1 ∧
    (queueTask queue0 true 1).produces 3 0 queue0 ∧ (queueTask queue0 true 1).now.qregs[(3 : Fin 16)].wpend ≠ 0 ∧
    (queueTask { queue0 with credits := 0 } true).produces 3 0 { queue0 with credits := 0 } ∧ queue0.discards = false ∧
    (queueTask queue0 true).produces 3 0 queue0 ∧ (queueTask queue0 true).now.qregs[(3 : Fin 16)].wpend = 0 ∧ 1 ≤ queue0.credits ∧
    (queueTask queue0 true).free (fs (.w 3 15) (.i 9) .none) := by
  repeat' with_reducible apply And.intro
  all_goals first | decide | exact free_of (by decide) | exact produces_task _ _ | exact unbound_of _ (by decide)

theorem wit_IntegerOperandsInEveryForm : (queueTask queue0 true).plainWord (.i 1) = some 1 ∧ (queueTask queue0 true).free (fs (.q 3) (.i 1) (.i 1)) ∧
    (queueTask queue0 true).produces 3 0 queue0 ∧ (queueTask queue0 true).now.qregs[(3 : Fin 16)].wpend = 0 ∧ queue0.discards = false ∧
    1 ≤ queue0.credits ∧ (queueTask (holding [entry 0]) false).free (fs (.g 1 0) (.q 3) (.i 1)) ∧
    (∃ sg, (Instr.add (fs (.g 1 0) (.q 3) (.i 1))).sig? = some (fs (.g 1 0) (.q 3) (.i 1), sg)) ∧ isQueueField (.g 1 0) = false ∧
    ∃ a s1 b s2 t, src64 (.q 3) (queueTask (holding [entry 0]) false).stepped = .ok (a, s1) ∧ src64 (.i 1) s1 = .ok (b, s2) ∧
      writeWord (.g 1 0) (a + b) s2 = .ok ((), t) := by
  obtain ⟨a, s1, h1, _⟩ := ok_of (r := src64 (.q 3) (queueTask (holding [entry 0]) false).stepped) (f := fun _ _ => true) (by decide)
  repeat' with_reducible apply And.intro
  all_goals first | decide | exact produces_task _ _ | exact unbound_of _ (by decide) | exact ⟨_, rfl⟩ | exact ⟨a, s1, 1, s1, _, h1, rfl, rfl⟩ | exact free_of (by decide)

/-- The task whose q3 takes from queue 0 and whose q4 pushes to queue 1. -/
def between : State :=
  { (queueTask (holding [entry 0]) false).updCtx 65536 fun x => { x with qregs := x.qregs.set 4 { QReg.unbound with bound := some (1, true) } } with
    queues := [(0, holding [entry 0]), (1, queue0)] }

theorem wit_IntegerOperandsInEveryForm_queues : between.free (fs (.q 4) (.q 3) .none) ∧
    ∃ sg a s1 t, (Instr.neg (fs (.q 4) (.q 3) .none)).sig? = some (fs (.q 4) (.q 3) .none, sg) ∧
      queuesReady sg (fs (.q 4) (.q 3) .none) between.stepped = .ok ((), between.stepped) ∧
      src64 (.q 3) between.stepped = .ok (a, s1) ∧ writeWord (.q 4) (-a) s1 = .ok ((), t) :=
  ⟨free_of (by decide), _, _, _, _, rfl, rfl, rfl, rfl⟩

/-- The launch of the task, with queue 0 as QNUM 0. -/
def launch0 : Launch :=
  { pnum := 1, number := 0, vf := 0, qid := 0, cell := 0, utag := 0, stages := [], companies := [(0, 0)], queues := [(0, 0)], reps := [],
    killCode := none, cancelled := false, dying := false, defHandler := false, todo := [], mode := 0, digest := 0, orpb := 0, anywhere := false }

/-- The task with its launch and queue 0. -/
def binder (q : Queue) : State := { task with launches := [(launchKey 1 0, launch0)], queues := [(0, q)] }

/-- Queue 0, its producer end an operator's of die 1. -/
def farQueue : Queue := { queue0 with prod := .port 400 16 }

theorem wit_QueueEnds : (binder queue0).free (fs (.g 1 0) (.q 3) (.i 0)) ∧ (binder queue0).plainWord (.i 0x2000) = some 0x2000 ∧
    ((0x2000 : Word) &&& ~~~0x1FFF ≠ 0) ∧ (binder queue0).plainWord (.i 0x1000) = some 0x1000 ∧ ((0x1000 : Word) &&& ~~~0x1FFF = 0) ∧
    (queueTask queue0 true).free (fs (.g 1 0) (.q 3) (.i 0)) ∧ (queueTask queue0 true).now.qregs[(3 : Fin 16)].bound.isSome = true ∧
    (binder queue0).now.qregs[(3 : Fin 16)].bound = none ∧ task.launches.look (launchKey (gtidPnum task.now.gtid) (gtidLaunch task.now.gtid)) = none ∧
    (binder queue0).launches.look (launchKey (gtidPnum (binder queue0).now.gtid) (gtidLaunch (binder queue0).now.gtid)) = some launch0 ∧
    launch0.queues.look ((0xFFF : Word).extractLsb' 0 12).toNat = none ∧ launch0.queues.look ((0x1000 : Word).extractLsb' 0 12).toNat = some 0 ∧
    (binder queue0).queue? 0 = some queue0 ∧ queue0.prod.isBound = false ∧ queue0.cons.isBound = false ∧
    (binder (holding [])).queue? 0 = some (holding []) ∧ (holding []).cons.isBound = true ∧ queue0.bridged = false ∧
    queue0.prod.acrossDies (binder queue0).now.core = false ∧ (binder farQueue).queue? 0 = some farQueue ∧ farQueue.cons.isBound = false ∧
    farQueue.prod.acrossDies (binder farQueue).now.core = true ∧
    (((binder queue0).stepped.updQueue 0 fun q => { q with place := .unplaced }).placeFor queue0 (binder queue0).now.next) = none := by
  repeat' with_reducible apply And.intro
  all_goals first | decide | exact free_of (by decide)

theorem wit_QueueEnds_freed : task.free (fs .none (.q 3) .none) ∧ task.now.qregs[(3 : Fin 16)].bound = none ∧
    (queueTask (holding []) false).free (fs .none (.q 3) .none) ∧ (queueTask (holding []) false).consumes 3 0 (holding []) ∧
    (queueTask queue0 true).free (fs .none (.q 3) .none) ∧ (queueTask queue0 true).now.qregs[(3 : Fin 16)].bound = some (0, true) ∧
    (queueTask queue0 true).queue? 0 = some queue0 ∧ (∀ e ∈ (queueTask queue0 true).ops, ∀ c a x l k g, e.2.body ≠ .toQueue c a x l k 0 g) := by
  repeat' with_reducible apply And.intro
  all_goals first | decide | exact consumes_task _ | exact fun _ he => (nomatch he) | exact free_of (by decide)

/-- Queue 0, its producer end bound to q4 of the task: its storage is on the core. -/
def nearQueue : Queue := { queue0 with prod := .task 65536 4 }

theorem wit_QueueEnds_placed : (binder nearQueue).free (fs (.g 1 0) (.q 3) (.i 0)) ∧ (binder nearQueue).queue? 0 = some nearQueue ∧
    nearQueue.cons.isBound = false ∧ nearQueue.prod.isBound = true ∧
    ((binder nearQueue).stepped.updQueue 0 fun q => { q with place := .unplaced }).placeFor nearQueue (binder nearQueue).now.next = some (.core 0) :=
  ⟨free_of (by decide), by decide, by decide, by decide, by decide⟩

theorem wit_QueueInstructions : (∀ m, task.now.qregs[(3 : Fin 16)].bound ≠ some (m, false)) ∧ task.free (fs (.i 3) (.q 3) (.i 5)) ∧
    (queueTask (marked [] 0) false).free (fs (.g 1 0) (.q 3) (.p 7)) ∧ (queueTask (marked [] 0) false).consumes 3 0 (marked [] 0) ∧
    (marked [] 0).markerAt = some (0, 1) ∧ (queueTask (marked [] 0) false).free (fs .none (.q 3) (.i 1)) ∧ (1 : BitVec 21).toNat ≠ 0 ∧
    (1 : BitVec 21).toNat ≤ (marked [] 0).entries.length + 1 ∧
    (queueTask (holding [entry 0]) false).free (fs .none (.q 3) (.i 1)) ∧
    (queueTask (holding [entry 0]) false).consumes 3 0 (holding [entry 0]) ∧ (holding [entry 0]).marker = none ∧
    (1 : BitVec 21).toNat ≤ (holding [entry 0]).entries.length ∧ (∀ e ∈ (holding [entry 0]).entries.take (1 : BitVec 21).toNat, e.kind = 0) ∧
    (holding [entry 0]).entries.length < (2 : BitVec 21).toNat ∧ (holding [entry 0]).inRing ≠ 0 ∧
    (queueTask (holding [entry 0]) false).free (fs (.g 1 0) (.q 3) (.p 7)) ∧ (queueTask (holding [entry 3]) false).free (fs (.i 3) (.q 3) (.i 5)) ∧
    (queueTask (holding [entry 3]) false).consumes 3 0 (holding [entry 3]) ∧ (entry 3).fmark = false ∧ (entry 3).kind.val = (3 : BitVec 21).toNat ∧
    (entry 3).kind ≠ 0 ∧ (2 : BitVec 21).toNat < (entry 3).kind.val ∧ (entry 3).kind.val < (4 : BitVec 21).toNat ∧
    (queueTask queue0 true).free (fs (.q 3) (.i 1) .none) ∧ (queueTask queue0 true).produces 3 0 queue0 ∧ queue0.discards = false ∧
    (1 : BitVec 21).toNat ≤ queue0.credits ∧ queue0.credits < (2 : BitVec 21).toNat ∧ (7 : BitVec 21).toNat < 8 ∧ 1 ≤ queue0.credits ∧
    (queueTask queue0 true).now.qregs[(3 : Fin 16)].wpend = 0 ∧ (queueTask queue0 true).free (fs (.q 3) (.g 1 0) (.i 7)) ∧
    (queueTask queue0 true).free (fs .none (.q 3) (.i 1)) ∧ (queueTask queue0 true).free (fs (.g 1 0) (.q 3) .none) := by
  repeat' with_reducible apply And.intro
  all_goals first | decide | exact free_of (by decide) | exact consumes_task _ | exact produces_task _ _ | exact unbound_of _ (by decide)

/-! ## Futures and cells -/

/-- A copy of the task, and the task with its handle in g4 under a future tag. -/
def copyOp : EngOp := task.newOp 0 (.copy 0 0 false false none 0 { src := 0, dst := 0, len := 1, rows := 1, planes := 1, srcRow := 0, srcPlane := 0,
                                                                    dstRow := 0, dstPlane := 0 })

def futureTask (ft : BitVec 2) (word : Word) : State :=
  { (taskWith fun x => { x with g := x.g.set 4 (word.setWidth 256), ft := x.ft.set 4 ft }) with ops := [(7, copyOp)] }

theorem settled_none (x : Ctx) : x.settled .none := by intro r h; cases h
theorem settled_i (x : Ctx) (v : BitVec 21) : x.settled (.i v) := by intro r h; cases h
theorem settled_p (x : Ctx) (v : Fin 8) : x.settled (.p v) := by intro r h; cases h

theorem wit_FuturesInRegisters : (fs (.p 7) (.g 4 0) .none).a = .g 4 0 ∧ (futureTask 1 copyOp.handle).now.guard plainHdr = true ∧
    (futureTask 1 copyOp.handle).now.settled (.p 7) ∧ (futureTask 1 copyOp.handle).now.settled .none ∧
    (futureTask 1 copyOp.handle).now.ft[(4 : Fin 16)] = 1 ∧ (futureTask 0 5).now.ft[(4 : Fin 16)] = 0 ∧ (futureTask 0 5).now.fut.look 4 = none ∧
    (futureTask 2 5).now.ft[(4 : Fin 16)] = 2 ∧ (futureTask 3 5).now.ft[(4 : Fin 16)] = 3 ∧
    (futureTask 1 copyOp.handle).opOf (((futureTask 1 copyOp.handle).now.g[(4 : Fin 16)]).setWidth 64) = some (7, copyOp) := by
  repeat' with_reducible apply And.intro
  all_goals first | decide | rfl | exact settled_p _ _ | exact settled_none _

/-- Any field of any form. -/
theorem wit_FuturesInRegisters_pending : (∃ sg, (Instr.add (fs (.g 1 0) (.g 4 0) (.g 2 0))).sig? = some (fs (.g 1 0) (.g 4 0) (.g 2 0), sg) ∧
      hasExt (futureTask 1 copyOp.handle).now.core sg.ext = true) ∧
    fieldsPass (.add (fs (.g 1 0) (.g 4 0) (.g 2 0))) (futureTask 1 copyOp.handle) ∧ (futureTask 1 copyOp.handle).now.guard plainHdr = true ∧
    (∀ g, Instr.add (fs (.g 1 0) (.g 4 0) (.g 2 0)) ≠ .tret g ∧ Instr.add (fs (.g 1 0) (.g 4 0) (.g 2 0)) ≠ .ovret g ∧
      Instr.add (fs (.g 1 0) (.g 4 0) (.g 2 0)) ≠ .gets g ∧ Instr.add (fs (.g 1 0) (.g 4 0) (.g 2 0)) ≠ .sets g) ∧
    (∀ e ∈ formatsAccepted, Instr.add (fs (.g 1 0) (.g 4 0) (.g 2 0)) = e.1 (fs (.g 1 0) (.g 4 0) (.g 2 0)) → (futureTask 1 copyOp.handle).now.fmtCode ∈ e.2) ∧
    (futureTask 1 copyOp.handle).now.ft[(4 : Fin 16)] = 1 ∧ regOf (.g 4 0) = some 4 ∧
    Instr.add (fs (.g 1 0) (.g 4 0) (.g 2 0)) ≠ .fwait (fs (.g 1 0) (.g 4 0) (.g 2 0)) := by
  refine ⟨⟨_, rfl, by decide⟩, trivial, by decide, fun g => by simp, ?_, by decide, by decide, by simp⟩
  simp [formatsAccepted, elementwise, elementwise1, elementShifts]

/-- The task at the home of a cell at address 0, which a line holds. -/
def cellTask (c : Cell) : State :=
  { translated with lines := [(0, { line0 true with data := BitVec.ofNat 512 (leValue c.bytes) })] }

def pendingCell : Cell := { fcode := 0, cont := 0, join := 1, state := 0, val := 0 }
def resolvedCell : Cell := { fcode := 0, cont := 0, join := 0, state := 1, val := 7 }

theorem cellReady_of (s : State) (h : How) (sync : Bool) (l : Leaf) (ln : Line) (h1 : goesUnder s 0 true l = true)
    (h2 : noHome l.entry = false ∧ leafWb l.entry = false ∧ l.pa 0 = 0)
    (h3 : s.now.streaked = 1 ∧ s.now.arrived = true ∧ s.now.probed = none ∧ s.held = []) (h4 : s.inv) (h5 : s.unlogged)
    (h6 : s.lines.look 0 = some ln ∧ ln.poison = false)
    (h7 : raceCheck ln.stamp (gtidLaunch s.now.gtid) (gtidTag s.now.gtid) s.now.know { mask := byteMask 0 16, write := h.write, sync } = none) :
    s.cellReady h sync 0 l := by
  obtain ⟨a1, a2, a3⟩ := h2
  obtain ⟨b1, b2, b3, b4⟩ := h3
  refine ⟨by decide, xlated_of h1, a1, a2, .inl (by omega), .inl b2, b3, unheld_of b4, h4, h5, .inl ⟨ln, ?_, h6.2, .inr (.inr ?_)⟩⟩
  · rw [a3]; exact h6.1
  · rw [a3]; exact h7

set_option maxRecDepth 8000 in
theorem cellTask_ready (c : Cell) (h : How) (sync : Bool) : (cellTask c).cellReady h sync 0 leaf0 :=
  cellReady_of _ _ _ _ { line0 true with data := BitVec.ofNat 512 (leValue c.bytes) } rfl (by decide) ⟨rfl, rfl, rfl, rfl⟩
    ⟨(by decide : Memory.wf translated.mem = true), (by decide : Tbl.wf translated.ctxs = true), rfl, rfl, rfl,
      companies_of (by decide : translated.clusters.all (fun (e : Nat × Cluster) => Tbl.wf e.2.companies) = true)⟩
    (.inr rfl) ⟨rfl, rfl⟩ rfl

set_option maxRecDepth 8000 in
theorem wit_FutureCells : mSpace false false = .g ∧ (cellTask pendingCell).plainWord (.i 63) = some 63 ∧
    (cellTask pendingCell).free (fs (.m 2 false 0) (.i 63) .none) ∧ operandAddr (cellTask pendingCell) 2 0 16 = 0 ∧
    (∀ h sync, (cellTask pendingCell).cellReady h sync 0 leaf0) ∧ (cellOf ((cellTask pendingCell).cellBytes 0 leaf0)).state = 0 ∧
    (∀ h sync, (cellTask resolvedCell).cellReady h sync 0 leaf0) ∧ (cellOf ((cellTask resolvedCell).cellBytes 0 leaf0)).state ≠ 0 ∧
    (based 8).free (fs (.m 2 false 0) (.i 64) .none) ∧ operandAddr (based 8) 2 0 16 % 16 ≠ 0 ∧ (63 < (64 : Word).toNat) := by
  repeat' with_reducible apply And.intro
  all_goals first | decide | exact free_of (by decide) | exact fun h sync => cellTask_ready _ h sync

/-- The task with a resolution word in g4, at the home of a pending cell. -/
def exporter (ft : BitVec 2) (word : Word) : State :=
  (cellTask pendingCell).updCtx 65536 fun x => { x with g := x.g.set 4 (word.setWidth 256), ft := x.ft.set 4 ft }

set_option maxRecDepth 8000 in
theorem exporter_ready (ft : BitVec 2) (word : Word) (h : How) (sync : Bool) : (exporter ft word).cellReady h sync 0 leaf0 :=
  cellReady_of _ _ _ _ { line0 true with data := BitVec.ofNat 512 (leValue pendingCell.bytes) } rfl (by decide) ⟨rfl, rfl, rfl, rfl⟩
    ⟨(by decide : Memory.wf translated.mem = true), rfl, rfl, rfl, rfl,
      companies_of (by decide : translated.clusters.all (fun (e : Nat × Cluster) => Tbl.wf e.2.companies) = true)⟩
    (.inr rfl) ⟨rfl, rfl⟩ rfl

set_option maxRecDepth 8000 in
theorem wit_ExportedFutures : mSpace false false = .g ∧ (futureTask 1 copyOp.handle).now.guard plainHdr = true ∧
    (futureTask 1 copyOp.handle).now.settled .none ∧ operandAddr (futureTask 1 copyOp.handle) 2 0 16 % 16 = 0 ∧
    (futureTask 1 copyOp.handle).now.ft[(4 : Fin 16)] = 1 ∧
    ((futureTask 1 copyOp.handle).ops.find? fun e => e.2.handle == ((futureTask 1 copyOp.handle).now.g[(4 : Fin 16)]).setWidth 64) = some (7, copyOp) ∧
    (∀ ft word h sync, (exporter ft word).cellReady h sync 0 leaf0) ∧ (exporter 2 5).now.ft[(4 : Fin 16)] = 2 ∧ (exporter 2 5).now.fut.look 4 = none ∧
    (cellOf ((exporter 2 5).cellBytes 0 leaf0)).state = 0 ∧ (exporter 3 5).now.ft[(4 : Fin 16)] = 3 ∧ (exporter 0 5).now.ft[(4 : Fin 16)] = 0 ∧
    ((5 : Word).extractLsb' 62 2 : BitVec 2) ≠ 1 ∧ ((0x4000000000000005 : Word).extractLsb' 62 2 : BitVec 2) = 1 := by
  repeat' with_reducible apply And.intro
  all_goals first | decide | exact settled_none _ | exact fun ft word h sync => exporter_ready ft word h sync

/-- The task with a value in g4 that its operation gave and that it has not observed. -/
def unobserved : State := taskWith fun x => { x with fut := [(4, x.carried)] }

theorem wit_FuturesInRegisters_observed : unobserved.observes 4 ∧ unobserved.now.ft[(4 : Fin 16)] = 0 ∧ unobserved.plainWord (.i 2) = some 2 ∧
    unobserved.now.guard plainHdr = true ∧ unobserved.now.settled .none ∧ task.observes 4 ∧ (futureTask 1 5).opOf 5 = none ∧
    (based 8).now.guard plainHdr = true ∧ operandAddr (based 8) 2 0 16 % 16 ≠ 0 := by
  repeat' with_reducible apply And.intro
  all_goals first | decide | exact settled_none _ | exact .inr (unfenced_of rfl) | exact .inl (by decide)

theorem wit_FutureCells_absent (h : How) (sync : Bool) : bypassing.cellReady h sync 0 bypassLeaf :=
  ⟨by decide, xlated_of (by decide), by decide, by decide, .inl (by decide), .inl (by decide), by decide, unheld_of rfl, inv_of (by decide),
    .inr (by decide), .inr ⟨by decide, by decide⟩⟩

/-! ## Tasks, the box office, engines and operators -/

/-- A company of the task's group with a claim and slots. -/
def company0 (claim : Triple) (slots : List (Coord × Nat)) : Company := { Company.fresh 1 0 false claim with slots }

/-- The task, with companies of its cluster, its partition's pitch on clusters 0 and 1, and an image. -/
def placed (co : Company) : State :=
  { (pitched.updPart 1 fun p => { p with pitch := 3 }).updCluster 0 fun c => { c with companies := [(0, co)] } with
    images := [(0, { base := 0, nunits := 4, entries := [0, 2], code := [] })] }

def oneSlot : Triple := { slots := 1, banks := 0, tiles := 0 }
def threeSlots : Triple := { slots := 3, banks := 0, tiles := 0 }

/-- Entry 1 on the task's own core, copying g1. -/
def spawnWord : Word := 0xFFFF + 1 * 2 ^ 16 + 1 * 2 ^ 22 + 1 * 2 ^ 26

/-- Its company holds slots 1 and 2 of its core. -/
def spawner : State := placed (company0 threeSlots [(0, 1), (0, 2)])

/-- The image of the task. -/
def image0 : Image := { base := 0, nunits := 4, entries := [0, 2], code := [] }

theorem spawner_ready : spawner.spawnReady spawnWord 0 2 image0 (company0 threeSlots [(0, 1), (0, 2)]) := by
  unfold State.spawnReady
  repeat' with_reducible apply And.intro
  all_goals first | exact unheld_of rfl | decide

theorem wit_SpawnMakesTask : spawner.plainWord (.g 1 0) = some 0 ∧ spawner.free (fs (.g 1 0) (.g 6 0) .none) ∧ spawner.now.task = true ∧
    ((2 ^ 32 : Word).extractLsb' 32 32 ≠ 0) ∧ 16 < ((15 * 2 ^ 22 + 2 * 2 ^ 26 : Word).extractLsb' 22 4).toNat + ((15 * 2 ^ 22 + 2 * 2 ^ 26 : Word).extractLsb' 26 5).toNat ∧
    spawner.spawnReady spawnWord 0 2 image0 (company0 threeSlots [(0, 1), (0, 2)]) ∧
    spawner.images.look spawner.now.img.toNat = some image0 ∧ ((4 + 2 ^ 16 : Word).extractLsb' 16 6).toNat < image0.entries.length ∧
    (∀ im, task.images.look task.now.img.toNat = some im → im.entries.length ≤ 0) ∧ task.plainWord (.i 0) = some 0 ∧
    task.free (fs (.g 1 0) (.i 0) .none) ∧ task.now.task = true ∧
    (coordValid 4 && (spawner.part (spawner.pnumOf spawner.now)).pitch.getLsbD (clusterOf 4)) = true ∧ spawner.groupCompany? spawner.now (clusterOf 4) = none ∧
    (coordValid 0x31CA && (spawner.part (spawner.pnumOf spawner.now)).pitch.getLsbD (clusterOf 0x31CA)) = false := by
  repeat' with_reducible apply And.intro
  all_goals first | decide | exact spawner_ready | exact fun _ h => nomatch h | exact free_of (by decide)

/-- A task that copies a pending register to its child. -/
def spawnerPending : State := spawner.updCtx 65536 fun x => { x with g := x.g.set 6 (spawnWord.setWidth 256), ft := x.ft.set 1 1 }

theorem wit_FuturesInRegisters_spawn : spawnerPending.plainWord (.g 6 0) = some spawnWord ∧ spawnerPending.free (fs (.g 7 0) (.g 6 0) .none) ∧
    spawnWord.extractLsb' 32 32 = 0 ∧ noEntry spawnerPending spawnWord = false ∧
    (spawnWord.extractLsb' 22 4).toNat + (spawnWord.extractLsb' 26 5).toNat ≤ 16 ∧ spawnWord.extractLsb' 0 16 = (0xFFFF : BitVec 16) ∧
    (coordValid spawnerPending.now.core && (spawnerPending.part (spawnerPending.pnumOf spawnerPending.now)).pitch.getLsbD (clusterOf spawnerPending.now.core)) = true ∧
    (∃ co, spawnerPending.groupCompany? spawnerPending.now (clusterOf spawnerPending.now.core) = some co) ∧
    (spawnWord.extractLsb' 22 4).toNat ≤ (1 : Fin 16).val ∧ (1 : Fin 16).val < (spawnWord.extractLsb' 22 4).toNat + (spawnWord.extractLsb' 26 5).toNat ∧
    spawnerPending.now.ft[(1 : Fin 16)] = 1 := by
  repeat' with_reducible apply And.intro
  all_goals first | decide | exact free_of (by decide) | exact ⟨_, rfl⟩

/-- The task at the home of a cell of address 0, its company holding a second slot of its core. -/
def parker (c : Cell) : State :=
  { spawner.updCtx 65536 fun x => { x with leaves := [leaf0], streaked := 1, arrived := true } with
    lines := [(0, { line0 true with data := BitVec.ofNat 512 (leValue c.bytes) })] }

theorem parker_wf : (spawner.updCtx 65536 fun x => { x with leaves := [leaf0], streaked := 1, arrived := true }).clusters.all
    (fun (e : Nat × Cluster) => Tbl.wf e.2.companies) = true := by decide

set_option maxRecDepth 8000 in
theorem parker_ready (c : Cell) (h : How) (sync : Bool) : (parker c).cellReady h sync 0 leaf0 :=
  cellReady_of _ _ _ _ { line0 true with data := BitVec.ofNat 512 (leValue c.bytes) } rfl (by decide) ⟨rfl, rfl, rfl, rfl⟩
    ⟨(by decide : Memory.wf spawner.mem = true), rfl, rfl, rfl, rfl, companies_of parker_wf⟩ (.inr rfl) ⟨rfl, rfl⟩ rfl

def continuedCell : Cell := { pendingCell with cont := 9 }

theorem parker_spawns {c : Cell} (h : c ∈ [pendingCell, resolvedCell, continuedCell]) :
    (parker c).spawnReady 0 0 2 image0 (company0 threeSlots [(0, 1), (0, 2)]) := by
  simp only [List.mem_cons, List.not_mem_nil, or_false] at h
  unfold State.spawnReady
  rcases h with rfl | rfl | rfl
  all_goals repeat' with_reducible apply And.intro
  all_goals first | exact unheld_of rfl | decide

set_option maxRecDepth 8000 in
theorem wit_ContinuationOfCell : mSpace false false = .g ∧ (parker pendingCell).plainWord (.g 6 0) = some 0 ∧
    (parker pendingCell).free (fs (.g 7 0) (.m 2 false 0) (.g 6 0)) ∧ (parker pendingCell).now.task = true ∧
    (∀ c h sync, (parker c).cellReady h sync 0 leaf0) ∧ (cellOf ((parker pendingCell).cellBytes 0 leaf0)).cont = 0 ∧
    (cellOf ((parker pendingCell).cellBytes 0 leaf0)).state = 0 ∧ (cellOf ((parker resolvedCell).cellBytes 0 leaf0)).cont = 0 ∧
    (cellOf ((parker resolvedCell).cellBytes 0 leaf0)).state ≠ 0 ∧ (cellOf ((parker continuedCell).cellBytes 0 leaf0)).cont ≠ 0 ∧
    operandAddr (parker pendingCell) 2 0 16 = 0 ∧ operandAddr (based 8) 2 0 16 % 16 ≠ 0 ∧ (based 8).now.task = true ∧
    (based 8).free (fs (.g 7 0) (.m 2 false 0) (.g 6 0)) ∧
    (∀ c ∈ [pendingCell, resolvedCell, continuedCell], (parker c).spawnReady 0 0 2 image0 (company0 threeSlots [(0, 1), (0, 2)])) := by
  repeat' with_reducible apply And.intro
  all_goals first | decide | exact fun c h sync => parker_ready c h sync | exact fun _ => parker_spawns | exact free_of (by decide)

/-- The task may go to a core of its cluster, and to one of another where its group has a company. -/
def mover : State := (placed (company0 threeSlots [(0, 1), (3, 2)])).updCluster 1 fun c => { c with companies := [] }

theorem wit_MigrateMovesTask : mover.free (fs (.g 1 0) (.i 0) .none) ∧ mover.plainWord (.i (-1)) = some (-1) ∧ ((-1 : Word).extractLsb' 17 47 ≠ 0) ∧
    mover.plainWord (.i 0xFFFF) = some 0xFFFF ∧ ((0xFFFF : Word).extractLsb' 17 47 = 0) ∧ mover.now.task = true ∧
    mover.plainWord (.i 3) = some 3 ∧ ((3 : Word).extractLsb' 17 47 = 0) ∧ coordValid 3 = true ∧
    (mover.part (mover.pnumOf mover.now)).pitch.getLsbD (clusterOf 3) = true ∧ (3 : Coord) ≠ mover.now.core ∧ mover.migrateCode 3 = 0 ∧
    mover.now.asyncs = [] ∧ mover.myReq (clusterOf 3) (.slot 3) = none ∧ mover.heldSlot (clusterOf 3) mover.now.company.toNat 3 = some 2 ∧
    coordValid 4 = true ∧ (mover.part (mover.pnumOf mover.now)).pitch.getLsbD (clusterOf 4) = true ∧ (4 : Coord) ≠ mover.now.core ∧
    mover.migrateCode 4 = 6 ∧ (taskWith fun x => { x with pinned := true }).migrateCode 4 = 1 ∧ coordValid 1 = true ∧ mover.migrateCode 1 = 0 ∧
    clusterOf 1 = clusterOf mover.now.core ∧ mover.heldSlot (clusterOf 1) mover.now.company.toNat 1 = none := by
  repeat' with_reducible apply And.intro
  all_goals first | decide | exact free_of (by decide)

/-- Two companies whose claims a further grant would leave unfinishable. -/
def tight : State :=
  (placed (company0 { slots := 120, banks := 0, tiles := 0 } ((List.range 69).map fun i => ((clusterCores 0).getD (1 + i / 15) 0, 1 + i % 15)))).updCluster 0
    fun c => { c with companies := c.companies.put 1 (company0 { slots := 50, banks := 0, tiles := 0 } [(0, 15)]) }

set_option maxRecDepth 8000 in
theorem wit_ClaimsAreSafe : spawner.free (fs (.g 1 0) (.i 0) .none) ∧ spawner.plainWord (.i 0) = some 0 ∧
    120 < (claimOf 121).slots ∧ 32 < (claimOf (33 * 2 ^ 8)).banks ∧ 16 < (claimOf (17 * 2 ^ 16)).tiles ∧
    ((claimOf 120).slots ≤ 120 ∧ (claimOf 120).banks ≤ 32 ∧ (claimOf 120).tiles ≤ 16) ∧
    (coordValid 0 && cDie 0 == cDie spawner.now.core && (spawner.part (spawner.pnumOf spawner.now)).pitch.getLsbD (clusterOf 0)) = true ∧
    spawner.company? 0 0 = some (company0 threeSlots [(0, 1), (0, 2)]) ∧
    (company0 threeSlots [(0, 1), (0, 2)]).inGroup (gtidPnum spawner.now.gtid) (gtidLaunch spawner.now.gtid) = true ∧
    { company0 threeSlots [] with launch := 5 }.inGroup (gtidPnum spawner.now.gtid) (gtidLaunch spawner.now.gtid) = false ∧
    (coordValid 100 && cDie 100 == cDie spawner.now.core && (spawner.part (spawner.pnumOf spawner.now)).pitch.getLsbD (clusterOf 100)) = false ∧
    spawner.company? 1 0 = none ∧ (spawner.clusterAt 1).companies.length < 16 ∧
    (let c' : Cluster := { spawner.clusterAt 0 with companies := (spawner.clusterAt 0).companies.put 0 { company0 threeSlots [(0, 1), (0, 2)] with claim := claimOf 120 } }
     ((c'.holdings 0).le (claimOf 120) && c'.safe (fun i => ((c'.companies.look i).map Company.claim).getD .zero) c'.holdings) = true) ∧
    (let c' : Cluster := { spawner.clusterAt 0 with companies := (spawner.clusterAt 0).companies.put 0 { company0 threeSlots [(0, 1), (0, 2)] with claim := claimOf 1 } }
     ((c'.holdings 0).le (claimOf 1) && c'.safe (fun i => ((c'.companies.look i).map Company.claim).getD .zero) c'.holdings) = false) := by
  repeat' with_reducible apply And.intro
  all_goals first | decide | exact free_of (by decide)

/-- A request word for slots on the task's own core. -/
def slotsWord (n : Word) : Word := n + 0xFFFF * 2 ^ 32

set_option maxRecDepth 8000 in
theorem wit_BoxOfficeRequests : spawner.free (fs (.g 1 0) (.g 6 0) (.p 1)) ∧ spawner.free (fs (.g 1 0) (.g 6 0) .none) ∧ spawner.plainWord (.g 6 0) = some 0 ∧
    requestBad (33 * 2 ^ 8) 0 = true ∧ requestBad (slotsWord 1) 0 = false ∧ spawner.plainWord (.i 0x10000) = some 0x10000 ∧
    0 < (requestOf 0x10000).tiles ∧ isTile ((0x10000 : Word).extractLsb' 32 16) = false ∧ spawner.free (fs (.g 1 0) (.i 0x10000) (.p 1)) ∧
    (coordValid 0 && cDie 0 == cDie spawner.now.core && (spawner.part (spawner.pnumOf spawner.now)).pitch.getLsbD (clusterOf 0)) = true ∧
    (spawner.groupCompany? spawner.now 0).isSome = true ∧ spawner.myReq 0 (.acq (slotsWord 1)) = none ∧ requestOf (slotsWord 0) = .zero ∧
    requestOf (slotsWord 1) ≠ .zero ∧ spawner.boxBusy 0 = false ∧ spawner.detoured = false ∧
    (spawner.clusterAt 0).boxCheck 0 (requestOf (slotsWord 2)) 0 false = .exceeded ∧
    (spawner.clusterAt 0).boxCheck 0 (requestOf (slotsWord 1)) 0 false = .granted ∧ (requestOf (slotsWord 1)).banks = 0 ∧
    spawner.company? 0 0 = some (company0 threeSlots [(0, 1), (0, 2)]) ∧
    (tight.clusterAt 0).boxCheck 0 (requestOf (slotsWord 2)) 0 false = .notSafe ∧ tight.free (fs (.g 1 0) (.g 6 0) (.p 1)) ∧
    (tight.groupCompany? tight.now 0).isSome = true ∧ tight.myReq 0 (.acq (slotsWord 2)) = none ∧ tight.boxBusy 0 = false ∧ tight.detoured = false := by
  repeat' with_reducible apply And.intro
  all_goals first | decide | exact free_of (by decide)

/-- The company claims a bank. -/
def banker : State := placed (company0 { slots := 3, banks := 2, tiles := 0 } [(0, 1), (0, 2)])

/-- The company claims a bank, and a request of the task's for one has been granted, without switches still to come. -/
def granted : State :=
  banker.updCluster 0 fun c => { c with
    reqs := [{ key := 65536, company := 0, want := .acq (slotsWord (2 ^ 8 + 2 ^ 14)), waits := true, phase := .granted 0 0 0, redecide := false }] }

set_option maxRecDepth 8000 in
theorem wit_BoxOfficeRequests_banks : banker.free (fs (.g 1 0) (.g 6 0) (.p 1)) ∧ requestBad (slotsWord (2 ^ 8 + 2 ^ 14)) 0 = false ∧
    (banker.groupCompany? banker.now 0).isSome = true ∧ banker.myReq 0 (.acq (slotsWord (2 ^ 8 + 2 ^ 14))) = none ∧ banker.boxBusy 0 = false ∧
    (banker.clusterAt 0).boxCheck 0 (requestOf (slotsWord (2 ^ 8 + 2 ^ 14))) 0 false = .granted ∧ (requestOf (slotsWord (2 ^ 8 + 2 ^ 14))).banks ≠ 0 ∧
    (granted.myReq 0 (.acq (slotsWord (2 ^ 8 + 2 ^ 14)))).map BoxReq.phase = some (.granted 0 0 0) ∧ (granted.clusterAt 0).switched 0 0 = true := by
  repeat' with_reducible apply And.intro
  all_goals first | decide | exact free_of (by decide)

/-- The word of g4 names slots to return, or a core. -/
def releaser (w : Word) : State := spawner.updCtx 65536 fun x => { x with g := x.g.set 4 (w.setWidth 256) }

theorem wit_ReleasesAndSnapshots : (releaser (slotsWord 4)).unheld ∧
    (releaser (slotsWord 4)).free (fs .none (.g 4 0) .none) ∧
    (coordValid 0 && cDie 0 == cDie (releaser 0).now.core && ((releaser 0).part ((releaser 0).pnumOf (releaser 0).now)).pitch.getLsbD (clusterOf 0)) = true ∧
    ((releaser (slotsWord 4)).groupCompany? (releaser (slotsWord 4)).now 0).isSome = true ∧
    ((List.range 16).filter fun i => (((releaser (slotsWord 4)).now.g[(4 : Fin 16)]).setWidth 64 : Word).getLsbD i) = [2] ∧
    (releaser (slotsWord 4)).relOk 0 0 ((releaser (slotsWord 4)).groupCompany? (releaser (slotsWord 4)).now 0) 0 [2] [] [] = true ∧
    (releaser (slotsWord 2)).relOk 0 0 ((releaser (slotsWord 2)).groupCompany? (releaser (slotsWord 2)).now 0) 0 [1] [] [] = false ∧
    (releaser (slotsWord 4)).engQueue 0 4 = [] ∧
    (releaser 0xFFFF).free (fs (.g 1 0) (.g 4 0) .none) ∧ (laneOf (releaser 0xFFFF).now.g[(4 : Fin 16)] 0).extractLsb' 0 16 = (0xFFFF : BitVec 16) := by
  repeat' with_reducible apply And.intro
  all_goals first | decide | exact unheld_of rfl | exact free_of (by decide)

/-- The task with a control word in lane 1 of g9. -/
def copier (ctl : Word) : State := pitched.updCtx 65536 fun x => { x with g := x.g.set 9 (setLane 0 1 ctl) }

/-- The control word of a copy or message of the executing context. -/
def ctlOf (s : State) : Word := laneOf s.now.g[(9 : Fin 16)] 1

theorem wit_EngineOperationsAreEnqueued : (copier 64).free (fs (.g 7 0) (.m 8 true 0) (.g 9 0)) ∧ (ctlOf (copier 64)).extractLsb' 29 35 = 0 ∧
    (ctlOf (copier 64)).extractLsb' 24 2 ≠ (3 : BitVec 2) ∧ (ctlOf (copier (2 ^ 29))).extractLsb' 29 35 ≠ 0 ∧
    (ctlOf (copier (3 * 2 ^ 24))).extractLsb' 24 2 = (3 : BitVec 2) ∧ (copier 64).remoteOk ((copier 64).now.g[(9 : Fin 16)].extractLsb' 128 32) = true ∧
    (copier 64).remoteOk 0x200031CA = false ∧ (copier 64).engineRoom 0 ∧ mSpace true false = .s ∧ mSpace false false ≠ .s ∧
    (coordValid 0 && ((copier 64).part ((copier 64).pnumOf (copier 64).now)).pitch.getLsbD (clusterOf 0)) = true ∧
    (coordValid 0x31CA && ((copier 64).part ((copier 64).pnumOf (copier 64).now)).pitch.getLsbD (clusterOf 0x31CA)) = false ∧
    ((copier 64).scratchHome (copier 64).now.g[(8 : Fin 16)]).isSome = true ∧ (copier 64).engineRoom 5 := by
  repeat' with_reducible apply And.intro
  all_goals first | decide | exact room_of rfl (by decide) | exact free_of (by decide)

/-- The copier's core with a shape record of address 0 in its cache, or captured by the instruction. -/
def shaper (shape : Option (BitVec 512)) : State :=
  ((copier 64).updCore 0 fun c => { c with shapes := [(0, 0)] }).updCtx 65536 fun x => { x with shape }

/-- The task at the home of line 0, its access an element of a shape record. -/
def recordAt : State := homed [(0, line0 false)]

set_option maxRecDepth 8000 in
theorem wit_EngineOperationsAreEnqueued_shapes : (copier 64).free (fs (.g 7 0) (.m 8 false 0) (.i 0)) ∧ (copier 64).plainWord (.i 0) = some 0 ∧
    ((0 : Word).extractLsb' 3 61 = 0) ∧ ((8 : Word).extractLsb' 3 61 ≠ 0) ∧ operandAddr (copier 64) 8 0 64 % 64 = 0 ∧
    operandAddr ((copier 64).updCtx 65536 fun x => { x with g := x.g.set 8 1 }) 8 0 64 % 64 ≠ 0 ∧
    (shaper none).free (fs (.g 7 0) (.m 8 false 0) (.i 0)) ∧ ((shaper none).coreAt 0).shapes.find? (fun e => e.1 == 0) = some (0, 0) ∧
    (shaper none).now.shape = none ∧ (shaper none).engineRoom 0 ∧ (shaper (some 5)).now.shape = some 5 ∧ (shaper (some 5)).engineRoom 0 ∧
    (∃ r u, shapeRecord (fs (.g 7 0) (.m 8 false 0) (.i 0)) 0 recordAt.stepped = .ok (r, u)) ∧ recordAt.now.shape = none ∧
    task.free (fs .none (.g 1 0) .none) ∧ task.plainWord (.g 1 0) = some 0 := by
  repeat' with_reducible apply And.intro
  all_goals first | decide | exact room_of rfl (by decide) | exact ⟨_, _, rfl⟩ | exact free_of (by decide)

/-- The task with q3 the producer end of queue 0 and a control word in lane 1 of g9. -/
def streamer (ctl : Word) : State := (queueTask queue0 true).updCtx 65536 fun x => { x with g := x.g.set 9 (setLane 0 1 ctl) }

theorem wit_EngineOperationsAreEnqueued_queues : (streamer 8).free (fs (.g 7 0) (.q 3) (.g 9 0)) ∧ (streamer 8).now.qregs[(3 : Fin 16)].bound = some (0, true) ∧
    (streamer 8).queue? 0 = some queue0 ∧ (ctlOf (streamer 8)).extractLsb' 29 35 = 0 ∧ (ctlOf (streamer 8)).extractLsb' 24 2 ≠ (3 : BitVec 2) ∧
    ((ctlOf (streamer 8)).extractLsb' 0 24).toNat % 8 = 0 ∧ (streamer 8).engineRoom 0 ∧ (streamer (2 ^ 29)).free (fs (.g 7 0) (.q 3) (.g 9 0)) ∧
    (ctlOf (streamer (2 ^ 29))).extractLsb' 29 35 ≠ 0 ∧ ((ctlOf (streamer 4)).extractLsb' 0 24).toNat % 8 ≠ 0 := by
  repeat' with_reducible apply And.intro
  all_goals first | decide | exact room_of rfl (by decide) | exact free_of (by decide)

/-- An operator of the task's launch in slot 0 of tile 0 of cluster 0. -/
def opr0 (kind : OprKind) (state : OprState) : Opr :=
  { pnum := 1, launch := 0, cl := 0, tile := 0, vslot := 0, fold := 0, kind, company := 0, stage := 0, state, stopping := false, retrying := false, actedAt := 0, pregs := [],
    items := 0, ostall := 0, istall := 0, code := 0, va := 0, ins := [(0, 0)], outs := [(16, 1)], know := .empty, idx := [], seqOut := [],
    seqDone := false, slots := [], nth := 0, nfault := 0, staging := [], live := 0, tagNext := 0, growFrames := 0, frameAt := 0, idleFrames := [],
    steals := 0, grows := 0, shrinks := 0, refused := 0, recs := [], next := 0, emitted := 0, served := 0, cuePayload := none, short := 0, stray := 0,
    dropc := 0, lastIn := 0, acc := 0, amax := 0, drops := 0, wire := [], partner := none }

/-- The task with operator 0 and its input queue 0. -/
def commander (kind : OprKind) (state : OprState) : State :=
  { pitched with oprs := [(0, opr0 kind state)], queues := [(0, { queue0 with cons := .port 0 0 })] }

/-- The selector of a parameter register of operator 0. -/
def selector (n : Word) : Word := n * 2 ^ 20

theorem wit_OperatorCommands : pitched.plainWord (.i 0) = some 0 ∧ pitched.free (fs (.g 1 0) (.i 0) (.i 0)) ∧ ((selector 8).extractLsb' 26 38 = 0) ∧
    coordValid 0 = true ∧ (pitched.part (pitched.pnumOf pitched.now)).pitch.getLsbD (clusterOf 0) = true ∧ pitched.oprs.look (oprKey (clusterOf 0) 0 0) = none ∧
    (commander .fork .stopped).free (fs (.g 1 0) (.i 0) (.i 0)) ∧ (commander .fork .stopped).oprs.look (oprKey (clusterOf 0) 0 0) = some (opr0 .fork .stopped) ∧
    (opr0 .fork .stopped).pnum = gtidPnum (commander .fork .stopped).now.gtid ∧ (opr0 .fork .stopped).launch = gtidLaunch (commander .fork .stopped).now.gtid ∧
    (commander .fork .stopped).plainWord (.i 0) = some 0 ∧ (commander .fork .stopped).plainWord (.i 4) = some 4 ∧ (opr0 .fork .stopped).slots = [] ∧ (opr0 .fork .running).seqOut = [] ∧
    ((2 ^ 26 : Word).extractLsb' 26 38 ≠ 0) ∧ (coordValid 3 && (task.part (task.pnumOf task.now)).pitch.getLsbD (clusterOf 3)) = false ∧
    (commander .fork .stopped).plainWord (.i 5) = some 5 ∧ 4 < (5 : Word).toNat ∧
    ((OprKind.fork.pregMask 9).isNone = true) ∧ ((OprKind.fork.pregMask 8).isSome = true) ∧ (opr0 .fork .running).state ≠ .stopped ∧
    (commander .fork .running).free (fs (.g 1 0) (.i 0) (.i 0)) ∧ (opr0 .fork .stopped).state = .stopped ∧ (OprKind.fork.portWidth (0 % 16)).isSome = true ∧
    (opr0 .fork .stopped).ins.look (0 % 16) = some 0 ∧ (commander .fork .stopped).queue? 0 = some { queue0 with cons := .port 0 0 } := by
  repeat' with_reducible apply And.intro
  all_goals first | decide | exact free_of (by decide)

/-! ## Vectors, bits and tiles -/

/-- The task with a format in %fmt. -/
def fmtTask (n : BitVec 7) : State := taskWith fun x => { x with fmt := n }

theorem wit_VectorFormatIsChecked : ((.vdiv, [0]) : (Fields → Instr) × List Nat) ∈ formatsAccepted ∧ (fmtTask 1).now.guard plainHdr = true ∧
    (fmtTask 1).now.fmtCode ∉ [0] :=
  ⟨by simp [formatsAccepted, elementwise], by decide, by decide⟩

theorem wit_VectorArithmetic : (fmtTask 0).vecOperand (fmtTask 0).now.fmtCode (.g 2 0) = some 0 ∧ (fmtTask 0).free (fs (.g 1 0) (.g 2 0) (.g 3 0)) ∧
    (fmtTask 0).vecOperand (fmtTask 0).now.fmtCode (.g 3 0) = some 0 ∧ ((.vdiv, [0], fun _ _ a b => a.div b) :
      (Fields → Instr) × List Nat × (Rnd → Machine.Num → Machine.Num → Machine.Num → Machine.Num)) ∈ elementwise ∧ (fmtTask 0).now.fmtCode ∈ [0] ∧
    ((.vsqrt, [0], Machine.Num.sqrt) : (Fields → Instr) × List Nat × (Machine.Num → Machine.Num)) ∈ elementwise1 := by
  repeat' with_reducible apply And.intro
  all_goals first | decide | exact free_of (by decide) | simp [elementwise] | simp [elementwise1]

theorem wit_VectorBitsAndSelection : (fmtTask 8).free (fs (.p 1) (.g 2 0) (.g 3 0)) ∧ (fmtTask 8).vecOperand (fmtTask 8).now.fmtCode (.g 2 0) = some 0 ∧
    (fmtTask 8).now.fmtCode ∈ [0, 1, 2, 3, 4, 6, 7, 8] ∧ (fmtTask 11).free (fs (.g 1 0) (.g 2 0) (.p 7)) ∧ (fmtTask 11).now.fmtCode < 12 ∧
    (fmtTask 11).vecOperand (fmtTask 11).now.fmtCode (.g 2 0) = some 0 ∧ (fmtTask 0).free (fs (.g 1 0) (.g 2 0) (.i (-1))) ∧
    (fmtTask 0).rawOperand (.g 2 0) = some 0 ∧ (fmtTask 0).rawOperand (.i 0) = some 0 ∧ (fmtTask 6).free (fs (.g 1 0) (.g 2 0) (.g 3 0)) ∧
    (fmtTask 6).vecOperand (fmtTask 6).now.fmtCode (.g 2 0) = some 0 ∧ (fmtTask 6).now.fmtCode ∈ [6, 7, 8] ∧
    (fmtTask 6).free (fs (.g 1 0) (.g 2 0) (.i 8)) ∧ ((.vor, fun a b => a ||| b) : (Fields → Instr) × (Vec → Vec → Vec)) ∈ wholeOps ∧
    ((.vshl, fun w u c => if w ≤ c then 0 else u * 2 ^ c) : (Fields → Instr) × (Nat → Nat → Nat → Int)) ∈ elementShifts := by
  repeat' with_reducible apply And.intro
  all_goals first | decide | exact free_of (by decide) | simp [wholeOps] | simp [elementShifts]

theorem wit_VectorMoves : (fmtTask 11).free (fs (.g 1 0) (.g 2 0) (.g 3 0)) ∧ (fmtTask 11).rawOperand (.g 2 0) = some 0 ∧
    (fmtTask 11).plainWord (.g 2 0) = some 0 ∧ (fmtTask 11).now.fmtCode < 12 ∧ (fmtTask 8).free (fs (.g 1 0) (.g 2 0) (.g 3 0)) ∧
    (fmtTask 8).vecOperand (fmtTask 8).now.fmtCode (.g 2 0) = some 0 ∧ (fmtTask 8).plainVec (.g 3 0) = some 0 ∧ (fmtTask 8).now.fmtCode < 9 ∧
    (fmtTask 11).plainVec (.g 2 0) = some 0 ∧ (fmtTask 11).plainWord (.i 63) = some 63 := by
  repeat' with_reducible apply And.intro
  all_goals first | decide | exact free_of (by decide)

theorem wit_VectorConversions : (fmtTask 0).vecOperand (fmtTask 0).now.fmtCode (.g 2 0) = some 0 ∧ (fmtTask 0).free (fs (.g 1 0) (.g 2 0) (.i 1) (ofTy .bf16)) ∧
    (fmtTask 0).now.fmtCode ∈ [0, 1, 2, 3, 4, 6, 7, 8] ∧ 0 ≤ (1 : BitVec 21).toInt ∧
    (1 : BitVec 21).toInt.toNat < max (fmtCount 0) (fmtCount (tyFmt .bf16)) / min (fmtCount 0) (fmtCount (tyFmt .bf16)) ∧
    (fmtTask 11).vecOperand (fmtTask 11).now.fmtCode (.g 2 0) = some 0 ∧ (fmtTask 11).free (fs (.g 1 0) (.g 2 0) (.g 3 7) (ofTy .f32)) ∧
    (fmtTask 11).now.fmtCode ∈ [5, 9, 10, 11] ∧ (fmtTask 5).vecOperand (tyFmt .bf16) (.g 2 0) = some 0 ∧
    (fmtTask 5).vecOperand (fmtTask 5).now.fmtCode (.g 2 0) = some 0 ∧ (fmtTask 5).free (fs (.g 1 0) (.g 2 0) (.g 3 3) (ofTy .bf16)) ∧
    (fmtTask 5).now.fmtCode = 5 ∧ (fmtTask 10).now.fmtCode = 10 ∧ (fmtTask 8).now.fmtCode ∈ [6, 7, 8] ∧
    (fmtTask 8).vecOperand (fmtTask 8).now.fmtCode (.g 2 0) = some 0 ∧ (fmtTask 8).free (fs (.g 1 0) (.g 2 0) (.g 3 0)) ∧
    (fmtTask 6).vecOperand (fmtTask 6).now.fmtCode (.g 2 0) = some 0 ∧ (fmtTask 6).free (fs (.g 1 0) (.g 2 0) (.i 1)) ∧ (fmtTask 6).now.fmtCode ∈ [6, 7, 11] := by
  repeat' with_reducible apply And.intro
  all_goals first | decide | exact free_of (by decide)

theorem wit_VectorReductions : (fmtTask 6).vecOperand (fmtTask 6).now.fmtCode (.g 2 0) = some 0 ∧ (fmtTask 6).free (fs (.g 1 0) (.g 2 0) (.i 2)) ∧
    (fmtTask 6).now.fmtCode ∈ [0, 1, 2, 6, 7, 8] ∧ (fmtTask 6).free (fs (.g 1 0) (.g 2 0) (.g 3 63)) ∧ (fmtTask 6).now.fmtCode ∈ [0, 1, 2, 3, 4, 6, 7, 8] ∧
    (fmtTask 6).now.fmtCode ∈ [1, 2, 3, 4, 6] ∧ (fmtTask 6).vecOperand (fmtTask 6).now.fmtCode (.g 3 63) = some 0 := by
  repeat' with_reducible apply And.intro
  all_goals first | decide | exact free_of (by decide)

theorem wit_BitInstructions : ((.clmul, fun w a b => clProduct w a b % 2 ^ w) : (Fields → Instr) × (Nat → Nat → Nat → Nat)) ∈ bitOps ∧
    task.plainWord (.g 2 0) = some 0 ∧ task.plainWord (.i (-1)) = some (-1) ∧ task.free (fs (.g 1 0) (.g 2 0) (.i (-1)) (ofTy .n64)) ∧
    isTile task.now.core = false ∧ (Instr.clmul (fs (.g 1 0) (.g 2 0) (.g 3 0) (ofTy .n64))).wf = true ∧
    (tyInfo .n64 (64, false)).2 = false := by
  repeat' with_reducible apply And.intro
  all_goals first | decide | exact List.mem_cons_self | exact free_of (by decide)

/-- The tile task, pinned or not, its unit bound by a context or by none. -/
def unitTask (pinned : Bool) (bound : Option Nat) : State :=
  (tileTask.updCtx 65536 fun x => { x with pinned }).updCore 1 fun c => { c with tile := { c.tile with bound } }

theorem wit_ExtensionAndUnitFaults : isTile (unitTask true none).now.core = true ∧ (unitTask true none).now.pinned = true ∧
    isTile (taskWith fun x => { x with pinned := true }).now.core = false ∧ (taskWith fun x => { x with pinned := true }).now.pinned = true ∧
    isTile (unitTask false (some 9)).now.core = true ∧ ((unitTask false (some 9)).coreAt (unitTask false (some 9)).now.core).tile.bound = some 9 ∧
    ((.tget, 0x505) : (Fields → Instr) × Nat) ∈ tileRows ∧ ((.bdep, 0x602) : (Fields → Instr) × Nat) ∈ bitRows ∧ 9 ≠ (unitTask false (some 9)).cur ∧ (unitTask false (some 9)).free (fs (.g 1 0) (.i 0) .none) := by
  repeat' with_reducible apply And.intro
  all_goals first | decide | exact free_of (by decide) | simp [tileRows] | simp [bitRows]

/-- The tile task whose company holds macro 0 of its core, with a descriptor in g9 of FP8 and one row. -/
def macroTask (d : Vec) : State :=
  (tileTask.updCtx 65536 fun x => { x with g := x.g.set 9 d }).updCompany 0 0 fun co => { co with tiles := [(1, 0)] }

/-- A descriptor of a format and a number of rows. -/
def desc (fmt rows : Nat) : Vec := BitVec.ofNat 256 (fmt * 2 ^ 64 + rows * 2 ^ 72)

theorem wit_TileCommandsAreEnqueued : (macroTask 0).free (fs (.g 9 0) (.i 4) .none) ∧ (macroTask 0).tileFree ∧ (macroTask 0).plainWord (.i 4) = some 4 ∧
    2 ^ 2 ≤ (4 : Word).toNat ∧ (macroTask 0).plainWord (.i 3) = some 3 ∧ (3 : Word).toNat < 2 ^ 2 ∧ (macroTask 0).engineRoom 4 ∧
    2 ^ 5 ≤ (32 : Word).toNat ∧ (macroTask 0).plainWord (.i 32) = some 32 ∧ (16 : Word).extractLsb' 0 4 = (0 : BitVec 4) ∧ (17 : Word).toNat < 2 ^ 5 ∧ (17 : Word).extractLsb' 0 4 ≠ (0 : BitVec 4) ∧
    (macroTask 0).now.task = true ∧ (macroTask 0).company? (clusterOf (macroTask 0).now.home) (macroTask 0).now.company.toNat =
      some { Company.fresh 1 0 false { slots := 1, banks := 0, tiles := 0 } with slots := [(1, 1)], tiles := [(1, 0)] } ∧
    (∀ q < 4, (17 : Word).getLsbD q = true → ([((1 : Coord), 0)] : List (Coord × Nat)).contains ((macroTask 0).now.core, q) = true) ∧
    ((19 : Word).getLsbD 1 = true ∧ ([((1 : Coord), 0)] : List (Coord × Nat)).contains ((macroTask 0).now.core, 1) = false ∧
      ∀ p < 1, (19 : Word).getLsbD p = true → ([((1 : Coord), 0)] : List (Coord × Nat)).contains ((macroTask 0).now.core, p) = true) := by
  repeat' with_reducible apply And.intro
  all_goals first | decide | exact room_of rfl (by decide) | exact free_of (by decide) | exact ⟨by decide, .inl (by decide)⟩ | exact ⟨by decide, by decide⟩

theorem wit_TileCommandsAreEnqueued_descriptors : (macroTask (desc 3 16)).free (fs (.g 7 0) (.m 2 false 0) (.g 9 0)) ∧ mSpace false false ≠ .s ∧
    descOk false false 16 ((macroTask (desc 3 16)).now.g[(9 : Fin 16)]) = true ∧ fmtWidth (descFmt (desc 3 16)) ≠ 16 ∧
    descOk true false 16 ((macroTask (desc 0 1)).now.g[(9 : Fin 16)]) = true ∧ fmtWidth (descFmt (desc 0 1)) ≠ 16 ∧
    descOk false true 256 ((macroTask (desc 3 256)).now.g[(9 : Fin 16)]) = true ∧ fmtWidth (descFmt (desc 3 256)) ≠ 16 ∧
    (macroTask (desc 3 256)).now.task = true ∧ ([((1 : Coord), 0)] : List (Coord × Nat)).contains ((macroTask (desc 3 256)).now.core, descMacro (desc 3 256)) = true ∧
    (macroTask (desc 3 256)).engineRoom 4 ∧ (macroTask (desc 3 16)).tileFree := by
  repeat' with_reducible apply And.intro
  all_goals first | decide | exact room_of rfl (by decide) | exact free_of (by decide) | exact ⟨by decide, by decide⟩ | exact .inl (by decide)

/-- The tile task with q3 the consumer end of a wide queue. -/
def streamedTile : State :=
  { (macroTask (desc 3 16)).updCtx 65536 fun x => { x with qregs := x.qregs.set 3 { QReg.unbound with bound := some (0, false) } } with
    queues := [(0, { queue0 with wide := true })] }

theorem wit_TileCommandsAreEnqueued_queues : streamedTile.free (fs (.g 7 0) (.q 3) (.g 9 0)) ∧ streamedTile.tileFree ∧
    streamedTile.now.qregs[(3 : Fin 16)].bound = some (0, false) ∧ streamedTile.queue? 0 = some { queue0 with wide := true } ∧
    descOk false false 16 streamedTile.now.g[(9 : Fin 16)] = true ∧ streamedTile.engineRoom 4 ∧ queue0.wide = false ∧
    descOk false false 16 (desc 3 17) = false := by
  repeat' with_reducible apply And.intro
  all_goals first | decide | exact room_of rfl (by decide) | exact free_of (by decide) | exact ⟨by decide, .inl (by decide)⟩

/-- The tile task of `macroTask` with a base register whose selector names a core, its partition's pitch on clusters 0 and 1. -/
def remoteTile (d : Vec) (sel : BitVec 32) : State :=
  ((macroTask d).updCtx 65536 fun x => { x with g := x.g.set 2 (sel.setWidth 256 <<< 96) }).updPart 1 fun p => { p with active := true, pitch := 3 }

theorem wit_TileCommandsAreEnqueued_targets : (remoteTile (desc 3 16) 0x2000FFFF).free (fs (.g 7 0) (.m 2 true 0) (.g 9 0)) ∧ mSpace true false = .s ∧
    (remoteTile (desc 3 16) 0x2000FFFF).tileFree ∧ descOk false false 16 (desc 3 17) = false ∧ descOk true false 16 (desc 3 17) = false ∧
    descOk false true 256 (desc 3 257) = false ∧
    ((remoteTile (desc 3 16) 0x2000FFFF).now.g[(2 : Fin 16)].extractLsb' 96 32 : BitVec 32) = 0x2000FFFF ∧ (0x2000FFFF : BitVec 32).getLsbD 29 = true ∧
    coordValid 0xFFFF = false ∧ coordValid 4 = true ∧ (0x30000004 : BitVec 32).getLsbD 28 = true ∧ (0x20000004 : BitVec 32).getLsbD 28 = false ∧
    coordValid 0x31CA = true ∧ ((remoteTile (desc 3 16) 0x200031CA).part ((remoteTile (desc 3 16) 0x200031CA).pnumOf (remoteTile (desc 3 16) 0x200031CA).now)).pitch.getLsbD
      (clusterOf 0x31CA) = false ∧
    ((remoteTile (desc 3 16) 0x20000004).part ((remoteTile (desc 3 16) 0x20000004).pnumOf (remoteTile (desc 3 16) 0x20000004).now)).pitch.getLsbD (clusterOf 4) = true ∧
    (remoteTile (desc 3 16) 0x20000004).company? (clusterOf 4) (remoteTile (desc 3 16) 0x20000004).now.company.toNat = none ∧
    -- an odd address of a 16-bit format; a company's own scratch; a macro that is not held
    fmtWidth (descFmt (desc 1 16)) = 16 ∧ operandAddr (macroTask (desc 1 16)) 2 1 1 % 2 ≠ 0 ∧ descOk false false 16 (desc 1 16) = true ∧
    ((macroTask (desc 3 16)).scratchHome (macroTask (desc 3 16)).now.g[(2 : Fin 16)]).isSome = true ∧
    ([] : List (Coord × Nat)).contains ((macroTask (desc 3 256)).now.core, descMacro (desc 3 256)) = false := by
  repeat' with_reducible apply And.intro
  all_goals first | decide | exact free_of (by decide) | exact ⟨by decide, .inl (by decide)⟩

/-- The tile task whose unit it has bound, with a TGET of its own that has been performed. -/
def gotTile : State :=
  { unitTask true (some 65536) with ops := [(7, { (unitTask true (some 65536)).newOp 4 (.tget 1) with result := some (.resolved 0) })] }

theorem wit_TileReads : (macroTask 0).free (fs (.g 1 0) (.i 1) .none) ∧ isTile (macroTask 0).now.core = true ∧ (macroTask 0).plainWord (.i 1) = some 1 ∧
    (1 : Word).toNat < 2 ^ 10 ∧ (macroTask 0).plainWord (.i 0x400) = some 0x400 ∧ 2 ^ 10 ≤ (0x400 : Word).toNat ∧ (macroTask 0).tileFree ∧ (∀ e ∈ (macroTask 0).ops, ¬(e.2.key = (macroTask 0).cur ∧ e.2.body.isTget = true)) ∧
    (macroTask 0).engineRoom 4 ∧ gotTile.free (fs (.g 1 0) (.i 1) .none) ∧ gotTile.tileFree ∧
    (∃ o, (gotTile.ops.find? fun e => e.2.key == gotTile.cur && e.2.body.isTget) = some (7, o) ∧ o.result.isSome = true) ∧
    (gotTile.coreAt gotTile.now.core).tile.bound = some gotTile.cur := by
  repeat' with_reducible apply And.intro
  all_goals first
    | decide | exact room_of rfl (by decide) | exact free_of (by decide) | exact ⟨by decide, .inl (by decide)⟩ | exact ⟨by decide, by decide⟩
    | exact ⟨by decide, .inr (by decide)⟩ | exact ⟨_, rfl, by decide⟩

/-! ## Waits, arrivals, traps, walks and fills -/

/-- The word that a context issued is one of an instruction that acts again, as a test. -/
def againB (s : State) (k : Nat) : Bool :=
  match decode (s.ctx k).word with
  | .ok i => i.sig?.isSome
  | .error _ => false

theorem again_of {s : State} {k : Nat} (h : againB s k = true) : ∃ i, decode (s.ctx k).word = .ok i ∧ i.sig?.isSome = true := by
  unfold againB at h
  split at h
  · exact ⟨_, by assumption, h⟩
  · cases h

/-- The task waiting or in flight, with the word it issued. -/
def waiter (st : Status) (w : InstrWord) : State := taskWith fun x => { x with status := st, word := w }

/-- The task pops a queue, sleeps, waits for a deadline, or loads. -/
def popping : State := waiter (.waiting .queue) 0x3047_0000_0000_2300_0080_0001
def sleeping : State := waiter (.flight (.sleep 0 9 none)) 0x0137_0001_0000_8000_0500_0000
def awaiting : State := waiter (.flight (.twait 0 9)) 0x0157_0001_0000_8000_0900_0000
def loading : State := waiter (.flight (.home false)) 0x2007_0001_0200_A200_0000_0000

theorem acting : againB popping 65536 = true ∧ againB sleeping 65536 = true ∧ againB awaiting 65536 = true ∧ againB loading 65536 = true := by decide

/-- The sleeping task with an event on its way to its core. -/
def woken : State := { sleeping with pkts := [(5, .event 0)] }

theorem wit_WaitsAndFlightsEnd : popping.now.status = .waiting .queue ∧ (∃ i, decode (popping.ctx 65536).word = .ok i ∧ i.sig?.isSome = true) ∧
    sleeping.now.status = .flight (.sleep 0 9 none) ∧ (∃ i, decode (sleeping.ctx 65536).word = .ok i ∧ i.sig?.isSome = true) ∧
    awaiting.now.status = .flight (.twait 0 9) ∧ (∃ i, decode (awaiting.ctx 65536).word = .ok i ∧ i.sig?.isSome = true) ∧
    loading.now.status = .flight (.home false) ∧ (∃ i, decode (loading.ctx 65536).word = .ok i ∧ i.sig?.isSome = true) ∧
    woken.pkts.look 5 = some (.event 0) ∧ woken.inv ∧ woken.now.status = .flight (.sleep 0 9 none) ∧ woken.now.core = 0 ∧
    (∃ i, decode (woken.ctx 65536).word = .ok i ∧ i.sig?.isSome = true) := by
  repeat' with_reducible apply And.intro
  all_goals first
    | decide | exact again_of acting.1 | exact again_of acting.2.1 | exact again_of acting.2.2.1 | exact again_of acting.2.2.2
    | exact again_of (s := woken) acting.2.1 | exact inv_of (by decide)

theorem wit_WaitsAndFlightsEnd_alone : (∀ e ∈ woken.ctxs, e.1 ≠ 65536 → ¬e.2.sleepsOn 0) ∧
    (∀ e ∈ ({ task with pkts := [(5, .event 0)] } : State).ctxs, ¬e.2.sleepsOn 0) ∧ (∃ x, task.ctxs.look 65536 = some x ∧ x.status = .idle) := by
  refine ⟨?_, ?_, _, rfl, rfl⟩
  · intro e he hk
    have h : woken.ctxs.map Prod.fst = [65536] := by decide
    have := List.mem_map_of_mem (f := Prod.fst) he
    rw [h] at this
    simp_all
  · intro e he hs
    have h : ∀ e ∈ task.ctxs, e.2.status = .idle := by decide
    obtain ⟨-, a, b, c, hc⟩ := hs
    rw [h e he] at hc
    cases hc

/-- The task with packets under way for its own group. -/
def arrivals : State :=
  { spawner with pkts := [(5, .spawn (newTask 0 0 2 0 0 false 0 (Vector.replicate 16 0)) 0), (6, .spawn { spawner.now with slot := 2 } 0), (7, .start 0 8193 none)] }

/-- The task on its way from core 3, and a parked child. -/
def travelling (img : BitVec 16) : State :=
  { taskWith fun x => { x with status := .transit 3, img } with pkts := [(7, .start 0 1 none)] }

def parkedTask : State := { taskWith fun x => { x with status := .parked } with pkts := [(7, .start 0 0 none)] }

/-- The travelling task whose next PC stands in the breakpoint table of its new core. -/
def travellingInto : State := (travelling 0).updCore 0 fun c =>
  { c with bps := [{ gtid := 0, gmask := 0, pc := 0, en := true, cond := 0, pred := 0, reg := 0, value := 0 }] }

theorem wit_TasksArrive : (travellingInto.ctx 65536).status = .transit 3 ∧ (travellingInto.ctx 65536).suspended = false ∧
    travellingInto.bpHit (travellingInto.ctx 65536) = some 0 ∧ (task.ctx 65536).status ≠ .transit 3 ∧
    arrivals.pkts.look 5 = some (.spawn (newTask 0 0 2 0 0 false 0 (Vector.replicate 16 0)) 0) ∧
    arrivals.groupCompany? (newTask 0 0 2 0 0 false 0 (Vector.replicate 16 0)) (clusterOf 0) = none ∧
    arrivals.pkts.look 6 = some (.spawn { spawner.now with slot := 2 } 0) ∧
    arrivals.groupCompany? { spawner.now with slot := 2 } (clusterOf 0) = some (company0 threeSlots [(0, 1), (0, 2)]) ∧
    ((travelling 0).ctx 65536).status = .transit 3 ∧ ((travelling 0).ctx 65536).suspended = false ∧ (travelling 0).bpHit ((travelling 0).ctx 65536) = none ∧
    ((travelling 0).ctx 65536).task = true ∧ ((travelling 0).ctx 65536).img = ((travelling 0).coreAt ((travelling 0).ctx 65536).core).img ∧
    ((travelling 9).ctx 65536).img ≠ ((travelling 9).coreAt ((travelling 9).ctx 65536).core).img ∧
    (travelling 9).bpHit ((travelling 9).ctx 65536) = none ∧ parkedTask.pkts.look 7 = some (.start 0 0 none) ∧ parkedTask.childComing 0 = false ∧
    parkedTask.parkedChild 0 0 = some 65536 ∧ (parkedTask.ctx 65536).saved = false ∧ arrivals.pkts.look 7 = some (.start 0 8193 none) := by
  repeat' with_reducible apply And.intro
  all_goals first | decide

theorem wit_TasksArrive_coming : arrivals.childComing (gtidIndex spawner.now.gtid).toNat = true := by decide

/-- Two ready tasks on core 0, and core 3 idle for 64 cycles with a slot of their company. -/
def stealable : State :=
  let s := (placed (company0 threeSlots [(0, 1), (0, 2), (3, 1)])).updCore 3 fun c => { c with readyIn := 0 }
  { s with cycle := 64, ctxs := s.ctxs.put 65537 { s.ctx 65536 with slot := 2, readyAt := 1 } }

theorem wit_TasksArrive_steal : stealable.mayTake 3 65536 = some 1 ∧ stealable.stealChoice 3 = some 65536 ∧ stealable.longIdle 3 = true ∧
    stealable.modeOf (gtidPnum (stealable.ctx 65536).gtid) (gtidLaunch (stealable.ctx 65536).gtid) = 0 := by
  refine ⟨by decide, by decide, by decide, by decide⟩

/-- The task ready to issue, with a breakpoint, outside %xb, or with an undelivered record. -/
def ready (f : Core → Core) (g : Ctx → Ctx) : State := (taskWith g).updCore 0 f

def record0 : FaultRec :=
  { gtid := 0, tval := 9, pc := 0, code := 0x20, async := true, fatal := false, fwd := false, undeliv := true, role := false, coord := 0, olnch := 0,
    oindex := 0, qsel := 0, time := 0, opid := 0 }

def stopped : State :=
  ready (fun c => { c with bps := [{ gtid := 0, gmask := 0, pc := 0, en := true, cond := 0, pred := 0, reg := 0, value := 0 }] }) fun x => x
def beyond : State := ready (fun c => c) fun x => { x with xb := 0 }

/-- The control context of core 0 outside its boundary. -/
def controlBeyond : State := (pitched.updCore 0 fun c => { c with active := true }).updCtx 0 fun x => { x with task := false, xb := 0, gtid := 0 }
def recorded : State := ready (fun c => c) fun x => { x with asyncs := [record0] }

theorem wit_TrapsBeforeInstructions : stopped.ready 65536 = true ∧ (stopped.ctx 65536).task = true ∧ stopped.before 65536 = .breakpoint ∧
    stopped.bpHit (stopped.ctx 65536) = some 0 ∧ beyond.ready 65536 = true ∧ (beyond.ctx 65536).task = true ∧ beyond.before 65536 = .overlay ∧
    task.before 65536 = .nothing ∧ controlBeyond.ready 0 = true ∧ controlBeyond.before 0 = .overlay ∧ (controlBeyond.ctx 0).task = false ∧
    recorded.ready 65536 = true ∧ (recorded.ctx 65536).task = true ∧ recorded.before 65536 = .async ∧ (recorded.ctx 65536).asyncs = [record0] := by
  repeat' with_reducible apply And.intro
  all_goals first | decide

/-- The task whose timer has reached its partition's interval, on a core that is fenced or not. -/
def late (fenced : Bool) (cfgtid : Word) : State :=
  (taskWith fun x => { x with hb := 2700000000 }).updCore 0 fun c => { c with fenced, cfgtid }

/-- The package running its firmware. -/
def running (s : State) : State := { s with boot := .running }

theorem wit_FencesAndResumes : task.missed (task.ctx 65536) = false ∧ (late false 0).missed ((late false 0).ctx 65536) = true ∧
    ((late false 0).coreAt ((late false 0).ctx 65536).core).fenced = false ∧ (late true 9).missed ((late true 9).ctx 65536) = true ∧
    ((late true 9).coreAt ((late true 9).ctx 65536).core).fenced = true ∧ ((late true 9).ctx 65536).gtid ≠ ((late true 9).coreAt ((late true 9).ctx 65536).core).cfgtid ∧
    task.boot ≠ .running ∧ ((running task).coreAt 0).chalt = false ∧ ((late true 0).updCore 0 fun c => { c with cfgtid := task.now.gtid }).missed ((late true 0).ctx 65536) = true ∧
    (running task).boot = .running ∧ ((running task).coreAt 0).fenced = false ∧ ((running (late true 9)).coreAt 0).fenced = true ∧
    ((running (task.updCore 0 fun c => { c with chalt := true })).coreAt 0).chalt = true := by
  repeat' with_reducible apply And.intro
  all_goals first | decide

/-- A walk of partition 1 for address 0 that has started or not, with an entry to set or none. -/
def walk0 (started : Bool) (cas : Option Word) : Walk :=
  { die := 0, cl := 0, pnum := 1, va := 0, write := true, started, base := 0, level := 0, cas, requesters := [.ctx 65536] }

/-- The package with that walk, where partition 1 may use socket 0 from address 0. -/
def walking (w : Walk) : State := { task.updPart 1 (fun p => { p with active := true, regions := [0x4000000000000001] }) with walks := [(4, w)] }

theorem wit_WalksDescendAndReturn : (walking (walk0 false none)).walks.look 4 = some (walk0 false none) ∧ (walking (walk0 false none)).waitingWalk 0 = some 4 ∧
    (walk0 false none).requesters ≠ [] ∧ (walking (walk0 false none)).walksOn 0 < Config.walkersPerDie ∧
    (walk0 true none).started = true ∧ (walk0 true none).cas = none ∧ (walking (walk0 true none)).poisoned (entryAddr 0 0 0) = false ∧
    (walk0 true (some 1)).cas = some 1 ∧ (walking (walk0 true (some 1))).entryAt (entryAddr 0 0 0) ≠ 1 ∧
    (walking (walk0 true (some 0))).entryAt (entryAddr 0 0 0) = 0 ∧ task.waitingWalk 0 = none ∧
    (walking { walk0 false none with requesters := [] }).waitingWalk 0 = some 4 ∧ (walk0 false none).requesters = [.ctx 65536] ∧
    ({ walking (walk0 true none) with lines := [(0, { line0 true with poison := true })] } : State).poisoned (entryAddr 0 0 0) = true := by
  repeat' with_reducible apply And.intro
  all_goals first | decide

/-- The task whose access waits for its home to fill line 0. -/
def filling : State := taskWith fun x => { x with status := .flight (.fill 0 leaf0 0) }

/-- Line 3 in the write-back buffer of cluster 0. -/
def writingBack : State := task.updCluster 0 fun c => { c with writebacks := [(3, 7)] }

theorem wit_WalksDescendAndReturn_served : (walking (walk0 true none)).walks.look 4 = some (walk0 true none) ∧
    ∃ x, ((walking (walk0 true none)).updCtx 65536 fun x => { x with status := .flight (.walk 0 true) }).ctxs.look 65536 = some x ∧
      x.status = .flight (.walk 0 true) := ⟨by decide, _, rfl, by decide⟩

set_option maxRecDepth 8000 in
theorem wit_FillsAndWritebacks : (∃ x, filling.ctxs.look 65536 = some x ∧ x.status = .flight (.fill 0 leaf0 0)) ∧ filling.lines.look (0 / 64) = none ∧
    (filling.clusterAt (homeOf leaf0.entry 0 0)).allocatable 31 = true ∧ (filling.linesIn (homeOf leaf0.entry 0 0) 31).length < Config.linesPerBank ∧
    writingBack.writebackOf 3 = some 0 ∧ ((writingBack.clusterAt 0).writebacks.find? fun e => e.1 == 3) = some (3, 7) ∧ writingBack.inv := by
  repeat' with_reducible apply And.intro
  all_goals first | decide | exact ⟨_, rfl, by decide⟩ | exact inv_of (by decide)

/-- The task whose access waits for its home to fill line 0, in whose bank 31 every line is present, or whose line has come. -/
def fillingFull : State :=
  { filling with lines := (List.range 1024).map fun i => (i + 1, { line0 false with bank := 31, home := homeOf leaf0.entry 0 0 }) }

theorem wit_FillsAndWritebacks_full : Config.linesPerBank ≤ (fillingFull.linesIn (homeOf leaf0.entry 0 0) 31).length ∧
    fillingFull.lines.look 7 = some { line0 false with bank := 31, home := homeOf leaf0.entry 0 0 } ∧ fillingFull.lines.look (0 / 64) = none ∧
    ({ fillingFull with lines := fillingFull.lines.put 7 { line0 true with bank := 31, home := homeOf leaf0.entry 0 0 } } : State).lines.look 7 =
      some { line0 true with bank := 31, home := homeOf leaf0.entry 0 0 } ∧
    ({ filling with lines := [(0, line0 true)] } : State).lines.look (0 / 64) = some (line0 true) ∧ task.writebackOf 3 = none ∧
    (∀ pa l va, (task.ctx 65536).status ≠ .flight (.fill pa l va)) ∧ (filling.clusterAt (homeOf leaf0.entry 0 0)).allocatable 32 = false := by
  have h : ∀ pa l va, (task.ctx 65536).status ≠ .flight (.fill pa l va) := fun _ _ _ he => by
    rw [show (task.ctx 65536).status = .idle by decide] at he
    cases he
  repeat' with_reducible apply And.intro
  all_goals first | exact h | decide +kernel

/-- A shootdown of pages 0 to 9 of partition 1 that waits for a cache, or for none. -/
def down0 (todo : List Nat) : Shootdown := { cp := 3, pnum := 1, lo := 0, hi := 9, todo, retries := [], waitsCtx := [], heldAgain := [] }

/-- Command-processor core 3 with a shootdown under way. -/
def downing (todo : List Nat) : State := { running task with shootdowns := [(3, down0 todo)] }

/-- A page-count report of page 0, counted at address 0 of socket 0 or outside the window. -/
def reporting (base : Word) : State :=
  { task.updPart 1 (fun p => { p with pc := [base, 2 ^ 40, 0x100, 0] }) with reports := [{ pnum := 1, vpn := 0, tier := 0 }] }

set_option maxRecDepth 8000 in
theorem wit_ShootdownsAndPageCounts : (running task).boot = .running ∧
    (((running task).sdRegsOf 3).busy || (!((0x400 : Word).getLsbD 10) && sdVpn 0 < sdVpn 0) || (0x400 : Word).extractLsb' 0 6 == (0 : BitVec 6) ||
      Config.partitions < ((0x400 : Word).extractLsb' 0 6).toNat) = true ∧
    (((running task).sdRegsOf 3).busy || (!((0x401 : Word).getLsbD 10) && sdVpn 0 < sdVpn 0) || (0x401 : Word).extractLsb' 0 6 == (0 : BitVec 6) ||
      Config.partitions < ((0x401 : Word).extractLsb' 0 6).toNat) = false ∧
    (downing [0, 5]).shootdowns.look (3 : Fin 4).val = some (down0 [0, 5]) ∧ (down0 [0, 5]).cp = (3 : Fin 4).val ∧ 5 ∈ (down0 [0, 5]).todo ∧
    (downing [0, 5]).sdComplete (down0 [0, 5]) = false ∧ (downing []).shootdowns.look (3 : Fin 4).val = some (down0 []) ∧
    (downing []).sdComplete (down0 []) = true ∧ task.shootdowns.look (3 : Fin 4).val = none ∧ 4 ∉ (down0 [0, 5]).todo ∧
    Tbl.wf ({ downing [5] with held := [(2, heldStore0)] } : State).held = true ∧ heldStore0.home = 10005 - 10000 ∧ (down0 [5]).holdsStore 2 heldStore0 = true ∧
    task.reports = [] ∧ (reporting 0).reports = [{ pnum := 1, vpn := 0, tier := 0 }] ∧
    ((((reporting 0).part 1).pc.getD 0 0).getLsbD 63 = false) ∧ ((((reporting (2 ^ 63)).part 1).pc.getD 0 0).getLsbD 63 = true) ∧
    0 < (((((reporting (2 ^ 63)).part 1).pc.getD 1 0)).extractLsb' 40 24).toNat ∧ physOk (pcAddr (2 ^ 63)) 4 = true ∧
    leValue ((reporting (2 ^ 63)).physBytes (pcAddr (2 ^ 63)) 4) + 1 ≠ 256 := by
  repeat' with_reducible apply And.intro
  all_goals first | decide

/-! ## Queues, banks, engines, landings and tiles, as events -/

/-- A queue whose ring stands in bank 0 of cluster 0, in the company's logical bank 0. -/
def ringQueue : Queue := { queue0 with place := .ring 0 0 0 128 }
def ringed (q : Queue) : State :=
  (binder { q with place := .ring 0 0 0 128 }).updCluster 0 fun c =>
    c.updBank 0 fun _ => { mode := .fifo, next := none, held := true, company := 0, lbank := 0 }

theorem wit_EntriesAndCreditsArrive : task.queue? 0 = none ∧ (binder { queue0 with transit := [entry 0], returning := 1, depth := 1 }).queue? 0 =
    some { queue0 with transit := [entry 0], returning := 1, depth := 1 } ∧
    (ringed { queue0 with transit := [entry 0] }).queue? 0 = some { ringQueue with transit := [entry 0] } ∧
    ((ringed { queue0 with transit := [entry 0] }).slotPa { ringQueue with transit := [entry 0] } 0).isSome = true ∧
    (ringed queue0).inv ∧ ringQueue.place.ring? = some (0, 0, 0, 128) ∧ 128 + ringQueue.ringBytes ≤ 65536 ∧
    ({ ringQueue with entries := [entry 0] } : Queue).entries[0]? = some (entry 0) ∧ 0 < ringQueue.depth := by
  repeat' with_reducible apply And.intro
  all_goals first | decide | exact inv_of (by decide)

/-- A request at the box office of cluster 0 for slots of the task's core. -/
def req (n : Word) (waits redecide : Bool) : BoxReq :=
  { key := 65536, company := 0, want := .acq (slotsWord n), waits, phase := if redecide then .refused false else .fresh, redecide }

/-- That request at an office. -/
def asking (s : State) (r : BoxReq) : State := s.updCluster 0 fun c => { c with reqs := [r] }

/-- Bank 3 of cluster 0 switching to SCRATCH, and a DISCARD entry for bank 4 of company 0. -/
def switching : State :=
  task.updCluster 0 fun c => { c.updBank 3 (fun b => { b with next := some .scratch }) with diverts := [(2, .discard 0 4)] }

/-- A request for one slot of a core. -/
def slotReq (core : Coord) (waits : Bool) : BoxReq := { key := 65536, company := 0, want := .slot core, waits, phase := .fresh, redecide := false }

set_option maxRecDepth 8000 in
theorem wit_BoxEventsAndBanks_slots : (asking spawner (slotReq 0 true)).nextReq 0 = some (slotReq 0 true) ∧ (slotReq 0 true).want = .slot 0 ∧
    (asking spawner (slotReq 0 true)).heldSlot 0 0 0 = some 2 ∧ (asking spawner (slotReq 1 true)).heldSlot 0 0 1 = none ∧
    ((asking spawner (slotReq 1 true)).clusterAt 0).boxCheck 0 { Triple.zero with slots := 1 } 1 true = .granted ∧
    (asking (placed (company0 oneSlot [(0, 1)])) (slotReq 1 true)).heldSlot 0 0 1 = none ∧
    ((asking (placed (company0 oneSlot [(0, 1)])) (slotReq 1 true)).clusterAt 0).boxCheck 0 { Triple.zero with slots := 1 } 1 true ≠ .granted ∧
    (task.clusterAt 0).discardAt 0 4 = none := by
  repeat' with_reducible apply And.intro
  all_goals first | decide

set_option maxRecDepth 8000 in
theorem wit_BoxEventsAndBanks : task.nextReq 0 = none ∧ (asking spawner (req 1 true false)).nextReq 0 = some (req 1 true false) ∧
    (asking spawner (req 1 false true)).nextReq 0 = some (req 1 false true) ∧
    ((asking spawner (req 1 true false)).clusterAt 0).boxCheck 0 (requestOf (slotsWord 1)) 0 false = .granted ∧
    ((asking tight (req 2 true false)).clusterAt 0).boxCheck 0 (requestOf (slotsWord 2)) 0 false = .notSafe ∧
    (asking tight (req 2 true false)).nextReq 0 = some (req 2 true false) ∧
    ((asking spawner (req 2 false false)).clusterAt 0).boxCheck 0 (requestOf (slotsWord 2)) 0 false = .exceeded ∧
    (asking spawner (req 2 false false)).nextReq 0 = some (req 2 false false) ∧ (31 < 32) ∧ ((task.clusterAt 0).bankAt 31).next = none ∧
    ((switching.clusterAt 0).bankAt 3).next = some .scratch ∧ (switching.clusterAt 0).discardAt 0 4 = some 2 ∧ switching.stillReaches 0 0 4 = false ∧
    (switching.clusterAt 0).retiringBank = none ∧
    ({ switching with pkts := [(5, .scratch 0 (.write 0 4 0 [1] none none))] } : State).stillReaches 0 0 4 = true := by
  repeat' with_reducible apply And.intro
  all_goals first | decide

/-- The task with one operation, whose turn it is, of some progress. -/
def engaged (qsel : Nat) (body : OpBody) (done : Nat) : State :=
  { dataTask 32 with ops := [(7, { (dataTask 32).newOp qsel body with done })] }

/-- A copy of n bytes between places of local memory, or a fill. -/
def copyBody (sspc dspc : Fin 4) (pattern : Option Word) (src dst len : Nat) : OpBody :=
  .copy sspc dspc false false pattern 0 { src, dst, len, rows := 1, planes := 1, srcRow := 0, srcPlane := 0, dstRow := 0, dstPlane := 0 }

/-- The operation of `engaged`. -/
def op7 (qsel : Nat) (body : OpBody) (done : Nat) : EngOp := { (dataTask 32).newOp qsel body with done }

theorem first_of {α β : Type} {r : α × β} {a : α} (h : r.1 = a) : ∃ b, r = (a, b) := ⟨r.2, by rw [← h]⟩

/-- Reads of an engine give data, as a test. -/
def gotB (r : Got × State) (f : List Byte → State → Bool) : Bool :=
  match r with
  | (.data d, t) => f d t
  | _ => false

theorem got_of {r : Got × State} {f : List Byte → State → Bool} (h : gotB r f = true) : ∃ d t, r = (.data d, t) ∧ f d t = true := by
  unfold gotB at h
  split at h
  · exact ⟨_, _, rfl, h⟩
  · cases h

/-- A local copy that has ended, one that begins, a fill, and copies between other spaces. -/
def moved (sspc dspc : Fin 4) (src dst done : Nat) : State := engaged 0 (copyBody sspc dspc none src dst 4) done
def movedOp (sspc dspc : Fin 4) (src dst done : Nat) : EngOp := op7 0 (copyBody sspc dspc none src dst 4) done
def filled : State := engaged 0 (copyBody 2 2 (some 5) 0 128 4) 0

/-- Copies from and to a page that the cluster's cache holds, whose line is at its home, poisoned or not, under a leaf with WB or without. -/
def fromFar (poison : Bool) : State :=
  { (moved 0 2 4096 128 0).updCluster 0 (fun c => { c with tlb := [{ pnum := 1, leaf := leaf0 }] }) with lines := [(64, { line0 true with poison })] }
def toFar (entry : Word) (poison : Bool) : State :=
  { (moved 2 0 32 4096 0).updCluster 0 (fun c => { c with tlb := [{ pnum := 1, leaf := { leaf0 with entry } }] }) with lines := [(64, { line0 true with poison })] }

/-- The copy of `moved` to `.s`, bank 0 of its company granted. -/
def toScratch : State :=
  (moved 2 1 32 128 0).updCluster 0 fun c => c.updBank 0 fun _ => { mode := .scratch, next := none, held := true, company := 0, lbank := 0 }

theorem wit_EngineOperationsMoveData : task.ops.look 7 = none ∧ (engaged 0 (.badShape 64) 0).ops.look 7 = some (op7 0 (.badShape 64) 0) ∧
    (engaged 0 (.badShape 64) 0).opTurn 7 (op7 0 (.badShape 64) 0) = true ∧ (moved 2 2 32 128 4).opTurn 7 (movedOp 2 2 32 128 4) = true ∧
    (movedOp 2 2 32 128 4).flying = 0 ∧ (movedOp 2 2 32 128 4).dropped = false ∧ (moved 2 2 32 128 4).opTurn 7 { movedOp 2 2 32 128 4 with result := some .cancelled } = false ∧
    filled.opTurn 7 (op7 0 (copyBody 2 2 (some 5) 0 128 4) 0) = true ∧ (filled.clusterAt 0).divertOf 0 = none ∧ filled.inv ∧
    (filled.coreAt 0).localOk 128 4 = true ∧ (moved 2 2 32 128 0).opTurn 7 (movedOp 2 2 32 128 0) = true ∧
    (∃ d u, (moved 2 2 32 128 0).engRead 7 (movedOp 2 2 32 128 0) 2 0 false 32 4 = (.data d, u) ∧
      (d.length == 4 && (u.coreAt 0).localOk 128 4 && ((u.clusterAt 0).divertOf 0).isNone && invB u && decide (u.ops = (moved 2 2 32 128 0).ops)) = true) ∧
    -- the check of the source stops, or passes
    ((moved 0 2 32 128 0).engCheck 7 (movedOp 0 2 32 128 0) 0 0 32 4 false).1 = .miss 32 ∧
    ((moved 2 2 0 128 0).engCheck 7 (movedOp 2 2 0 128 0) 2 0 0 4 false).1 = .fault .xlatePerm (xlateTval 2 0 0) ∧
    (((moved 1 2 32 128 0).updCompany 0 0 fun co => { co with susp := true }).engCheck 7 (movedOp 1 2 32 128 0) 1 0 32 4 false).1 = .wait ∧
    (∃ d, ((moved 2 2 32 128 0).engCheck 7 (movedOp 2 2 32 128 0) 2 0 32 4 false).1 = .data d) ∧
    (∃ d, ((fromFar true).engCheck 7 (movedOp 0 2 4096 128 0) 0 0 4096 4 false).1 = .data d) ∧
    -- the check of the destination stops, or passes
    ((moved 2 0 32 128 0).engCheck 7 (movedOp 2 0 32 128 0) 0 0 128 4 true).1 = .miss 128 ∧
    ((moved 2 2 32 0 0).engCheck 7 (movedOp 2 2 32 0 0) 2 0 0 4 true).1 = .fault .xlatePerm (xlateTval 2 0 0) ∧
    (∃ d, ((moved 2 2 32 128 0).engCheck 7 (movedOp 2 2 32 128 0) 2 0 128 4 true).1 = .data d) ∧
    (∃ d, ((fromFar true).engCheck 7 (movedOp 0 2 4096 128 0) 2 0 128 4 true).1 = .data d) ∧
    -- the source is poisoned
    ((fromFar true).engRead 7 (movedOp 0 2 4096 128 0) 0 0 false 4096 4).1 = .fault .sramEcc 0x1000 := by
  repeat' with_reducible apply And.intro
  all_goals first
    | decide | exact inv_of (by decide) | exact first_of (by decide) | exact ⟨_, rfl⟩
    | exact got_of (f := fun d u => d.length == 4 && (u.coreAt 0).localOk 128 4 && ((u.clusterAt 0).divertOf 0).isNone && invB u &&
        decide (u.ops = (moved 2 2 32 128 0).ops)) (by decide)

/-- The bytes that the copies below write. -/
def four : List Byte := [1, 2, 3, 4]

theorem wit_EngineOperationsMoveData_writes :
    ((toFar 0x3003 true).engWrite 7 (movedOp 2 0 32 4096 0) 0 0 false 4096 four).1 = .fault .sramEcc 0x1000 ∧
    ((toFar 0x3003 false).engWrite 7 (movedOp 2 0 32 4096 0) 0 0 false 4096 four).1 = .done ∧
    ((toFar 0x3007 false).engWrite 7 (movedOp 2 0 32 4096 0) 0 0 false 4096 four).1 = .flying ∧
    ((moved 2 2 32 128 0).engWrite 7 (movedOp 2 2 32 128 0) 2 0 false 128 four).1 = .done ∧
    (toScratch.engWrite 7 (movedOp 2 1 32 128 0) 1 0 false 128 four).1 = .flying ∧ (0 : BitVec 32).getLsbD 29 = false ∧
    65536 ≤ (movedOp 2 1 32 128 0).key ∧ (∃ co, ((moved 2 1 32 128 0).clusterAt (movedOp 2 1 32 128 0).cl).companies.look 0 = some co) ∧
    (∃ b, (toScratch.clusterAt (movedOp 2 1 32 128 0).cl).physBank 0 (128 / 65536) .scratch = some b) ∧
    (∃ d, (toScratch.engCheck 7 (movedOp 2 1 32 128 0) 1 0 128 4 true).1 = .data d) ∧
    { movedOp 2 1 32 128 4 with flying := 1 }.flying ≠ 0 := by
  repeat' with_reducible apply And.intro
  all_goals first | decide | exact ⟨_, rfl⟩

/-- A CPYQ of the task to queue 0, which has credits or none. -/
def pouring (done credits : Nat) : State :=
  { engaged 0 (.toQueue 2 false 32 8 3 0 none) done with queues := [(0, { queue0 with credits, prod := .task 65536 3 })] }

/-- The CPYQ of `pouring`, and a message of four bytes. -/
def pourOp (done : Nat) : EngOp := op7 0 (.toQueue 2 false 32 8 3 0 none) done
def mailOp (pkg : Option (BitVec 12)) (done : Nat) : EngOp := { op7 5 (.message 2 0 32 4 0 1 pkg 0) done with result := none }
def mail (pkg : Option (BitVec 12)) (done : Nat) : State := { dataTask 32 with ops := [(7, mailOp pkg done)] }

theorem wit_EngineOperationsMoveData_queues : (pouring 8 0).opTurn 7 (pourOp 8) = true ∧ (engaged 0 (.toQueue 2 false 32 8 3 0 none) 0).queue? 0 = none ∧
    (pouring 0 0).opTurn 7 (pourOp 0) = true ∧ (pouring 0 0).queue? 0 = some { queue0 with credits := 0, prod := .task 65536 3 } ∧
    (pouring 0 1).opTurn 7 (pourOp 0) = true ∧
    (∃ x, ((pouring 0 1).updCtx 65536 fun x => { x with qregs := x.qregs.set 3 { QReg.unbound with fenced := some 1 } }).ctxs.look (pourOp 0).key = some x ∧
      x.gtid = (pourOp 0).gtid ∧ x.qregs[(3 : Fin 16)].fenced = some 1) ∧
    (∃ d u, (pouring 0 1).engReadMany 7 (pourOp 0) 2 0 false (32 + 0) 8 = (.data d, u) ∧
      (decide (u.queue? 0 = some { queue0 with credits := 1, prod := .task 65536 3 }) && decide (u.ops = (pouring 0 1).ops)) = true) ∧
    (mail none 1).opTurn 7 (mailOp none 1) = true ∧ packetCount 4 ≤ 1 ∧ 0 < packetCount 4 ∧ (mail none 0).opTurn 7 (mailOp none 0) = true ∧
    (∃ d u, (mail none 0).engReadMany 7 (mailOp none 0) 2 0 false (32 + 0 * 64) (min 64 (4 - 0 * 64)) = (.data d, u) ∧
      decide (u.ops = (mail none 0).ops) = true) ∧
    (mail (some 9) 0).opTurn 7 (mailOp (some 9) 0) = true ∧ (mail (some 9) 0).peerPort (9 : BitVec 12).toNat = none := by
  repeat' with_reducible apply And.intro
  all_goals first
    | decide | exact ⟨_, rfl, by decide, by decide⟩
    | exact first_of (by decide)
    | exact got_of (r := (pouring 0 1).engReadMany 7 (pourOp 0) 2 0 false (32 + 0) 8) (by decide)
    | exact got_of (r := (mail none 0).engReadMany 7 (mailOp none 0) 2 0 false (32 + 0 * 64) (min 64 (4 - 0 * 64)))
        (f := fun _ u => decide (u.ops = (mail none 0).ops)) (by decide)

theorem wit_EngineOperationsMoveData_unfenced : ∀ x, (pouring 0 1).ctxs.look (pourOp 0).key = some x → x.gtid = (pourOp 0).gtid →
    x.qregs[(3 : Fin 16)].fenced = none := by
  intro x hx _
  rw [show (pouring 0 1).ctxs.look (pourOp 0).key = some ((pouring 0 1).ctx 65536) by decide] at hx
  cases hx
  decide

/-- The packet of a message of the task, with data or without. -/
def mailPacket (d : List Byte) : Packet := .message 0 15 0 0 d { tag := 0, launch := 0, cnt := 0, know := .empty } (some 7)

/-- A scratch write and messages on their way. -/
def landing (s : State) : State :=
  { s with pkts := [(5, .scratch 0 (.write 0 0 65528 (leBytes 8 9) (some 7) none)), (6, mailPacket []), (8, mailPacket [1, 2])],
           ops := [(7, op7 0 (copyBody 2 1 none 32 0 4) 4)] }

/-- A state whose company 0 of cluster 0 holds what reaches it at the ingress. -/
def holdingBack (s : State) : State := s.updCluster 0 fun c => { c with diverts := [(0, .divert 0 false true 0 1)] }

/-- A state with a DISCARD entry for bank 0 of company 0. -/
def discarding (s : State) : State := s.updCluster 0 fun c => { c with diverts := [(16, .discard 0 0)] }

/-- A counter of core 0 that a kill has cleared, whose company is gone. -/
def cleared : State := { task.updCore 0 fun c => { c with mail := c.mail.set 15 { Mail.zero with cleared := true } } with clusters := [] }

theorem wit_LandingsReachScratchAndCounters : (landing (barrierTask [])).pkts.look 5 = some (.scratch 0 (.write 0 0 65528 (leBytes 8 9) (some 7) none)) ∧
    ((landing (barrierTask [])).clusterAt 0).divertOf 0 = none ∧ 65528 + (leBytes 8 9).length ≤ 65536 ∧ (landing (barrierTask [])).inv ∧
    ((landing (barrierTask [])).clusterAt 0).physBank 0 0 .scratch = some 0 ∧ ((landing (barrierTask [])).clusterAt 0).discarded 0 0 = false ∧
    ((landing (discarding (barrierTask []))).clusterAt 0).discarded 0 0 = true ∧
    ((landing (discarding (barrierTask []))).clusterAt 0).divertOf 0 = none ∧ ((landing task).clusterAt 0).physBank 0 0 .scratch = none ∧
    ((landing task).coreAt 0).mail[(15 : Fin 16)].owned = false ∧ (∃ o, (landing task).ops.look 7 = some o) ∧
    (landing task).pkts.look 6 = some (mailPacket []) ∧ (landing task).inv ∧ (landing (barrierTask [])).pkts.look 8 = some (mailPacket [1, 2]) ∧
    ((landing (barrierTask [])).company? 0 0).isSome = true ∧ ((landing cleared).coreAt 0).mail[(15 : Fin 16)].cleared = true ∧ (landing cleared).inv ∧
    ((landing cleared).company? 0 0).isSome = false ∧ ((landing (holdingBack task)).clusterAt 0).divertOf 0 = some (false, true, 0, 1) ∧
    (1 : BitVec 32).getLsbD 0 = true ∧ (∃ co, ((landing (holdingBack task)).clusterAt 0).companies.look 0 = some co) ∧ task.pkts.look 5 = none := by
  repeat' with_reducible apply And.intro
  all_goals first | decide | exact inv_of (by decide) | exact ⟨_, rfl⟩

/-- The task holding the handle of an operation that has ended. -/
def resolving (r : OpResult) : State :=
  { (taskWith fun x => { x with g := x.g.set 4 (copyOp.handle.setWidth 256), ft := x.ft.set 4 1 }) with ops := [(7, { copyOp with result := some r })] }

/-- The same with a join whose operations are complete. -/
def joinOp : EngOp := { copyOp with qsel := 6, body := .join [] [] 1 }
def joining : State := { (taskWith fun x => { x with g := x.g.set 4 (joinOp.handle.setWidth 256), ft := x.ft.set 4 1 }) with ops := [(7, joinOp)] }

theorem wit_OperationsResolve : (resolving (.resolved 4)).ops.look 7 = some { copyOp with result := some (.resolved 4) } ∧ task.ops.look 7 = none ∧
    (resolving (.resolved 4)).resolvable 7 { copyOp with result := some (.resolved 4) } = true ∧ (futureTask 1 copyOp.handle).resolvable 7 copyOp = false ∧
    copyOp.exportTo = none ∧ (∃ x, (resolving (.resolved 4)).ctxs.look copyOp.key = some x ∧ x.gtid = copyOp.gtid ∧ x.saved = false ∧
      x.handleAt copyOp.handle = some 4 ∧ x.asyncs.length < 4) ∧
    (resolving (.faulted .xlateMiss 5)).resolvable 7 { copyOp with result := some (.faulted .xlateMiss 5) } = true ∧ FaultCode.xlateMiss ≠ FaultCode.sramEcc ∧
    joining.ops.look 7 = some joinOp ∧ joining.resolvable 7 joinOp = true ∧ joinOp.result = none ∧
    (∃ x, joining.ctxs.look joinOp.key = some x ∧ x.gtid = joinOp.gtid ∧ x.saved = false ∧ x.handleAt joinOp.handle = some 4) ∧
    (resolving .cancelled).resolvable 7 { copyOp with result := some .cancelled } = true ∧
    ({ resolving (.resolved 4) with ctxs := [] } : State).ctxs.look copyOp.key = none ∧
    ({ resolving (.resolved 4) with ctxs := [] } : State).resolvable 7 { copyOp with result := some (.resolved 4) } = true := by
  repeat' with_reducible apply And.intro
  all_goals first | decide | exact ⟨_, rfl, by decide, by decide, by decide⟩ | exact ⟨_, rfl, by decide, by decide, by decide, by decide⟩

/-- A leaf in the local window of core 0, for a write. -/
def localLeaf : Leaf := { vpn := 0, write := true, level := 0, entry := 0xE000000003003 }

/-- An operation that has ended, its cell at 4096, the core's cluster holding leaves of its page. -/
def exporting (l : List Leaf) : State :=
  { task.updCluster 0 (fun c => { c with tlb := l.map fun l => { pnum := 1, leaf := l } }) with
    ops := [(7, { copyOp with exportTo := some { va := 4096, scope := 0 }, result := some (.resolved 3) })], ctxs := [] }

/-- An exported update of a cell, with its translation, the cell holding a word. -/
def updating (leaf : Option Leaf) (held : Bool) (c : Cell) : State :=
  { task with pkts := [(5, .cell copyOp (.resolved 3) { va := 4096, scope := 0 } leaf held)], mem := Mem.setBytes task.mem (localPa 0 4096) c.bytes }

/-- An update of a cell in a line that its home holds. -/
def updatingLine (poison : Bool) (c : Cell) : State :=
  { updating (some { leaf0 with entry := 0x3003 }) false c with
    lines := [(64, { line0 true with poison, data := BitVec.ofNat 512 (leValue c.bytes) })] }

set_option maxRecDepth 8000 in
theorem wit_OperationsResolve_cells :
    let o : EngOp := { copyOp with exportTo := some { va := 4096, scope := 0 }, result := some (.resolved 3) }
    let tr (l : List Leaf) := ((exporting l).engineTranslate (.cell (exporting l).fresh (clusterOf o.core)) (clusterOf o.core) o.pnum 4096 true).1
    -- what ended is sent, and translated
    (∀ l, (exporting l).ops.look 7 = some o) ∧ (∀ l, (exporting l).ctxs.look o.key = none) ∧ (exporting []).resolvable 7 o = true ∧
    (∃ l, tr [localLeaf] = .leaf l) ∧ tr [] = .miss ∧ tr [{ localLeaf with entry := 0xE000000003001 }] = .fault .xlatePerm (xlateTval 0 0 4096) ∧
    -- what waits for its walk
    (updating none false pendingCell).pkts.look 5 = some (.cell copyOp (.resolved 3) { va := 4096, scope := 0 } none false) ∧
    (updating none false pendingCell).walkFaults = [] ∧
    (∃ f, (({ updating none false pendingCell with
      walkFaults := [{ who := .cell 5 0, vpn := 0, write := true, code := .xlateMiss, reason := 1, level := 1 }] } : State).walkFaults.find?
        fun f => f.who.isCell 5) = some f) ∧
    -- what a leaf with write-block holds, and what is held already
    (∀ l h, (updating (some l) h pendingCell).pkts.look 5 = some (.cell copyOp (.resolved 3) { va := 4096, scope := 0 } (some l) h)) ∧
    leafWb (0xE000000003007 : Word) = true ∧ leafWb (0x3003 : Word) = false ∧ leafWb localLeaf.entry = false ∧
    task.modeOf (gtidPnum copyOp.gtid) (gtidLaunch copyOp.gtid) = 0 := by
  refine ⟨fun _ => rfl, fun _ => rfl, by decide, ⟨_, rfl⟩, by decide, by decide, by decide, by decide, ⟨_, rfl⟩, fun _ _ => rfl, by decide, by decide, by decide,
    by decide⟩

set_option maxRecDepth 8000 in
theorem wit_OperationsResolve_updates :
    let pa := leafAddr localLeaf.entry localLeaf.level 4096
    let off := leafAddr (0xE100000003003 : Word) 0 4096
    -- a window, open or refused
    noHome localLeaf.entry = true ∧ noHome (0xE100000003003 : Word) = true ∧ leafWb (0xE100000003003 : Word) = false ∧
    (updating (some localLeaf) false pendingCell).inv ∧
    (updating (some localLeaf) false pendingCell).windowFault false pa 16 0 4096 true = none ∧
    ((updating (some localLeaf) false pendingCell).windowFault false off 16 0 4096 true).isSome = true ∧
    ((cellOf ((updating (some localLeaf) false pendingCell).tierBytes pa 16)).update (.resolved 3)).isSome = true ∧
    (cellOf ((updating (some localLeaf) false resolvedCell).tierBytes pa 16)).update (.resolved 3) = none ∧
    -- a line at its home, poisoned or not
    noHome (0x3003 : Word) = false ∧ leafAddr (0x3003 : Word) 0 4096 = 4096 ∧ (updatingLine true pendingCell).poisoned 4096 = true ∧
    (∃ ln, (updatingLine false pendingCell).lines.look (4096 / 64) = some ln ∧ ln.poison = false) ∧
    ((cellOf ((updatingLine false pendingCell).homeBytes (homeOf 0x3003 4096 4096) 4096 16)).update (.resolved 3)).isSome = true ∧
    (cellOf ((updatingLine false resolvedCell).homeBytes (homeOf 0x3003 4096 4096) 4096 16)).update (.resolved 3) = none := by
  repeat' with_reducible apply And.intro
  all_goals first | decide | exact inv_of (by decide) | exact ⟨_, rfl, rfl⟩

/-- A tile unit with one command, its row buffer valid or not. -/
def tiling (body : OpBody) (row : RowBuf) : State :=
  { (macroTask (desc 3 1)).updCore 1 (fun c => { c with tile := { c.tile with bound := some 65536, row } }) with
    ops := [(7, (macroTask (desc 3 1)).newOp 4 body)] }

/-- The command of `tiling`. -/
def tileOp (body : OpBody) : EngOp := (macroTask (desc 3 1)).newOp 4 body

theorem wit_TileCommandsPerform : task.tileNext 1 = none ∧ (tiling (.tget 1) .invalid).tileNext 1 = some (7, tileOp (.tget 1)) ∧
    (tiling (.tget 1) .invalid).ops.look 7 = some (tileOp (.tget 1)) ∧ (tileOp (.tget 1)).core = 1 ∧
    (tiling (.tzero 3) .invalid).tileNext 1 = some (7, tileOp (.tzero 3)) ∧ (tiling (.tmma 1) .invalid).tileNext 1 = some (7, tileOp (.tmma 1)) ∧
    ((tiling (.tmma 1) .invalid).coreAt 1).tile.row.valid = false ∧
    (tiling (.tmma 17) { RowBuf.invalid with valid := true, rows := 16 }).tileNext 1 = some (7, tileOp (.tmma 17)) ∧
    ((tiling (.tmma 17) { RowBuf.invalid with valid := true, rows := 16 }).coreAt 1).tile.row.valid = true ∧
    (∀ q < 4, (17 : Word).getLsbD q = true → (((tiling (.tmma 17) { RowBuf.invalid with valid := true, rows := 16 }).coreAt 1).tile.b.getD q TileB.granted).valid = true) := by
  repeat' with_reducible apply And.intro
  all_goals first | decide

/-- Reads of all rows give data or a fault, as a test. -/
def gotAllB (r : GotAll × State) (f : State → Bool) (data : Bool) : Bool :=
  match r with
  | (.data _, t) => data && f t
  | (.fault _ _, t) => !data && f t
  | _ => false

theorem gotAll_of {r : GotAll × State} {f : State → Bool} (h : gotAllB r f true = true) : ∃ l t, r = (.data l, t) ∧ f t = true := by
  unfold gotAllB at h
  split at h
  · exact ⟨_, _, rfl, by simpa using h⟩
  · simp at h
  · cases h

theorem gotAllFault_of {r : GotAll × State} {f : State → Bool} (h : gotAllB r f false = true) : ∃ c x t, r = (.fault c x, t) ∧ f t = true := by
  unfold gotAllB at h
  split at h
  · simp at h
  · exact ⟨_, _, _, rfl, by simpa using h⟩
  · cases h

set_option maxRecDepth 8000 in
theorem wit_TileCommandsPerform_rows : (tiling (.tlda 2 false 64 (desc 3 1) 0) .invalid).tileNext 1 = some (7, tileOp (.tlda 2 false 64 (desc 3 1) 0)) ∧
    (∃ l v, (tiling (.tlda 2 false 64 (desc 3 1) 0) .invalid).engReadAll 7 (tileOp (.tlda 2 false 64 (desc 3 1) 0)) 2 0 false
      (rowRanges 64 (desc 3 1) (packedBytes (descFmt (desc 3 1)) 256)) = (.data l, v) ∧
      decide (v.ops = (tiling (.tlda 2 false 64 (desc 3 1) 0) .invalid).ops) = true) ∧
    (tiling (.tlda 2 false 0 (desc 3 1) 0) .invalid).tileNext 1 = some (7, tileOp (.tlda 2 false 0 (desc 3 1) 0)) ∧
    ∃ c x v, (tiling (.tlda 2 false 0 (desc 3 1) 0) .invalid).engReadAll 7 (tileOp (.tlda 2 false 0 (desc 3 1) 0)) 2 0 false
      (rowRanges 0 (desc 3 1) (packedBytes (descFmt (desc 3 1)) 256)) = (.fault c x, v) ∧
      decide (v.ops = (tiling (.tlda 2 false 0 (desc 3 1) 0) .invalid).ops) = true := by
  refine ⟨by decide, ?_, by decide, ?_⟩
  · exact gotAll_of (f := fun v => decide (v.ops = (tiling (.tlda 2 false 64 (desc 3 1) 0) .invalid).ops)) (by decide)
  · exact gotAllFault_of (f := fun v => decide (v.ops = (tiling (.tlda 2 false 0 (desc 3 1) 0) .invalid).ops)) (by decide)

/-! ## Operators that run -/

/-- An operator with inputs 0 and 1 on queues 0 and 1, output 16 on queue 2, and parameter registers. -/
def flow (kind : OprKind) (pregs : Tbl Word) : Opr := { opr0 kind .running with ins := [(0, 0), (1, 1)], outs := [(16, 2)], pregs }

/-- That operator, with entries in its inputs and two credits in its output. -/
def flowing (o : Opr) (a b : List Entry) : State :=
  { pitched with oprs := [(0, o)], queues := [(0, holding a), (1, holding b), (2, { queue0 with credits := 2 })] }

/-- The queue that takes the operator's output. -/
def drain : Queue := { queue0 with credits := 2 }

/-- No port of a list of inputs has a queue. -/
theorem not_in {l : Tbl Nat} {m : Nat} (h : (l.any fun e => e.2 == m) = false) : ∀ p, l.look p ≠ some m := by
  intro p hp
  have := List.any_eq_false.1 h _ (look_mem _ _ _ hp)
  simp at this

/-- An operator that may act has an entry at an input, as a test. -/
def inputB (s : State) (k : Nat) (o : Opr) (port n : Nat) (q : Queue) (e : Entry) (rest : List Entry) : Bool :=
  s.oprs.look k == some o && o.state == .running && (s.oprTurn o && o.actedAt != s.cycle + 1) && o.ins.look port == some n && s.queue? n == some q &&
    q.marker.isNone && q.inRing != 0 && q.entries == e :: rest && !e.fmark && !s.behindJoin n q

theorem input_of {s : State} {k : Nat} {o : Opr} {port n : Nat} {q : Queue} {e : Entry} {rest : List Entry}
    (h : inputB s k o port n q e rest = true) : s.hasInput k o port n q e rest := by
  simp only [inputB, Bool.and_eq_true, Bool.not_eq_true', beq_iff_eq, bne_iff_ne, ne_eq, Option.isNone_iff_eq_none] at h
  obtain ⟨⟨⟨⟨⟨⟨⟨⟨⟨a, b⟩, c, d⟩, p⟩, f⟩, g⟩, i⟩, j⟩, l⟩, m⟩ := h
  exact ⟨a, b, ⟨c, d⟩, p, f, g, i, j, l, m⟩

/-- An operator with a port to a queue with credits, as a test. -/
def outputB (s : State) (o : Opr) (port m : Nat) (r : Queue) (credits : Nat) : Bool :=
  o.outs.look port == some m && s.queue? m == some r && !r.discards && decide (credits ≤ r.credits) && !o.ins.any fun e => e.2 == m

theorem output_of {s : State} {o : Opr} {port m : Nat} {r : Queue} {credits : Nat} (h : outputB s o port m r credits = true) :
    s.hasOutput o port m r credits := by
  simp only [outputB, Bool.and_eq_true, Bool.not_eq_true', beq_iff_eq, decide_eq_true_eq] at h
  obtain ⟨⟨⟨⟨a, b⟩, c⟩, d⟩, e⟩ := h
  exact ⟨a, b, c, d, not_in e⟩

/-- A fault marker. -/
def mark : Entry := { entry 0 with fmark := true }

theorem wit_OperatorsRunAndFault : (commander .fork .stopped).oprs.look 0 = some (opr0 .fork .stopped) ∧ (opr0 .fork .stopped).state = .stopped ∧
    (flowing (flow .filter []) [mark] []).oprs.look 0 = some (flow .filter []) ∧ (flow .filter []).state = .running ∧
    (flow .filter []).ins.look 0 = some 0 ∧ (flowing (flow .filter []) [mark] []).queue? 0 = some (holding [mark]) ∧
    (holding [mark]).head = some mark ∧ mark.fmark = true ∧ task.oprs.look 0 = none ∧ OprKind.zip ≠ (opr0 .fork .stopped).kind ∧
    (commander .fork .stopped).distAsked 0 (opr0 .fork .stopped) = none ∧ (flowing (flow .filter []) [mark] []).mayAct (flow .filter []) ∧
    (flowing { flow .filter [] with actedAt := 1 } [mark] []).oprs.look 0 = some { flow .filter [] with actedAt := 1 } ∧
    ({ flow .filter [] with actedAt := 1 } : Opr).actedAt = (flowing { flow .filter [] with actedAt := 1 } [mark] []).cycle + 1 := by
  repeat' with_reducible apply And.intro
  all_goals first | decide | exact ⟨by decide, by decide⟩

/-- FORK with two outputs, queues 2 and 3. -/
def forker : Opr := { flow .fork [(8, 2)] with outs := [(16, 2), (17, 3)] }

/-- FORK's state. -/
def forking : State := { flowing forker [entry 0] [] with queues := [(0, holding [entry 0]), (1, holding []), (2, drain), (3, drain)] }

theorem wit_StreamOperators_fork : forker.kind = .fork ∧ forking.hasInput 0 forker 0 0 (holding [entry 0]) (entry 0) [] ∧
    (∀ p p' x, p ≠ p' → forker.outs.look p = some x → forker.outs.look p' ≠ some x) ∧
    (∀ p, 16 ≤ p → p < 16 + forker.field 8 0 3 → ∃ m r, forking.hasOutput forker p m r 1) := by
  refine ⟨rfl, input_of (by decide), ?_, ?_⟩
  · intro p p' x hp h h'
    have h1 := look_mem _ _ _ h
    have h2 := look_mem _ _ _ h'
    simp only [forker, flow, List.mem_cons, List.not_mem_nil, or_false, Prod.mk.injEq] at h1 h2
    omega
  · intro p h1 h2
    have hf : forker.field 8 0 3 = 2 := by decide
    obtain rfl | rfl : p = 16 ∨ p = 17 := by omega
    · exact ⟨2, drain, output_of (by decide)⟩
    · exact ⟨3, drain, output_of (by decide)⟩

theorem wit_StreamOperators_zip : (flowing (flow .zip []) [entry 0] [entry 0]).hasInput 0 (flow .zip []) 0 0 (holding [entry 0]) (entry 0) [] ∧
    (flowing (flow .zip []) [entry 0] [entry 0]).hasInput 0 (flow .zip []) 1 1 (holding [entry 0]) (entry 0) [] ∧ (0 : Nat) ≠ 1 ∧
    (flowing (flow .zip []) [entry 0] [entry 0]).hasOutput (flow .zip []) 16 2 drain 1 ∧
    (flowing (flow .zip []) [entry 0] [entry 1]).hasInput 0 (flow .zip []) 1 1 (holding [entry 1]) (entry 1) [] ∧ (entry 0).kind ≠ (entry 1).kind := by
  repeat' with_reducible apply And.intro
  all_goals first
    | decide | exact input_of (by decide)
    | exact output_of (by decide)

/-- The heads of inputs pass a test. -/
theorem heads {s : State} {o : Opr} {f : Entry → Bool} {j : Nat} (h : (match s.inHead o j with | none => true | some e => f e) = true) :
    ∀ e, s.inHead o j = some e → f e = true := by
  intro e he
  rw [he] at h
  exact h

/-- JOIN of inputs 0 and 1; it chose input 0 last. -/
def joiner : Opr := { flow .join [(8, 3)] with lastIn := 1 }

theorem wit_StreamOperators_join : (flowing joiner [entry 0] [entry 0]).modeOf joiner.pnum joiner.launch = 0 ∧
    (flowing joiner [entry 0] [entry 0]).hasInput 0 joiner (1 : Fin 4).val 1 (holding [entry 0]) (entry 0) [] ∧ (entry 0).kind = 0 ∧
    (joiner.preg 8).getLsbD (1 : Fin 4).val = true ∧ joiner.lastIn < 4 ∧ (flowing joiner [entry 0] [entry 0]).hasOutput joiner 16 2 drain 1 ∧
    (∀ j : Fin 4, (joiner.preg 8).getLsbD j.val = true → ∀ f, (flowing joiner [entry 0] [entry 0]).inHead joiner j.val = some f → f.fmark = false) ∧
    (∀ j : Fin 4, (j.val + 4 - joiner.lastIn) % 4 < ((1 : Fin 4).val + 4 - joiner.lastIn) % 4 → (joiner.preg 8).getLsbD j.val = true →
      ∀ f, (flowing joiner [entry 0] [entry 0]).inHead joiner j.val = some f → f.kind ≠ 0) := by
  refine ⟨by decide, input_of (by decide), by decide, by decide, by decide, output_of (by decide), ?_, ?_⟩
  · intro j hj f hf
    have h : ∀ j : Fin 4, (match (flowing joiner [entry 0] [entry 0]).inHead joiner j.val with | none => true | some e => !e.fmark) = true := by decide
    simpa using heads (h j) f hf
  · intro j hj
    have hl : joiner.lastIn = 1 := rfl
    rw [hl] at hj
    have : (1 : Fin 4).val = 1 := rfl
    omega

/-- FILTER that passes what equals PREG32. -/
def filterer (c : Word) : Opr := flow .filter [(8, 2), (32, c)]

/-- CONVERT from format 0 to format 0. -/
def converter : Opr := flow .convert []

/-- REDUCE whose cues of level 1 and above end a group. -/
def reducer : Opr := flow .reduce [(8, 0x40)]

theorem wit_StreamOperators_elements : (flowing (filterer 4) [entry 0] []).hasInput 0 (filterer 4) 0 0 (holding [entry 0]) (entry 0) [] ∧
    (entry 0).kind = 0 ∧ (filterer 4).filterPass (entry 0).payload = false ∧ (filterer 5).filterPass (entry 0).payload = true ∧
    (flowing (filterer 5) [entry 0] []).hasInput 0 (filterer 5) 0 0 (holding [entry 0]) (entry 0) [] ∧
    (flowing (filterer 5) [entry 0] []).hasOutput (filterer 5) 16 2 drain 1 ∧
    (flowing converter [entry 0] []).hasInput 0 converter 0 0 (holding [entry 0]) (entry 0) [] ∧ (flowing converter [entry 0] []).hasOutput converter 16 2 drain 1 ∧
    (flowing reducer [entry 0] []).hasInput 0 reducer 0 0 (holding [entry 0]) (entry 0) [] ∧
    (flowing { reducer with pregs := [(8, 0x80)] } [entry 1] []).hasInput 0 { reducer with pregs := [(8, 0x80)] } 0 0 (holding [entry 1]) (entry 1) [] ∧
    (entry 1).kind.val < ({ reducer with pregs := [(8, 0x80)] } : Opr).field 8 6 3 ∧
    (flowing reducer [entry 1] []).hasInput 0 reducer 0 0 (holding [entry 1]) (entry 1) [] ∧ reducer.field 8 6 3 ≤ (entry 1).kind.val ∧
    (flowing reducer [entry 1] []).hasOutput reducer 16 2 drain 2 := by
  repeat' with_reducible apply And.intro
  all_goals first
    | decide | exact input_of (by decide) | exact output_of (by decide)

/-- SEQ of two dimensions of two values each, at its first item or at the last of the inner dimension. -/
def sequencer (idx : List Nat) : Opr := { flow .seq [(8, 2), (9, 0x1000), (10, 0x800000002), (11, 0x4000000002)] with ins := [], idx }

theorem wit_AddressAndBridgeOperators_seq : (flowing (sequencer []) [] []).oprs.look 0 = some (sequencer []) ∧ (sequencer []).state = .running ∧
    (flowing (sequencer []) [] []).mayAct (sequencer []) ∧ (sequencer []).indices.length = (sequencer []).dims ∧ (sequencer []).seqOut = [] ∧
    (sequencer []).seqDone = false ∧ (flowing (sequencer []) [] []).hasOutput (sequencer []) 16 2 drain 1 ∧
    (∀ d < 2, (sequencer []).seqCount d ≠ 0) ∧ (sequencer []).dims = 2 ∧ (sequencer []).indices.headD 0 + 1 ≠ (sequencer []).seqCount 0 ∧
    (sequencer [1, 0]).indices.length = (sequencer [1, 0]).dims ∧ (sequencer [1, 0]).indices.headD 0 + 1 = (sequencer [1, 0]).seqCount 0 ∧
    2 ≤ (sequencer [1, 0]).dims ∧ (sequencer [1, 0]).indices.getD 1 0 + 1 ≠ (sequencer [1, 0]).seqCount 1 := by
  repeat' with_reducible apply And.intro
  all_goals first | decide | exact ⟨by decide, by decide⟩ | exact output_of (by decide)

/-- SEQ of one dimension of one value, with EOS or without, and with its end of stream still to push. -/
def lastSeq (eos : Bool) (out : List Entry) : Opr :=
  { flow .seq [(8, if eos then 9 else 1), (9, 0x1000), (10, 0x800000001)] with ins := [], seqOut := out, seqDone := !out.isEmpty }

theorem wit_AddressAndBridgeOperators_last : (lastSeq false []).dims = 1 ∧ (lastSeq false []).indices.length = (lastSeq false []).dims ∧
    (lastSeq false []).indices.headD 0 + 1 = (lastSeq false []).seqCount 0 ∧ (lastSeq true []).indices.headD 0 + 1 = (lastSeq true []).seqCount 0 ∧
    (∀ d < 1, (lastSeq true []).seqCount d ≠ 0) ∧ (lastSeq false []).preg 8 &&& 8 = 0 ∧ (lastSeq true []).preg 8 &&& 8 ≠ 0 ∧ (lastSeq true []).seqOut = [] ∧
    (flowing (lastSeq true []) [] []).hasOutput (lastSeq true []) 16 2 drain 1 ∧ (lastSeq true [entry 7]).seqOut = [entry 7] ∧
    (lastSeq true [entry 7]).seqDone = true ∧ (flowing (lastSeq true [entry 7]) [] []).mayAct (lastSeq true [entry 7]) ∧
    (flowing (lastSeq true [entry 7]) [] []).hasOutput (lastSeq true [entry 7]) 16 2 drain 1 := by
  repeat' with_reducible apply And.intro
  all_goals first | decide | exact ⟨by decide, by decide⟩ | exact output_of (by decide)

/-- A leaf that may be written. -/
def leafRw : Leaf := { vpn := 0, write := true, level := 0, entry := 0x2003 }

/-- REF of 8-byte elements from address 0, with slots. -/
def referrer (slots : List RefSlot) : Opr := { flow .ref [(9, 3), (10, 8)] with slots }

/-- The state of an operator whose tile translates page 0. -/
def mapped (s : State) : State := { s with tileTlbs := [(0, [{ pnum := 1, leaf := leafRw }])] }

/-- The value of an element read, as a test. -/
def elemB {α : Type} (r : Except ElemStop α × State) (f : State → Bool) : Bool :=
  match r with
  | (.ok _, t) => f t
  | _ => false

theorem elem_of {α : Type} {r : Except ElemStop α × State} {f : State → Bool} (h : elemB r f = true) : ∃ v t, r = (.ok v, t) ∧ f t = true := by
  unfold elemB at h
  split at h
  · exact ⟨_, _, rfl, h⟩
  · cases h

/-- The operator in slot 0 passes a test. -/
def oprB (f : Opr → Bool) (t : State) : Bool :=
  match t.oprs.look 0 with
  | none => false
  | some o => f o

theorem opr_of {f : Opr → Bool} {t : State} (h : oprB f t = true) : ∃ o, t.oprs.look 0 = some o ∧ f o = true := by
  unfold oprB at h
  split at h
  · cases h
  · exact ⟨_, by assumption, h⟩

/-- A slot of a REF. -/
def slot0 (va : Nat) (done : Bool) : RefSlot := { va, esize := 8, na := false, entry := entry 0, know := .empty, done }

/-- A REF with one slot. -/
def reading (va : Nat) (done : Bool) : State := flowing (referrer [slot0 va done]) [] []

set_option maxRecDepth 8000 in
theorem wit_AddressAndBridgeOperators_ref : (flowing (referrer []) [entry 0] []).hasInput 0 (referrer []) 0 0 (holding [entry 0]) (entry 0) [] ∧
    (referrer []).slots = [] ∧ (referrer []).retrying = false ∧ (referrer [slot0 0 true]).slots = slot0 0 true :: [] ∧ (slot0 0 true).done = true ∧
    (reading 0 true).oprs.look 0 = some (referrer [slot0 0 true]) ∧ (reading 0 true).mayAct (referrer [slot0 0 true]) ∧
    (reading 0 true).hasOutput (referrer [slot0 0 true]) 16 2 drain 1 ∧ (referrer [slot0 0 true]).nextRead ≠ some 0 ∧ (slot0 1 false).esize ≤ 8 ∧
    (referrer []).stopping = false ∧ ({ referrer [slot0 0 true] with stopping := true } : Opr).stopping = true ∧
    (slot0 1 false).va % (slot0 1 false).esize ≠ 0 ∧ (reading 1 false).oprs.look 0 = some (referrer [slot0 1 false]) ∧
    (referrer [slot0 1 false]).nextRead = some 0 ∧ (referrer [slot0 1 false]).slots[0]? = some (slot0 1 false) ∧
    (∃ u, (reading 8 false).elemRead 0 (referrer [slot0 8 false]) (slot0 8 false) = (.error (.miss 8), u)) := by
  repeat' with_reducible apply And.intro
  all_goals first | decide | exact ⟨by decide, by decide⟩ | exact input_of (by decide) | exact output_of (by decide) | exact ⟨_, rfl⟩

set_option maxRecDepth 8000 in
theorem wit_AddressAndBridgeOperators_value : ∃ v u, (mapped (reading 8 false)).elemRead 0 (referrer [slot0 8 false]) (slot0 8 false) = (.ok v, u) ∧
      ∃ o₁, u.oprs.look 0 = some o₁ ∧ o₁.slots = (referrer [slot0 8 false]).slots := by
  obtain ⟨v, u, h1, h2⟩ := elem_of (r := (mapped (reading 8 false)).elemRead 0 (referrer [slot0 8 false]) (slot0 8 false))
    (f := oprB fun o => o.slots == (referrer [slot0 8 false]).slots) (by decide)
  obtain ⟨o, h3, h4⟩ := opr_of h2
  exact ⟨v, u, h1, o, h3, by simpa using h4⟩

/-- PUT of 8-byte elements, indexed by its input 0 or in order. -/
def putter (mode : Word) : Opr := { flow .put [(9, mode), (10, 8)] with ins := [(0, 0), (1, 1)] }

/-- The same with a base address that is no multiple of 8. -/
def oddPutter : Opr := { putter 3 with pregs := [(8, 1), (9, 3), (10, 8)] }

/-- PUT's write leaves its inputs alone. -/
def putB (o : Opr) (s t : State) : Bool := oprB (fun p => p.ins == o.ins && p.nth == o.nth) t && t.queues == s.queues

theorem put_of {o : Opr} {s : State} {n : Nat} {v : Vec} (h : elemB (s.elemWrite 0 o n v) (putB o s) = true) :
    ∃ u o₁, s.elemWrite 0 o n v = (.ok (), u) ∧ u.oprs.look 0 = some o₁ ∧ o₁.ins = o.ins ∧ o₁.nth = o.nth ∧ u.queues = s.queues := by
  obtain ⟨v, u, h1, h2⟩ := elem_of h
  simp only [putB, Bool.and_eq_true, beq_iff_eq] at h2
  obtain ⟨p, h3, h4⟩ := opr_of h2.1
  simp only [Bool.and_eq_true, beq_iff_eq] at h4
  exact ⟨u, p, h1, h3, h4.1, h4.2, h2.2⟩

/-- The entry of an index that is a multiple of 8 bytes, 5. -/
def putting (mode : Word) (b : Entry) : State := mapped (flowing (putter mode) [entry 0] [b])

set_option maxRecDepth 8000 in
theorem wit_AddressAndBridgeOperators_put : (putter 3).field 9 5 1 ≠ 1 ∧ (putting 3 (entry 0)).hasInput 0 (putter 3) 0 0 (holding [entry 0]) (entry 0) [] ∧
    (putting 3 (entry 0)).hasInput 0 (putter 3) 1 1 (holding [entry 0]) (entry 0) [] ∧
    (putting 3 (entry 1)).hasInput 0 (putter 3) 1 1 (holding [entry 1]) (entry 1) [] ∧ (entry 0).kind ≠ (entry 1).kind ∧
    (∃ u o₁, (putting 3 (entry 0)).elemWrite 0 (putter 3) ((putter 3).elemVa ((entry 0).payload.setWidth 64)) (entry 0).payload = (.ok (), u) ∧
      u.oprs.look 0 = some o₁ ∧ o₁.ins = (putter 3).ins ∧ o₁.nth = (putter 3).nth ∧ u.queues = (putting 3 (entry 0)).queues) ∧
    (∃ u, (flowing (putter 3) [entry 0] [entry 0]).elemWrite 0 (putter 3) ((putter 3).elemVa ((entry 0).payload.setWidth 64)) (entry 0).payload =
      (.error (.miss ((putter 3).elemVa ((entry 0).payload.setWidth 64))), u)) ∧
    (flowing (putter 3) [entry 1] [entry 1]).hasInput 0 (putter 3) 0 0 (holding [entry 1]) (entry 1) [] ∧
    (flowing (putter 3) [entry 1] [entry 1]).hasOutput (putter 3) 16 2 drain 1 ∧
    (flowing (putter 3) [entry 1] [entry 1]).heldItems 0 (putter 3) = [] ∧
    -- an element that is not aligned
    oddPutter.esize ≤ 8 ∧ oddPutter.elemVa ((entry 0).payload.setWidth 64) % oddPutter.esize ≠ 0 ∧
    (flowing oddPutter [entry 0] [entry 0]).hasInput 0 oddPutter 0 0 (holding [entry 0]) (entry 0) [] ∧ oddPutter.field 9 5 1 ≠ 1 ∧ (putter 0x23).field 9 5 1 = 1 ∧
    ∃ u o₁, (putting 0x23 (entry 0)).elemWrite 0 (putter 0x23) ((putter 0x23).elemVa (BitVec.ofNat 64 (putter 0x23).nth)) (entry 0).payload = (.ok (), u) ∧
      u.oprs.look 0 = some o₁ ∧ o₁.ins = (putter 0x23).ins ∧ o₁.nth = (putter 0x23).nth ∧ u.queues = (putting 0x23 (entry 0)).queues := by
  repeat' with_reducible apply And.intro
  all_goals first | decide | exact input_of (by decide) | exact output_of (by decide) | exact put_of (by decide) | exact ⟨_, rfl⟩

/-- The receiving end of a bridge on die 0, what is on the wire to it, and the sending one on die 1. -/
def receiver (wire : List (Entry × Carrier)) : Opr := { flow .bridge [(8, 1)] with ins := [], partner := some 384, wire }
def sender : Opr := { flow .bridge [] with ins := [(0, 0)], outs := [], partner := some 0, cl := 24 }

/-- Both ends of a bridge in one package. -/
def bridging (wire : List (Entry × Carrier)) : State :=
  { pitched with oprs := [(0, receiver wire), (384, sender)], queues := [(0, holding [entry 0]), (2, drain)] }

/-- The same with a queue that has no room. -/
def bridgingFull : State := { bridging [] with queues := [(0, holding [entry 0]), (2, { drain with credits := 0 })] }

theorem wit_AddressAndBridgeOperators_bridge : sender.kind = .bridge ∧ sender.field 8 0 1 = 0 ∧
    (bridging []).hasInput 384 sender 0 0 (holding [entry 0]) (entry 0) [] ∧ (bridging []).receiverOf sender = some (0, receiver []) ∧
    (bridging []).bridgeRoom (receiver []) = true ∧ bridgingFull.receiverOf sender = some (0, receiver []) ∧ bridgingFull.bridgeRoom (receiver []) = false ∧
    ({ bridging [] with oprs := [(384, sender)] } : State).receiverOf sender = none ∧ (receiver []).kind = .bridge ∧ (receiver []).field 8 0 1 = 1 ∧
    (bridging [(entry 0, .empty)]).oprs.look 0 = some (receiver [(entry 0, .empty)]) ∧ (receiver []).state = .running ∧
    (bridging []).mayAct (receiver []) ∧ (entry 0).fmark = false ∧ (bridging [(entry 0, .empty)]).hasOutput (receiver [(entry 0, .empty)]) 16 2 drain 1 := by
  repeat' with_reducible apply And.intro
  all_goals first | decide | exact ⟨by decide, by decide⟩ | exact input_of (by decide) | exact output_of (by decide)

/-- DIST with two live replicas and no COLLECT: staged entries of replica 0, and the idle frames and least number of replicas. -/
def dister (staged : List Entry) (pregs : Tbl Word) : Opr :=
  { flow .dist pregs with ins := [(0, 0)], outs := [(16, 2), (17, 3)], live := 3, staging := [(0, staged.map fun e => (e, .empty))], idleFrames := [(1, 2)] }

/-- DIST's state; its replicas' queues are empty. -/
def disting (o : Opr) (a : List Entry) : State :=
  { flowing o a [] with queues := [(0, holding a), (2, { queue0 with credits := 4 }), (3, { queue0 with credits := 4 })] }

theorem wit_DistributionAndCollection_take : (disting (dister [entry 0] []) [entry 0]).modeOf (dister [entry 0] []).pnum (dister [entry 0] []).launch = 0 ∧
    (disting (dister [entry 0] []) [entry 0]).hasInput 0 (dister [entry 0] []) 0 0 (holding [entry 0]) (entry 0) [] ∧
    (disting (dister [entry 0] []) [entry 0]).windowFull (dister [entry 0] []) = false ∧
    leastOf ((disting (dister [entry 0] []) [entry 0]).load (dister [entry 0] []))
      ((dister [entry 0] []).liveList.filter fun j => ((dister [entry 0] []).staged j).length < 4) = some 1 ∧
    (dister [entry 0] []).partner = none ∧ (dister [entry 0] []).staged 0 = entry 0 :: [] ∧
    (disting (dister [entry 0] []) []).hasOutput (dister [entry 0] []) (16 + 0) 2 { queue0 with credits := 4 } 1 ∧
    ((dister [entry 0] []).liveList.filter fun j => (disting (dister [entry 0] []) []).load (dister [entry 0] []) j == 0).head? = some 1 ∧
    mostOf (fun j => ((dister [entry 0] []).staged j).length) ((dister [entry 0] []).liveList.filter (dister [entry 0] []).stealable) = some 0 ∧
    (1 : Nat) ≠ 0 ∧ (disting (dister [entry 0] []) []).mayAct (dister [entry 0] []) ∧ ((dister [entry 0] []).staged 0).getLast? = some (entry 0) := by
  repeat' with_reducible apply And.intro
  all_goals first
    | decide | exact input_of (by decide) | exact output_of (by decide) | exact ⟨by decide, by decide⟩

/-- The registers of a DIST that keeps one replica, shrinks at a load below 4 and after 1 idle frame. -/
def shrinker : Opr := dister [] [(8, 0x201), (32, 0x100000004)]

theorem wit_DistributionAndCollection_frames : (disting { shrinker with frameAt := 1 } []).oprs.look 0 = some { shrinker with frameAt := 1 } ∧
    ({ shrinker with frameAt := 1 } : Opr).frameAt = (disting { shrinker with frameAt := 1 } []).cycle / 256 + 1 ∧
    (disting shrinker []).oprs.look 0 = some shrinker ∧ (disting shrinker []).distAsked 0 shrinker = none ∧ shrinker.state = .running ∧ shrinker.frameAt ≠ (disting shrinker []).cycle / 256 + 1 ∧
    shrinker.field 8 0 5 < shrinker.liveList.length ∧ (shrinker.liveList.map ((disting shrinker []).load shrinker)).sum < shrinker.field 32 0 16 ∧
    shrinker.liveList.getLast? = some 1 ∧ (disting shrinker []).load shrinker 1 = 0 ∧ shrinker.field 32 32 16 ≤ shrinker.idleFrames.getD 1 0 + 1 ∧
    (disting shrinker []).hasOutput shrinker (16 + 1) 3 { queue0 with credits := 4 } 1 := by
  repeat' with_reducible apply And.intro
  all_goals first | decide | exact output_of (by decide)

/-- COLLECT of one or two entries for each tag, at tag 0, which replica 0 serves. -/
def collector (per : Word) : Opr := { flow .collect [(8, per)] with ins := [(0, 0)], recs := [.data 0 0] }

theorem wit_DistributionAndCollection_collect (per : Word) : (flowing (collector per) [entry 0] []).oprs.look 0 = some (collector per) ∧
    (collector per).state = .running ∧ (flowing (collector per) [entry 0] []).mayAct (collector per) ∧ ((collector per).recs.find? fun x => x.tag == (collector per).next) = some (.data 0 0) ∧
    (∀ p f, (flowing (collector per) [entry 0] []).inHead (collector per) p = some f →
      f.fmark = false ∧ (f.kind = 0 → tagBehind f.tag (collector per).next = false)) ∧
    (flowing (collector per) [entry 0] []).hasInput 0 (collector per) 0 0 (holding [entry 0]) (entry 0) [] ∧ (entry 0).kind = 0 ∧
    (entry 0).tag = (collector per).next ∧ (flowing (collector per) [entry 0] []).hasOutput (collector per) 16 2 drain 1 ∧
    (collector 0).field 8 0 5 = 0 ∧ (collector 1).field 8 0 5 ≠ 0 ∧ (collector 1).field 8 0 5 ≤ (collector 1).emitted + 1 := by
  refine ⟨rfl, rfl, ⟨rfl, Nat.zero_ne_one⟩, rfl, ?_, ⟨rfl, rfl, ⟨rfl, Nat.zero_ne_one⟩, rfl, rfl, rfl, by decide, rfl, rfl, rfl⟩, rfl, rfl,
    ⟨rfl, rfl, rfl, by decide, not_in rfl⟩, by decide, by decide, by decide⟩
  intro p f h
  unfold State.inHead State.inQueue at h
  cases hl : (collector per).ins.look p with
  | none => simp [hl] at h
  | some n =>
    have hm := look_mem _ _ _ hl
    simp only [collector, flow, List.mem_cons, List.not_mem_nil, or_false, Prod.mk.injEq] at hm
    obtain ⟨rfl, rfl⟩ := hm
    have h2 : (flowing (collector per) [entry 0] []).queue? 0 = some (holding [entry 0]) := rfl
    have h3 : (holding [entry 0]).head = some (entry 0) := rfl
    have h4 : (flowing (collector per) [entry 0] []).behindJoin 0 (holding [entry 0]) = false := rfl
    simp only [hl, h2, h3, h4, Option.map_some, Bool.and_false, Bool.false_eq_true, if_false, Option.some.injEq] at h
    cases h
    exact ⟨rfl, fun _ => (by decide : tagBehind 0 0 = false)⟩

/-! ## The host's queues, launches and functions -/

/-- A package whose partition 1 translates virtual addresses below 2^36 to the same physical ones, with words in its memory. -/
def hosted (words : List (Nat × Nat)) : State :=
  let entries := [(0, 0x2031), (0x2000, 0x4031), (0x4000, 0x3003)] ++ words
  { State.reset with
    boot := .running, mem := entries.foldl (fun m e => Mem.setBytes m e.1 (leBytes 8 e.2)) []
    parts := [(1, { Part.reset with active := true, pitch := 1, vfmask := 8, regions := [0x4000000000000001] })],
    vfs := [(3, { Vf.reset with qtbase := 0x10000, qtlen := 2 })] }

/-- Its queue 0 of function 3: a descriptor of 16 entries, and one entry for a playbill of one stage of an image of one instruction. -/
def words0 : List (Nat × Nat) :=
  [(0x10000, 2 ^ 63 + 4 * 2 ^ 56 + 0x10100), (0x10100, 0x10200), (0x10108, 0x10300), (0x10200, 1 + 2 ^ 16), (0x10210, 2), (0x10220, 0x10400),
    (0x10240, 2 ^ 16 + 2 ^ 24), (0x10400, 1 + 2 ^ 32), (0x10408, 1)]

/-- The entry. -/
def sub0 : SubEntry := { pb := 0x10200, cell := 0x10300, deps := [0, 0, 0, 0], prio := none, depfail := false, utag := 0, ok := true }

/-- A start of a launch that is refused. -/
def startErr (r : Except (Nat × State) (Option State)) : Bool :=
  match r with
  | .error _ => true
  | _ => false

theorem err_of {r : Except (Nat × State) (Option State)} (h : startErr r = true) : ∃ n u, r = .error (n, u) := by
  unfold startErr at h
  split at h
  · exact ⟨_, _, rfl⟩
  · cases h

/-- What a start of a launch finds: 1 where it starts, 2 where its resources are in use. -/
def startCode (r : Except (Nat × State) (Option State)) : Nat :=
  match r with
  | .ok (some _) => 1
  | .ok none => 2
  | .error _ => 0

theorem start_of {r : Except (Nat × State) (Option State)} (h : startCode r = 1) : ∃ u, r = .ok (some u) := by
  unfold startCode at h
  split at h
  · exact ⟨_, rfl⟩
  · cases h
  · cases h

theorem busy_of {r : Except (Nat × State) (Option State)} (h : startCode r = 2) : r = .ok none := by
  unfold startCode at h
  split at h
  · cases h
  · rfl
  · cases h

/-- What function 3's descriptor holds. -/
def desc0 : List Nat := [2 ^ 63 + 4 * 2 ^ 56 + 0x10100, 0, 0, 0]

/-- The state in which its descriptor has been read. -/
def rung0 : State := ((hosted words0).cpWords 1 ((hosted words0).descVa 3 0) 4).2

/-- A software queue as the command processor keeps it. -/
def sw0 (state : SwState) (head tail : BitVec 32) : SwQueue := { at_ := 0x10000, state, head, tail }

/-- The package; queue 0 of function 3, as kept, has slot 0, and queue 1 waits. -/
def slotted (state : SwState) (cycle : Nat) : State :=
  { hosted words0 with
    cycle, hwslots := [(0, (3, 0))], waitingQs := [(3, 1)],
    vfs := [(3, { Vf.reset with qtbase := 0x10000, qtlen := 2, queues := [(0, sw0 state 0 1), (1, { sw0 .waiting 0 1 with at_ := 0x10020 })] })] }

/-- The package, queue 0 of function 3 kept in a state, and waiting for a slot where that is its state. -/
def keptAs (state : SwState) (head : BitVec 32) : State :=
  { hosted words0 with
    waitingQs := if state == .waiting then [(3, 0)] else []
    vfs := [(3, { Vf.reset with qtbase := 0x10000, qtlen := 2, queues := [(0, sw0 state head head)] })] }

/-- The state in which the descriptor of its queue has been read. -/
def rungIn (state : SwState) (head : BitVec 32) : State := ((keptAs state head).cpWords 1 ((keptAs state head).descVa 3 0) 4).2

set_option maxRecDepth 100000 in
theorem doorbell_read {s : State} (value : Word) (h : value.toNat % 2 ^ 12 = 0) (hs : s = hosted words0 ∨ s = keptAs .waiting 1 ∨ s = keptAs .idle 1 ∨
    s = keptAs .down 0) : s.doorbellRead 3 value 1 desc0 (s.cpWords 1 (s.descVa 3 0) 4).2 := by
  unfold State.doorbellRead
  simp only [h]
  obtain rfl | rfl | rfl | rfl := hs <;> (repeat' with_reducible apply And.intro) <;> first | decide +kernel | exact Prod.ext (by decide +kernel) rfl

set_option maxRecDepth 100000 in
theorem doorbell_ok {s : State} (value : Word) (h : value.toNat % 2 ^ 12 = 0) (hs : s = hosted words0 ∨ s = keptAs .waiting 1 ∨ s = keptAs .idle 1) :
    s.doorbellOk 3 value 1 desc0 (s.cpWords 1 (s.descVa 3 0) 4).2 := by
  refine ⟨doorbell_read value h (hs.imp_right fun h => h.imp_right .inl), by decide +kernel, ?_⟩
  simp only [h]
  obtain rfl | rfl | rfl := hs <;> decide +kernel

/-- The package, queue 0 of function 3 not enabled, and the state in which its descriptor has been read. -/
def unready : State := hosted (words0.map fun e => if e.1 = 0x10000 then (e.1, e.2 - 2 ^ 63) else e)

set_option maxRecDepth 100000 in
theorem wit_DoorbellsAndQuanta_counted :
    (∃ u, unready.doorbellRead 3 0x100000000 1 [4 * 2 ^ 56 + 0x10100, 0, 0, 0] u ∧
      (u.rungQueue 3 0 [4 * 2 ^ 56 + 0x10100, 0, 0, 0]).state.isDown = false) ∧
    (keptAs .down 0).doorbellRead 3 0x100000000 1 desc0 (rungIn .down 0) ∧ desc0.getD 0 0 / 2 ^ 63 % 2 = 1 ∧
    ((rungIn .down 0).rungQueue 3 0 desc0).state = .down := by
  refine ⟨⟨(unready.cpWords 1 (unready.descVa 3 0) 4).2, ?_, by decide +kernel⟩, doorbell_read _ (by decide) (.inr (.inr (.inr rfl))), by decide, by decide +kernel⟩
  unfold State.doorbellRead
  repeat' with_reducible apply And.intro
  all_goals first | decide +kernel | exact Prod.ext (by decide +kernel) rfl

/-- Function 3 in the middle of a Function Level Reset. -/
def resetting : State := { hosted [] with vfs := [(3, { Vf.reset with qtbase := 0x10000, qtlen := 2, flr := true })] }

set_option maxRecDepth 100000 in
theorem wit_DoorbellsAndQuanta_refused : (hosted []).boot = .running ∧ State.reset.boot ≠ .running ∧ (resetting.vf 3).flr = true ∧
    (({ hosted [] with restarting := true } : State).vf 3).flr = false ∧ ({ hosted [] with restarting := true } : State).restarting = true ∧
    ((hosted []).vf 4).flr = false ∧ (hosted []).restarting = false ∧ (hosted []).vfPart 4 = none ∧
    ((hosted []).vf 3).flr = false ∧ ((hosted []).vf 3).qtlen ≤ (5 : Word).toNat % 2 ^ 12 ∧
    (hosted words0).doorbellOk 3 0x1100000000 1 desc0 rung0 ∧ 2 ^ (desc0.getD 0 0 / 2 ^ 56 % 16) < (17 - (rung0.rungQueue 3 0 desc0).head).toNat := by
  repeat' with_reducible apply And.intro
  all_goals first | decide | exact doorbell_ok _ (by decide) (.inl rfl) | decide +kernel

set_option maxRecDepth 100000 in
theorem wit_DoorbellsAndQuanta_taken : 2 ≤ desc0.getD 0 0 / 2 ^ 56 % 16 ∧ desc0.getD 0 0 / 2 ^ 56 % 16 ≤ 12 ∧
    -- a queue that waited, its work taken back
    (keptAs .waiting 1).doorbellOk 3 0x100000000 1 desc0 (rungIn .waiting 1) ∧ (keptAs .waiting 1).waitingQs = [(3, 0)] ∧
    ((rungIn .waiting 1).rungQueue 3 0 desc0).head = 1 ∧ ((rungIn .waiting 1).rungQueue 3 0 desc0).state = .waiting ∧
    -- an idle queue without work
    (keptAs .idle 1).doorbellOk 3 0x100000000 1 desc0 (rungIn .idle 1) ∧ (keptAs .idle 1).waitingQs = [] ∧
    ((rungIn .idle 1).rungQueue 3 0 desc0).head = 1 ∧ ((rungIn .idle 1).rungQueue 3 0 desc0).state ≠ .waiting ∧
    -- an idle queue of which all entries are pending
    (hosted words0).doorbellOk 3 0x1000000000 1 desc0 rung0 ∧ (16 - (rung0.rungQueue 3 0 desc0).head).toNat ≤ 2 ^ (desc0.getD 0 0 / 2 ^ 56 % 16) ∧
    (rung0.rungQueue 3 0 desc0).head ≠ 16 ∧ (rung0.rungQueue 3 0 desc0).state = .idle ∧ (hosted words0).waitingQs = [] ∧
    (hosted words0).freeHwSlot = some 0 := by
  repeat' with_reducible apply And.intro
  all_goals first
    | decide | exact doorbell_ok _ (by decide) (.inl rfl) | exact doorbell_ok _ (by decide) (.inr (.inl rfl))
    | exact doorbell_ok _ (by decide) (.inr (.inr rfl)) | decide +kernel

set_option maxRecDepth 10000 in
theorem wit_DoorbellsAndQuanta_quanta : (slotted (.mapped 0 0) 2699999).quantumOver 0 = false ∧ (slotted (.mapped 0 0) 2700000).quantumOver 0 = true ∧
    (slotted (.mapped 0 0) 2700000).hwslots.look 0 = some (3, 0) ∧ (slotted (.mapped 0 0) 2700000).waitingQs = [(3, 1)] ∧ ((3, 1) ≠ ((3, 0) : Nat × Nat)) ∧
    ((slotted (.mapped 0 0) 2700000).sw 3 1).work = true ∧
    ({ slotted (.mapped 0 0) 2700000 with hwslots := (slotted (.mapped 0 0) 2700000).hwslots.del 0 } : State).freeHwSlot = some 0 := by
  repeat' with_reducible apply And.intro
  all_goals first | decide | decide +kernel

/-- A teardown of function 3 in progress, which waits for the kill of a launch. -/
def tearing (dying : Bool) : State :=
  { hosted [] with
    vfs := [(3, { Vf.reset with tdbusy := true, tdwait := [launchKey 1 1] })]
    launches := [(launchKey 1 1, { pnum := 1, number := 1, vf := 3, qid := 0, cell := 0x10300, utag := 0, stages := [], companies := [], queues := [],
                                   reps := [], killCode := none, cancelled := true, dying, defHandler := false, todo := [], mode := 0, digest := 0, orpb := 0,
                                   anywhere := false })] }

theorem wit_TeardownsAndFunctionResets : (hosted []).boot = .running ∧ State.reset.boot ≠ .running ∧
    (({ hosted [] with vfs := [(3, { Vf.reset with qtlen := 2, tdqid := 2 })] } : State).vf 3).qtlen ≤
      (({ hosted [] with vfs := [(3, { Vf.reset with qtlen := 2, tdqid := 2 })] } : State).vf 3).tdqid ∧
    ((hosted []).vf 3).tdqid < ((hosted []).vf 3).qtlen ∧ ((hosted []).vf 3).tdbusy = false ∧ (tearing true).tornDown 3 = false ∧
    ((tearing false).vf 3).tdbusy = true ∧ (tearing false).tornDown 3 = true := by
  repeat' with_reducible apply And.intro
  all_goals first | decide

/-! ## Launches -/

/-- The package, queue 0 of function 3 mapped and its entry pending, with words in its memory. -/
def launching (words : List (Nat × Nat)) : State :=
  { hosted words with
    hwslots := [(0, (3, 0))],
    vfs := [(3, { Vf.reset with qtbase := 0x10000, qtlen := 2, queues := [(0, sw0 (.mapped 0 0) 0 1)] })] }

/-- The words of an entry that waits for nothing, with CTL, first dependence and handler address of its playbill's image. -/
def wordsWith (dep ctl img cell0 : Nat) : List (Nat × Nat) :=
  words0.filter (fun e => e.1 != 0x10220) ++ [(0x10110, dep), (0x10130, ctl), (0x10220, img), (0x10340, cell0)]

/-- A launch that has no task. -/
def idleLaunch : Launch :=
  { pnum := 1, number := 1, vf := 3, qid := 0, cell := 0x10300, utag := 0, stages := [], companies := [], queues := [], reps := [], killCode := none,
    cancelled := false, dying := false, defHandler := false, todo := [], mode := 0, digest := 0, orpb := 0, anywhere := false }

/-- The package with that launch. -/
def retiring : State := { hosted words0 with launches := [(launchKey 1 1, idleLaunch)] }

/-- A company of another launch, with a claim that takes every slot of its cluster. -/
def crowd : Company :=
  { Company.fresh 1 2 true { slots := 120, banks := 0, tiles := 0 } with
    slots := (clusterCores 0).flatMap fun c => ((List.range 16).drop 1).map fun i => (c, i) }

/-- The package with a ready entry, and no slot free. -/
def full0 : State := (launching words0).setCluster 0 { Cluster.reset with companies := [(0, crowd)] }

/-- The package with an entry that says what none may, its memory under write-block. -/
def blocked0 : State := launching (wordsWith 0 (2 ^ 31) 0x10400 0 ++ [(0x4000, 0x3007)])

/-- A launch whose one task has still to start. -/
def rising : Launch :=
  { idleLaunch with
    stages := [{ img := 0, entry := 2, tileCore := false, minr := 1, maxr := 1, cl := 0, company := 0, nregs := 0, init := [] }]
    todo := [(0, 0, mkCoord 0 0 0, 1)] }

/-- The package with that launch. -/
def raising : State := { hosted words0 with launches := [(launchKey 1 1, rising)] }

set_option maxRecDepth 100000 in
theorem wit_LaunchesStartAndRetire_starts : (hosted []).startable = none ∧ (hosted []).heads = [] ∧
    ({ hosted [] with restarting := true } : State).restarting = true ∧ raising.restarting = false ∧ raising.startable = some rising ∧
    raising.launches.look (launchKey rising.pnum rising.number) = some rising ∧ raising.modeOf rising.pnum rising.number = 0 ∧
    rising.todo = [(0, 0, mkCoord 0 0 0, 1)] ∧ (rising.stages[0]?).isSome = true ∧ (launching words0).restarting = false ∧
    (launching words0).startable = none ∧ (launching words0).heads = [((0, 3, 0), .ready sub0 0)] ∧
    (∃ u, (launching words0).startEntry 3 0 (((launching words0).vfPart 3).getD 0) sub0 = .ok (some u)) ∧
    full0.restarting = false ∧ full0.startable = none ∧ full0.heads = [((0, 3, 0), .ready sub0 0)] ∧
    full0.startEntry 3 0 ((full0.vfPart 3).getD 0) sub0 = .ok none := by
  repeat' with_reducible apply And.intro
  all_goals first
    | decide | decide +kernel | exact start_of (by decide +kernel)
    | exact busy_of (by decide +kernel)

/-- The package with its entry, a forced change of its partition's mode in progress. -/
def forcing : State := { launching words0 with cycling := some 1 }

set_option maxRecDepth 100000 in
theorem wit_LaunchesStartAndRetire_refusals : (launching []).restarting = false ∧ (launching []).startable = none ∧
    (launching []).heads = [((0, 3, 0), .refuse 0 1)] ∧
    blocked0.restarting = false ∧ blocked0.startable = none ∧ blocked0.heads = [((0, 3, 0), .refuse 0x10300 1)] ∧ (launching (wordsWith 0 0 1 0)).restarting = false ∧
    (launching (wordsWith 0 0 1 0)).startable = none ∧ (launching (wordsWith 0 0 1 0)).heads = [((0, 3, 0), .ready sub0 0)] ∧
    (∃ st u, (launching (wordsWith 0 0 1 0)).startEntry 3 0 1 sub0 = .error (st, u)) ∧
    (launching (wordsWith 0 0 1 0)).changing 1 = false ∧ (launching words0).changing 1 = false ∧ full0.changing 1 = false ∧
    -- a forced change of the partition's mode is in progress
    forcing.restarting = false ∧ forcing.startable = none ∧ forcing.heads = [((0, 3, 0), .ready sub0 0)] ∧ (forcing.vfPart 3).getD 0 = 1 ∧
    forcing.changing 1 = true := by
  repeat' with_reducible apply And.intro
  all_goals first
    | decide | decide +kernel
    | exact err_of (by decide +kernel)

/-- An entry whose dependence has failed. -/
def depending : State := launching (wordsWith 0x10340 8 0x10400 (2 ^ 63))

set_option maxRecDepth 100000 in
theorem wit_LaunchesStartAndRetire_polls : (∀ e ∈ (hosted words0).hwslots, ∀ x, (hosted words0).headOf e.2.1 e.2.2 ≠ .cancel x) ∧
    depending.hwslots = [(0, (3, 0))] ∧ depending.headOf 3 0 = .cancel { sub0 with deps := [0x10340, 0, 0, 0], depfail := true } ∧
    (∀ e ∈ (hosted words0).launches, (hosted words0).retirable e.2 = false) ∧ retiring.launches = (launchKey 1 1, idleLaunch) :: [] ∧
    retiring.retirable idleLaunch = true ∧ retiring.inv ∧
    ({ retiring with launches := [(launchKey 1 1, { idleLaunch with cancelled := true })] } : State).retirable { idleLaunch with cancelled := true } = true ∧
    ({ retiring with launches := [(launchKey 1 1, { idleLaunch with killCode := some 4 })] } : State).retirable { idleLaunch with killCode := some 4 } = true := by
  repeat' with_reducible apply And.intro
  all_goals first
    | exact List.forall_mem_nil _ | decide | exact inv_of (by decide +kernel) | decide +kernel

/-! ## Companies -/

/-- A company of cluster 0 without a task, and its cluster's other state changed. -/
def house (co : Company) (f : Cluster → Cluster := fun c => c) : State := running (State.reset.updCluster 0 fun c => f { c with companies := [(2, co)] })

/-- A company that runs. -/
def co0 : Company := Company.fresh 1 1 false oneSlot

/-- A company that is suspended. -/
def co1 : Company := { co0 with susp := true }

/-- A company whose green room is at 0x10000. -/
def co2 : Company := { co1 with cgrb := 0x10 }

/-- A suspended company that has lost a slot. -/
def co3 : Company := { co1 with savedSlots := [(0, 4)] }

/-- A partition whose regions hold the green room. -/
def roomy (s : State) : State := { s with parts := [(1, { Part.reset with active := true, regions := [0x4000000000000001] })] }

theorem only_of {s : State} (co : Company) {p : Company → Prop} (h : s.company? 0 2 = some co) (hp : p co) :
    ∀ c, s.company? 0 2 = some c → p c := by
  intro c hc
  rw [h] at hc
  cases hc
  exact hp

set_option maxRecDepth 100000 in
theorem wit_CompanyCommands : (house co1).boot = .running ∧ (∀ co, (house co1).company? 0 2 = some co → co.busy = true ∨ co.susp = true) ∧
    (∀ co, (house co0).company? 0 2 = some co → co.busy = true ∨ co.susp = false) ∧
    (∀ co, (house { co0 with busy := true }).company? 0 2 = some co → co.busy = true) ∧ (house co0).company? 0 2 = some co0 ∧ co0.busy = false ∧
    (house co0).inv ∧ co0.susp = false ∧ co0.stopping = false ∧ (∃ x, spawner.ctxs.look 65536 = some x ∧ x.inCompany 0 0 = true) ∧
    (∃ l, retiring.launches.look (launchKey 1 1) = some l ∧ l.pnum = 1 ∧ l.number = 1 ∧ l.killCode = none) := by
  repeat' with_reducible apply And.intro
  all_goals first
    | decide | exact only_of co1 (by decide) (.inr rfl) | exact only_of co0 (by decide) (.inr rfl)
    | exact only_of { co0 with busy := true } (by decide) rfl | exact inv_of (by decide) | exact ⟨_, rfl, by decide⟩
    | exact ⟨_, rfl, by decide, by decide, by decide⟩

/-- A command-processor core whose dump register names cluster 0 and company n of a partition. -/
def dumping (co : Company) (pnum n : Word) : State := (house co).setCsr 0 0x7C5 (pnum * 2 ^ 32 + n * 2 ^ 8)

/-- A task in the middle of an access while its company stops. -/
def midway : State :=
  (placed { company0 oneSlot [(0, 1)] with stopping := true }).updCtx 65536 fun x => { x with status := .flight (.fill 0 leaf0 0) }

/-- A company between its two points, its DIVERT entry there, with a green room or without. -/
def parted (cgrb : BitVec 40) : State :=
  house { co0 with stopping := true, busy := true, cgrb } fun c => { c with diverts := [(2, .divert 2 true true 0 0)] }

/-- A suspended company that has asked for what it lacks. -/
def asked : State :=
  house co3 fun c => { c with reqs := [{ key := 0, company := 2, want := .resume, waits := true, phase := .fresh, redecide := false }] }

/-- A suspended company of which a bank has still to switch. -/
def turning : State := house co1 fun c => { c with banks := [(3, { Bank.reset with held := true, company := 2, next := some .scratch })] }

theorem wit_SuspensionAndResume_points : (house co0).company? 0 3 = none ∧ State.reset.boot ≠ .running ∧
    (house co0).company? 0 2 = some co0 ∧ co0.stopping = false ∧ ((house co0).clusterAt 0).divertOf 2 = none ∧
    (parted 0).company? 0 2 = some { co0 with stopping := true, busy := true, cgrb := 0 } ∧ ((parted 0).clusterAt 0).divertOf 2 ≠ none ∧
    (parted 0x10).company? 0 2 = some { co0 with stopping := true, busy := true, cgrb := 0x10 } ∧ ((parted 0x10).clusterAt 0).divertOf 2 ≠ none ∧
    (0x10 : BitVec 40) ≠ 0 ∧ (house { co0 with stopping := true }).company? 0 2 = some { co0 with stopping := true } ∧
    ((house { co0 with stopping := true }).clusterAt 0).divertOf 2 = none ∧ (((house { co0 with stopping := true }).stopAgain 0 2).allStopped 0 2 = true) ∧
    (midway.clusterAt 0).divertOf 0 = none ∧ (midway.stopAgain 0 0).allStopped 0 0 = false := by
  repeat' with_reducible apply And.intro
  all_goals first | decide | decide +kernel

theorem wit_SuspensionAndResume_holdings : (house co0).boot = .running ∧ co0.susp = false ∧ (house co1).company? 0 2 = some co1 ∧ co1.susp = true ∧
    co1.busy = false ∧ co1.resuming = false ∧ (∀ r ∈ ((house co1).clusterAt 0).reqs, r.company = 2 → r.want ≠ .resume) ∧
    (asked.company? 0 2 = some co3) ∧ (∃ r ∈ (asked.clusterAt 0).reqs, r.company = 2 ∧ r.want = .resume) ∧ co1.cgrb = 0 ∧
    (roomy (house co2)).company? 0 2 = some co2 ∧ co2.susp = true ∧ co2.cgrb ≠ 0 ∧
    ((roomy (house co2)).greenRead co2.pnum (co2.base + 0x28)).1 / 2 ^ 32 < 1 ∧ (1 < 2 ^ 32) ∧
    0 ≤ ((roomy (house co2)).greenRead co2.pnum (co2.base + 0x28)).1 / 2 ^ 32 ∧ 2 ^ 32 ≤ 2 ^ 32 ∧
    (∀ a ∈ ((roomy (house co2)).clusterAt 0).ingress, a.company ≠ 2) := by
  repeat' with_reducible apply And.intro
  all_goals first | decide | exact ⟨_, List.mem_cons_self, rfl, rfl⟩ | decide +kernel

set_option maxRecDepth 100000 in
theorem wit_SuspensionAndResume_resumes : (house co3).company? 0 2 = some co3 ∧ co3.susp = true ∧ co3.busy = false ∧ co3.lacks = true ∧
    (∀ r ∈ ((house co3).clusterAt 0).reqs, r.company = 2 → r.want ≠ .resume) ∧ asked.company? 0 2 = some co3 ∧
    (∃ r ∈ (asked.clusterAt 0).reqs, r.company = 2 ∧ r.want = .resume) ∧ co1.lacks = false ∧ turning.company? 0 2 = some co1 ∧
    turning.mayResume 0 2 co1 = false ∧ (house co1).mayResume 0 2 co1 = true ∧ ((house co1).roomSound 0 2 co1).1 = false ∧ (house co1).inv ∧
    co2.lacks = false ∧ (roomy (house co2)).mayResume 0 2 co2 = true ∧ ((roomy (house co2)).roomSound 0 2 co2).1 = true := by
  repeat' with_reducible apply And.intro
  all_goals first | decide | exact ⟨_, List.mem_cons_self, rfl, rfl⟩ | exact inv_of (by decide) | decide +kernel

theorem wit_SuspensionAndResume_dumps : (dumping co1 0 2).boot = .running ∧ ((dumping co1 0 2).csr (0 : Fin 4).val 0x7C5).extractLsb' 32 6 = 0 ∧
    (((dumping co1 1 2).csr (0 : Fin 4).val 0x7C5).extractLsb' 32 6).toNat = 1 ∧ (((dumping co1 1 2).csr (0 : Fin 4).val 0x7C5).extractLsb' 8 4).toNat = 2 ∧
    (((dumping co1 1 2).csr (0 : Fin 4).val 0x7C5).extractLsb' 5 3).toNat * 24 + (((dumping co1 1 2).csr (0 : Fin 4).val 0x7C5).extractLsb' 0 5).toNat = 0 ∧
    (((dumping co1 1 2).csr (0 : Fin 4).val 0x7C5).extractLsb' 0 5).toNat < 24 ∧ (dumping co1 1 3).company? 0 3 = none ∧
    (dumping co0 1 2).company? 0 2 = some co0 ∧ co0.susp = false ∧ Config.partitions < (((dumping co1 63 2).csr (0 : Fin 4).val 0x7C5).extractLsb' 32 6).toNat ∧
    24 ≤ (((house co1).setCsr 0 0x7C5 (2 ^ 32 + 24)).csr (0 : Fin 4).val 0x7C5 |>.extractLsb' 0 5).toNat ∧
    (dumping co1 1 2).company? 0 2 = some co1 ∧ co1.susp = true ∧ co1.pnum = 1 ∧ (dumping co1 1 2).boot = .running := by
  repeat' with_reducible apply And.intro
  all_goals first | decide

/-! ## Partitions, observers, registers and soft errors -/

/-- The package, a command at core 0 whose argument is a value. -/
def ordering (s : State) (w arg : Word) : State := (s.setCsr 0 0x7C3 w).setCsr 0 0x7C4 arg

/-- A descriptor of partition 2 at 0x100, on cluster 1, with function 4. -/
def described : List (Nat × Nat) := [(0x100, 1 + 2 * 2 ^ 8), (0x110, 2), (0x128, 16)]

/-- Partition 2 runs a launch under it. -/
def active2 : State :=
  { hosted described with
    parts := [(2, { Part.reset with active := true, pitch := 2, vfmask := 16 })], launches := [(launchKey 2 1, { idleLaunch with pnum := 2 })] }

/-- Partition 2's launch has a company, which is to be suspended, or is suspended. -/
def halting (susp : Bool) : State :=
  active2.setCluster 1 { Cluster.reset with companies := [(0, { Company.fresh 2 1 true oneSlot with susp, stopping := !susp, busy := !susp })] }

set_option maxRecDepth 100000 in
theorem wit_PartitionCommands_busy : (ordering (hosted []) 0x10300 0).boot = .running ∧ ((ordering (hosted []) 0x10300 0).csr (0 : Fin 4).val 0x7C3).getLsbD 16 = true ∧
    (((ordering (hosted []) 0x10300 0).csr (0 : Fin 4).val 0x7C3).extractLsb' 0 8).toNat ≠ 1 ∧
    (((ordering (hosted []) 0x10300 0).csr (0 : Fin 4).val 0x7C3).extractLsb' 0 8).toNat ≠ 2 ∧ (halting false).allSuspended 2 = false ∧
    (halting true).allSuspended 2 = true ∧ (halting true).boot = .running ∧
    ((ordering (halting true) 0x10201 0x100).csr (0 : Fin 4).val 0x7C3).getLsbD 16 = true ∧
    (((ordering (halting true) 0x10201 0x100).csr (0 : Fin 4).val 0x7C3).extractLsb' 0 8).toNat = 1 ∧
    (((ordering (halting true) 0x10201 0x100).csr (0 : Fin 4).val 0x7C3).extractLsb' 8 6).toNat = 2 ∧
    (ordering (halting true) 0x10201 0x100).allSuspended 2 = true ∧
    ((ordering (halting true) 0x10202 0).csr (0 : Fin 4).val 0x7C3).getLsbD 16 = true ∧
    (((ordering (halting true) 0x10202 0).csr (0 : Fin 4).val 0x7C3).extractLsb' 0 8).toNat = 2 ∧
    (((ordering (halting true) 0x10202 0).csr (0 : Fin 4).val 0x7C3).extractLsb' 8 6).toNat = 2 ∧
    (halting true).launches.look (launchKey 2 1) = some { idleLaunch with pnum := 2 } := by
  repeat' with_reducible apply And.intro
  all_goals first | decide | decide +kernel

set_option maxRecDepth 100000 in
theorem wit_PartitionCommands : ((ordering (hosted []) 0x100 0).csr 0 0x7C3).getLsbD 16 = false ∧
    0 < (((ordering (hosted []) 0x100 0).csr 0 0x7C3).extractLsb' 8 6).toNat ∧ (((ordering (hosted []) 0x100 0).csr 0 0x7C3).extractLsb' 8 6).toNat ≤ Config.partitions ∧
    (((ordering (hosted []) 0 0).csr 0 0x7C3).extractLsb' 8 6).toNat = 0 ∧
    Config.partitions < (((ordering (hosted []) 0x3F00 0).csr 0 0x7C3).extractLsb' 8 6).toNat ∧ 50 ≤ (50 : Word).toNat % 2 ^ 32 ∧
    (50 : Word).toNat % 2 ^ 32 ≤ 100000 ∧ (49 : Word).toNat % 2 ^ 32 < 50 ∧ 100000 < (100001 : Word).toNat % 2 ^ 32 ∧ ((hosted []).part 2).active = false ∧
    (active2.part 2).active = true ∧ active2.hasLaunch 2 = true ∧ ((0x200 : Word).getLsbD 14 = false) ∧ ((0x4200 : Word).getLsbD 14 = true) ∧
    ((hosted []).part 1).active = true ∧ (hosted []).hasLaunch 1 = false ∧ (hosted described).descStatus 2 0x101 ≠ 0 ∧ (hosted described).descStatus 2 0x100 = 0 ∧
    active2.descStatus 2 0x100 = 0 ∧ (hosted described).hasLaunch 2 = false := by
  repeat' with_reducible apply And.intro
  all_goals first | decide | decide +kernel

/-- The package after 50 ms, whose GRID ring of the device is on with an interval of 1 µs; core 0 has made a trace record and has to load its breakpoint
table, and partition 1 has a policy that has expired. -/
def observed : State :=
  { task.updCore 0 (fun c => { c with trace := [{ words := [1, 2, 3, 4], pnum := 1, trlvl := 2, tgran := 0 }] }) with
    cycle := 135000000, counts := [(0, 5)], mmio := [(0x342008, 9), (0x342010, 1)],
    parts := [(1, { Part.reset with active := true, bpTodo := [0], policy := some Policy.strict })] }

/-- Partition 1's first GRID ring, in a region it owns or not, at the end of an interval, its policy's TGRAN small or large. -/
def gridded (own : Bool) (tgran : Nat) : State :=
  { task with
    cycle := 135000000, clock := some (0, 0),
    parts := [(1, { Part.reset with active := true, regions := if own then [0x4000000000000001] else [], streams := [0, 0, 9, 0, 0, 0, 1, 0, 0, 0],
                                    policy := some { Policy.strict with tgran, expiry := 10 ^ 12 } })] }

theorem wit_ObserversAndPolicies_grid : (gridded true 0).gridDue 2 = true ∧ (gridded false 20).gridDue 2 = true ∧ (gridded false 0).gridDue 2 = true ∧
    (gridded true 0).streamFull 1 ((gridded true 0).gridReg 2) (ringExtent ((gridded true 0).gridReg 2) 23616) = true ∧
    (gridded false 20).streamFull 1 ((gridded false 20).gridReg 2) (ringExtent ((gridded false 20).gridReg 2) 23616) = false ∧
    ((gridded false 20).gridAt 2).2 + (gridded false 20).gridInterval 1 <
      2 ^ max (((gridded false 20).part 1).gridCarry.getD 0 (((gridded false 20).policyOf 1).lgrid, ((gridded false 20).policyOf 1).tgran)).2
        ((gridded false 20).policyOf 1).tgran ∧
    2 ^ max (((gridded false 0).part 1).gridCarry.getD 0 (((gridded false 0).policyOf 1).lgrid, ((gridded false 0).policyOf 1).tgran)).2
        ((gridded false 0).policyOf 1).tgran ≤ ((gridded false 0).gridAt 2).2 + (gridded false 0).gridInterval 1 := by
  repeat' with_reducible apply And.intro
  all_goals first | decide

theorem wit_ObserversAndPolicies : task.sweepDue 0 = false ∧ observed.sweepDue 0 = true ∧ observed.inv ∧ (observed.counts.look 0 = some 5) ∧ unitDie (0 / 256) = some 0 ∧ 0 % 256 ≠ 1 ∧
    coordValid 0 = true ∧ cDie 0 = 0 ∧ observed.counts.look (coreUnit 0 * 256 + 1) = none ∧ State.reset.boot ≠ .running ∧
    task.gridDue 0 = false ∧ observed.gridDue 0 = true ∧ (task.coreAt 0).trace = [] ∧ (observed.coreAt 0).trace = { words := [1, 2, 3, 4], pnum := 1, trlvl := 2, tgran := 0 } :: [] ∧
    (0 : Nat) = 0 ∧ (0 : Coord).toNat ∈ (observed.part 1).bpTodo ∧ (0 : Coord).toNat ∉ (task.part 1).bpTodo ∧ (running observed).boot = .running ∧ task.expiring 1 = false ∧
    ({ observed with parts := [(1, { Part.reset with policy := some { Policy.strict with past := false } })] } : State).expiring 1 = true := by
  repeat' with_reducible apply And.intro
  all_goals first | decide | exact inv_of (by decide)

/-- Core 0 of the command processor in user mode. -/
def userMode : State := { running task with cpModes := [(0, 0)] }

/-- A company with a DIVERT entry, and one with a DISCARD entry for a bank. -/
def diverted (discard : Bool) : State :=
  house co0 fun c => { c with diverts := [if discard then (16, .discard 2 1) else (2, .divert 2 true true 0 0)] }

set_option maxRecDepth 8000 in
theorem wit_RegisterWrites : (running task).boot = .running ∧ ¬(6 = 8 ∧ 4 % 8 = 0) ∧ ¬(6 = 4 ∧ 4 % 4 = 0) ∧ (8 : Nat) % 8 = 0 ∧ 8 ≤ (8 : Fin 32).val ∧
    (8 : Fin 32).val ≠ 16 ∧ 0 < 1 ∧ Config.partitions ≤ Config.partitions ∧ (7 : Fin 32).val < 8 ∧ 191 < 192 ∧ ((0x2001 : Word).getLsbD 48 = false) ∧
    8192 < ((0x2001 : Word).extractLsb' 0 14).toNat ∧ 255 < 256 ∧ (running task).cpModes.getD (0 : Fin 4).val 3 = 3 ∧
    userMode.cpModes.getD (0 : Fin 4).val 3 ≠ 3 ∧ (1 : Word).getLsbD 0 = true ∧ (1 : Word).getLsbD 1 = false ∧ (2 : Word).getLsbD 0 = false ∧
    (2 : Word).getLsbD 1 = true ∧ (house co0).company? (0 * 24 + 0) 2 = some co0 ∧ 0 < 1 ∧ 9 < 10 ∧ (2 ^ 28 : Word).getLsbD 28 = true ∧
    ((running task).vf 0).tdbusy = false ∧ (0x7CF ≤ 0x7FF ∧ 0x7FF ≤ 0x7FF) := by
  repeat' with_reducible apply And.intro
  all_goals first | decide

set_option maxRecDepth 8000 in
theorem wit_SoftErrors : Config.localBytes - 1 < Config.localBytes ∧
    atHome.lines.look 0 = some (line0 true) ∧ (∃ x, task.ctxs.look 65536 = some x ∧ x.task = true) ∧ task.inv ∧
    task.lines.look (2 ^ 45) = none ∧ task.cxlBehind (2 ^ 45) = true ∧ (diverted true).company? 0 2 = some co0 ∧ (diverted true).inv ∧
    ((diverted true).clusterAt 0).diverts.look 16 = some (.discard 2 1) ∧ (diverted false).company? 0 2 = some co0 ∧ (diverted false).inv ∧
    ((diverted false).clusterAt 0).diverts.look 2 = some (.divert 2 true true 0 0) ∧ task.siteCluster (.localWord 0 0) = some 0 ∧
    (∀ c i, ErrSite.localWord 0 0 ≠ .translation c i) ∧ (∀ c e, ErrSite.localWord 0 0 ≠ .diversion c e) := by
  repeat' with_reducible apply And.intro
  all_goals first | decide | exact ⟨_, rfl, by decide⟩ | exact inv_of (by decide) | exact fun _ _ h => by cases h

/-! ## Firmware, the ladder, links and peers -/

def fwImage0 : FwImage := { svn := 1, entry := 0, digest := 0, code := [] }

/-- The package with an understudy, and a SWITCH that waits. -/
def switchingFw (busy : Bool) : State := { running State.reset with understudy := some fwImage0, fwBusy := busy }

/-- The package, an image being verified: of a LOAD, or of an update. -/
def verifying (update : Bool) : State := { switchingFw true with fwLoading := some ([0], update) }

set_option maxRecDepth 8000 in
theorem wit_FirmwareCommands : State.reset.boot ≠ .running ∧ (switchingFw true).boot = .running ∧ (switchingFw true).fwBusy = true ∧
    (switchingFw false).fwBusy = false ∧ (running State.reset).fwBusy = false ∧
    (running State.reset).understudy = none ∧ (switchingFw false).understudy ≠ none ∧ (verifying false).boot = .running ∧
    (verifying false).fwLoading = some ([0], false) ∧ (verifying true).fwLoading = some ([0], true) ∧ (switchingFw true).fwLoading = none ∧
    (switchingFw true).restarting = false ∧ (switchingFw false).restarting = false ∧
    (switchingFw true).quiescent = true ∧ (switchingFw true).understudy = some fwImage0 ∧ ({ switchingFw true with restarting := true } : State).restarting = true ∧
    ({ switchingFw true with restarting := true } : State).heldDoorbells = [] ∧
    ({ switchingFw true with restarting := true, heldDoorbells := [(3, 5)] } : State).heldDoorbells = [(3, 5)] := by
  repeat' with_reducible apply And.intro
  all_goals first | decide

theorem wit_BootAndRecords : State.reset.boot = .off ∧ (running State.reset).boot ≠ .off ∧ State.reset.boot ≠ .running ∧
    (running State.reset).boot = .running := by
  repeat' with_reducible apply And.intro
  all_goals first | decide

/-- The ladder at a rung since reset, after a number of milliseconds, for the watchdog or for a fence. -/
def laddered (rung ms : Nat) (fence : Bool) : State :=
  { switchingFw false with ladder := some { fence, rung, since := 0 }, cycle := msCycles ms, ladderCause := fence }

/-- Partition 2 of the package starts again, once its company is suspended. -/
def cycled (susp : Bool) : State := { halting susp with cycling := some 2 }

set_option maxRecDepth 8000 in
theorem wit_WatchdogLadder : (running State.reset).boot = .running ∧ State.reset.boot ≠ .running ∧ (running State.reset).watchdogDue = false ∧
    ({ running State.reset with cycle := msCycles 100 } : State).watchdogDue = true ∧ (laddered 1 49 false).rungDue 1 50 = false ∧
    (laddered 2 49 false).rungDue 2 50 = false ∧ (laddered 3 99 false).cycling = none ∧ (laddered 3 99 false).rungDue 3 100 = false ∧
    (cycled false).cycling = some 2 ∧ (cycled false).allSuspended 2 = false ∧ (cycled true).cycling = some 2 ∧ (cycled true).allSuspended 2 = true ∧
    (laddered 4 199 false).rungDue 4 200 = false ∧ (laddered 5 499 false).rungDue 5 500 = false ∧
    (laddered 1 50 false).ladder = some { fence := false, rung := 1, since := 0 } ∧ (laddered 1 50 false).rungDue 1 50 = true ∧
    (laddered 1 50 false).understudy = some fwImage0 ∧ (laddered 2 50 false).rungDue 2 50 = true ∧ (laddered 3 100 false).rungDue 3 100 = true ∧
    (laddered 3 100 false).cycling = none ∧ (laddered 3 100 false).ladderCause = false ∧ (laddered 3 100 true).ladderCause = true ∧
    (laddered 3 100 true).rungDue 3 100 = true ∧ (laddered 3 100 true).cycling = none ∧
    (laddered 4 200 false).rungDue 4 200 = true ∧ (laddered 5 500 false).rungDue 5 500 = true := by
  repeat' with_reducible apply And.intro
  all_goals first | decide

/-- An operation with a piece in flight at another package. -/
def outbound : EngOp := { op7 0 (copyBody 2 1 none 32 0 4) 0 with flying := 1 }

theorem wit_LinksAndPeers : (0 < 32 ∧ 0 < 4 ∧ State.reset.cycle % 256 = 0 ∧ State.reset.stepFree 0 270000 = true ∧ State.reset.stepFree 32 5400 = true ∧
      0 ≤ (State.reset.linkCaps.extractLsb' (2 * 0) 2).toNat) ∧
    ¬(32 < 32) ∧ (5 : BitVec 12) ≠ State.reset.pkg ∧ coordValid 0xFFFF = false ∧ ([] : List Byte) = [] ∧ 2 ^ 21 < 2 ^ 21 - 1 + [(0 : Byte), 0].length ∧
    task.company? (clusterOf 0) 5 = none ∧ coordValid 0 = true ∧ [(7 : Byte)] ≠ [] ∧ (barrierTask []).inv ∧ 65535 % 65536 + [(7 : Byte)].length ≤ 65536 ∧
    65535 + [(7 : Byte)].length ≤ 2 ^ 21 ∧ (barrierTask []).ops.look (barrierTask []).fresh = none ∧
    ((barrierTask []).clusterAt (clusterOf 0)).physBank 0 (65535 / 65536) .scratch = some 0 ∧ 65528 % 8 = 0 ∧ 65528 + 8 ≤ 2 ^ 21 ∧
    ((barrierTask []).company? (clusterOf 0) 0).isSome = true ∧ ((barrierTask []).clusterAt (clusterOf 0)).divertOf 0 = none ∧
    ((barrierTask []).clusterAt (clusterOf 0)).physBank 0 (65528 / 65536) .scratch = some 0 ∧
    ((barrierTask []).clusterAt (clusterOf 0)).discarded 0 (65528 / 65536) = false ∧
    ({ task with ops := [(7, outbound)] } : State).ops.look 7 = some outbound ∧ outbound.flying ≠ 0 := by
  repeat' with_reducible apply And.intro
  all_goals first | decide | exact inv_of (by decide)

/-! ## The step, encodings, invariants and reset -/

/-- The word ADD g1.l0, g2.l0, -5 of R262's encoding under a guard on p2. -/
def addWord : InstrWord := 0x1032_0001_0100_0200_009F_FFFB

/-- A word in unit 0 of the core of a task about to issue. -/
def fetching (w : InstrWord) (agenda : List Pick) : State := { State.reset.withFetchWord 96 w.toNat with agenda, boot := .running }

/-- The word has been fetched ahead. -/
def ahead (w : InstrWord) : State := (fetching 0 []).updCtx 65536 fun x => { x with fetched := [(0, w)] }

/-- The word's first byte is bad. -/
def spoilt : State := { fetching addWord [] with bad := [localPa 0 0] }

/-- The state in which the task's core has a slot that is ready in this cycle. -/
def readied (s : State) : State := s.updCore (s.ctx 65536).core fun c => c.hasReady s.cycle

theorem lets_agenda (w : InstrWord) (h : State.turn (fetching w []) ((fetching w []).ctx 65536).core = some (65536, [])) :
    (fetching w [.issue 65536 false]).letsIssue 65536 (readied (fetching w [])) :=
  .inl ⟨[], [], rfl, h, rfl⟩

theorem lets_unnamed (s : State) (h : State.turn s (s.ctx 65536).core = some (65536, [])) (h' : s.agenda = []) (h2 : s.nextEvent = none)
    (h3 : s.nextIssue = some 65536) : s.letsIssue 65536 (readied s) :=
  .inr ⟨h', h2, h3, [], h, rfl⟩

set_option maxRecDepth 8000 in
theorem wit_StepRunsDecodedInstruction : (fetching addWord [.issue 65536 false]).letsIssue 65536 (readied (fetching addWord [])) ∧
    (fetching addWord []).letsIssue 65536 (readied (fetching addWord [])) ∧ (readied (fetching addWord [])).before 65536 = .nothing ∧
    ((readied (fetching addWord [])).ctx 65536).fetchedWord = none ∧
    (readied (fetching addWord [])).badWord ((readied (fetching addWord [])).ctx 65536).core ((readied (fetching addWord [])).ctx 65536).pc.toNat = false ∧
    addWord = (readied (fetching addWord [])).wordAt ((readied (fetching addWord [])).ctx 65536).core ((readied (fetching addWord [])).ctx 65536).pc.toNat ∧
    (∃ i, decode addWord = .ok i) := by
  repeat' with_reducible apply And.intro
  all_goals first
    | decide | exact lets_agenda _ (by decide) | exact lets_unnamed _ (by decide) rfl (by decide) (by decide)
    | exact ⟨_, rfl⟩

set_option maxRecDepth 8000 in
theorem wit_StepRunsDecodedInstruction_fetches : (ahead addWord).letsIssue 65536 (readied (ahead addWord)) ∧ (readied (ahead addWord)).before 65536 = .nothing ∧
    ((readied (ahead addWord)).ctx 65536).fetchedWord = some addWord ∧ (∃ e, decode 0x1037_0401_0100_0200_0002_0000 = .error e) ∧
    spoilt.letsIssue 65536 (readied spoilt) ∧ (readied spoilt).before 65536 = .nothing ∧ ((readied spoilt).ctx 65536).fetchedWord = none ∧
    (readied spoilt).badWord ((readied spoilt).ctx 65536).core ((readied spoilt).ctx 65536).pc.toNat = true ∧
    ({ task with agenda := [.event .launchRetire] } : State).agenda = .event .launchRetire :: [] ∧ isEvent .launchRetire = true ∧
    (∀ f ∈ task.vfs, ∀ q ∈ f.2.queues, q.2.state.isDown = false) := by
  repeat' with_reducible apply And.intro
  all_goals first
    | decide | exact List.forall_mem_nil _ | exact lets_unnamed _ (by decide) rfl (by decide) (by decide)
    | exact ⟨_, rfl⟩

theorem wit_DecodeOfEncode : (∃ i, decode addWord = .ok i ∧ i.wf = true ∧ encode i = some addWord ∧ i.sig?.isSome = true) ∧
    (Instr.unassignedOpcode 0x020 0xFF).wf = true ∧ ofOpc 0x020 = none ∧ (∃ w, encode (.unassignedOpcode 0x020 0xFF) = some w) := by
  refine ⟨⟨_, rfl, by decide, by decide, by decide⟩, by decide, by decide, ⟨_, rfl⟩⟩

/-- Fields under a guard that is false: p0 is 0. -/
def falseFs : Fields := { fs (.g 1 0) (.g 2 0) (.i 5) with h := { plainHdr with gpred := 0 } }

/-- Fields of an instruction of V, and of SPAWN with an immediate, under a guard that is false. -/
def falseSpawn : Fields := { fs (.g 1 0) (.i 0) .none with h := { plainHdr with gpred := 0 } }

theorem wit_FalseGuardOnlyAdvancesThePc_checks : (∃ sg, (Instr.vadd falseFs).sig? = some (falseFs, sg) ∧ fieldsPass (.vadd falseFs) task ∧
      hasExt task.now.core sg.ext = true) ∧
    fieldsPass (.spawn falseSpawn) spawner ∧ noEntry task ((0 : BitVec 21).signExtend 64) = true ∧
    macrosOnStream task ((0x10000 : BitVec 21).signExtend 64) = true ∧ (fs (.g 7 0) (.m 2 false 0) (.i 0)).b = .i 0 := by
  refine ⟨⟨_, rfl, trivial, by decide⟩, ?_, by decide, by decide, rfl⟩
  intro v hv
  cases hv
  decide

theorem wit_FalseGuardOnlyAdvancesThePc : (∃ sg, (Instr.add falseFs).sig? = some (falseFs, sg) ∧ hasExt task.now.core sg.ext = true) ∧
    fieldsPass (.add falseFs) task ∧
    task.now.guard falseFs.h = false ∧ ((∀ g, Instr.add falseFs ≠ .tret g ∧ Instr.add falseFs ≠ .ovret g ∧ Instr.add falseFs ≠ .gets g ∧ Instr.add falseFs ≠ .sets g)) ∧
    control.now.task = false := by
  refine ⟨⟨_, rfl, by decide⟩, trivial, by decide, ?_, by decide⟩
  intro g
  simp

theorem wit_EveryInstructionAnswersANextState : State.reset.agendaOk ∧ ({ task with agenda := [.event .launchRetire, .issue 65536 true] } : State).agendaOk := by
  constructor
  · intro p hp
    exact absurd hp (by simp [State.reset])
  · intro p hp
    simp only [List.mem_cons, List.not_mem_nil, or_false] at hp
    rcases hp with rfl | rfl
    · rfl
    · trivial

theorem wit_EveryStepKeepsMemoryCanonical : task.memInv ∧ ∃ t, step task = .next t := ⟨(inv_of (s := task) (by decide)).1, _, rfl⟩

theorem wit_EveryStepKeepsTables : task.tableInv ∧ ∃ t, step task = .next t := ⟨(inv_of (s := task) (by decide)).2, _, rfl⟩

theorem wit_CoordinatesAndRectangles : (0x72CF : BitVec 16) ++ (0x0000 : BitVec 16) ≠ (0xFFFFFFFF : BitVec 32) ∧ coordValid 0x72CF = true ∧ coordValid 0x7300 = false ∧
    inRect ((0x72CF : BitVec 16) ++ (0x0000 : BitVec 16)) 0x72CF = true ∧ inRect ((0x0000 : BitVec 16) ++ (0x72CF : BitVec 16)) 0 = true := by
  refine ⟨by decide, by decide, by decide, by decide, by decide⟩

theorem wit_UnassignedOpcodesFault : ofOpc ((0x4227_0000_0000_0000_0000_0000 : InstrWord).extractLsb' 84 12) = none ∧ ofOpc 0x0FF = none ∧ ofOpc 0x604 = none := by
  refine ⟨by decide, by decide, by decide⟩

theorem wit_EncodeOfDecode : ∃ i, decode addWord = .ok i ∧ i.sig?.isSome = true := ⟨_, rfl, by decide⟩

theorem wit_PredicateSevenReadsAllOnes : (0 : Fin 8) ≠ 7 ∧ (task.now.setPred 0 5).pred 0 = 5 := by decide

end Sys2Proof.Tests
end

section
/-! CERTIFICATE. Coordinates and rectangles (R15, R21, R22): the fields as numbers, what a box and a rectangle hold. -/

namespace Sys2Proof.Machine

theorem cDie_eq (c : Coord) : cDie c = c.toNat / 2 ^ 12 := by
  rw [cDie, BitVec.extractLsb'_toNat, Nat.shiftRight_eq_div_pow]
  exact Nat.mod_eq_of_lt (Nat.div_lt_of_lt_mul c.isLt)

theorem cRow_eq (c : Coord) : cRow c = c.toNat / 2 ^ 6 % 2 ^ 6 := by
  rw [cRow, BitVec.extractLsb'_toNat, Nat.shiftRight_eq_div_pow]

theorem cCol_eq (c : Coord) : cCol c = c.toNat % 2 ^ 6 := by
  rw [cCol, BitVec.extractLsb'_toNat, Nat.shiftRight_zero]

theorem coordValid_iff (c : Coord) : coordValid c = true ↔ cDie c ≤ 7 ∧ cRow c ≤ 11 ∧ cCol c ≤ 15 := by
  simp only [coordValid, Bool.and_eq_true, decide_eq_true_eq, Nat.lt_succ_iff, and_assoc]

theorem Box.holds_iff (b : Box) (c : Coord) :
    b.holds c = true ↔ (b.dieLo ≤ cDie c ∧ cDie c ≤ b.dieHi) ∧ (b.rowLo ≤ cRow c ∧ cRow c ≤ b.rowHi) ∧ b.colLo ≤ cCol c ∧ cCol c ≤ b.colHi := by
  simp only [Box.holds, Bool.and_eq_true, decide_eq_true_eq, and_assoc]

/-- The box of the whole package bounds each field as R15 does. -/
theorem wholeBox_holds (c : Coord) : wholeBox.holds c = coordValid c := by
  rw [Bool.eq_iff_iff, Box.holds_iff, coordValid_iff]
  simp only [wholeBox, Nat.zero_le, true_and]

theorem min_le_and_le_max_iff (l u n : Nat) : min l u ≤ n ∧ n ≤ max l u ↔ (l ≤ n ∧ n ≤ u) ∨ (u ≤ n ∧ n ≤ l) := by
  omega

/-- Corner A is the low half of a rectangle register and corner B the high half (R21). -/
theorem rectBox_append_holds_iff (a b c : Coord) :
    (rectBox (b ++ a)).holds c = true ↔
      ((cDie a ≤ cDie c ∧ cDie c ≤ cDie b) ∨ (cDie b ≤ cDie c ∧ cDie c ≤ cDie a)) ∧
      ((cRow a ≤ cRow c ∧ cRow c ≤ cRow b) ∨ (cRow b ≤ cRow c ∧ cRow c ≤ cRow a)) ∧
      ((cCol a ≤ cCol c ∧ cCol c ≤ cCol b) ∨ (cCol b ≤ cCol c ∧ cCol c ≤ cCol a)) := by
  have low : (b ++ a).extractLsb' 0 16 = a := BitVec.extractLsb'_append_eq_right
  have high : (b ++ a).extractLsb' 16 16 = b := BitVec.extractLsb'_append_eq_left
  rw [Box.holds_iff]
  simp only [rectBox, low, high, min_le_and_le_max_iff]

theorem inRect_whole (c : Coord) : inRect 0xFFFFFFFF c = coordValid c := by
  rw [inRect, scopeBox, if_pos rfl, wholeBox_holds, Bool.and_self]

theorem inRect_of_ne_whole {r : BitVec 32} (h : r ≠ 0xFFFFFFFF) (c : Coord) :
    inRect r c = true ↔ coordValid c = true ∧ (rectBox r).holds c = true := by
  rw [inRect, scopeBox, if_neg h, Bool.and_eq_true]

/-- Settles O59: each field of a coordinate is a digit of its number, and the box of two corners bounds each field by those of the corners. -/
theorem coordinatesAndRectangles : Obligations.CoordinatesAndRectangles := by
  refine ⟨fun c => ?_, inRect_whole, fun a b c hr => ?_⟩
  · rw [coordValid_iff, cDie_eq, cRow_eq, cCol_eq]
  · rw [inRect_of_ne_whole hr, rectBox_append_holds_iff]
    simp only [List.forall_mem_cons, List.not_mem_nil, false_imp_iff, implies_true, and_true, cDie_eq, cRow_eq, cCol_eq]

end Sys2Proof.Machine
end

section
/-! CERTIFICATE. Unassigned opcodes (R272): which opcodes the map of R288 leaves out, what the decoder makes of them and how they fault. -/

namespace Sys2Proof.Machine

theorem opcodeRows_starts_nodup : (opcodeRows.map Prod.fst).Nodup := by decide

/-- A row starts at a multiple of 8 and has at most 8 opcodes, so no row reaches into the next one's start. -/
theorem opcodeRows_aligned : ∀ r ∈ opcodeRows, r.1 % 8 = 0 ∧ r.2.length ≤ 8 := by decide

/-- Where no two pairs have one key, a search by key finds the pair that has it. -/
theorem find_of_mem_of_nodup {β : Type} {rows : List (Nat × β)} (distinct : (rows.map Prod.fst).Nodup) {r : Nat × β} (hr : r ∈ rows) :
    rows.find? (fun r' => r'.1 == r.1) = some r := by
  induction rows with
  | nil => exact absurd hr List.not_mem_nil
  | cons a rows ih =>
    rw [List.map_cons, List.nodup_cons] at distinct
    obtain ⟨fresh, distinct⟩ := distinct
    rcases List.mem_cons.mp hr with rfl | hr
    · exact List.find?_cons_of_pos (beq_self_eq_true r.1)
    · have other : a.1 ≠ r.1 := fun h => fresh (h ▸ List.mem_map_of_mem hr)
      simp only [List.find?_cons, beq_eq_false_iff_ne.mpr other]
      exact ih distinct hr

theorem find_opcodeRow_eq_some_iff (start : Nat) (r : Nat × List (Fields → Instr)) :
    opcodeRows.find? (fun r => r.1 == start) = some r ↔ r ∈ opcodeRows ∧ r.1 = start := by
  constructor
  · intro h
    have key : (r.1 == start) = true := List.find?_some (p := fun r : Nat × List (Fields → Instr) => r.1 == start) h
    exact ⟨List.mem_of_find?_eq_some h, beq_iff_eq.mp key⟩
  · rintro ⟨hr, rfl⟩
    exact find_of_mem_of_nodup opcodeRows_starts_nodup hr

/-- An opcode is unassigned where it lies in no row of the map. -/
theorem ofOpc_eq_none_iff (opc : BitVec 12) :
    ofOpc opc = none ↔ ∀ r ∈ opcodeRows, ¬ (r.1 ≤ opc.toNat ∧ opc.toNat < r.1 + r.2.length) := by
  have byRow : ofOpc opc = none ↔ ∀ r ∈ opcodeRows, r.1 = opc.toNat / 8 * 8 → r.2.length ≤ opc.toNat % 8 := by
    simp only [ofOpc, Option.bind_eq_none_iff, find_opcodeRow_eq_some_iff, List.getElem?_eq_none_iff, and_imp]
  rw [byRow]
  refine forall₂_congr fun r hr => ?_
  obtain ⟨start, short⟩ := opcodeRows_aligned r hr
  omega

/-- R272: the gaps between the rows are its seven ranges. -/
theorem ofOpc_eq_none_iff_ranges (opc : BitVec 12) :
    ofOpc opc = none ↔
      (0x020 ≤ opc.toNat ∧ opc.toNat ≤ 0x0FF) ∨ (0x12F ≤ opc.toNat ∧ opc.toNat ≤ 0x1FF) ∨ (0x21F ≤ opc.toNat ∧ opc.toNat ≤ 0x2FF) ∨
      (0x31F ≤ opc.toNat ∧ opc.toNat ≤ 0x3FF) ∨ (0x422 ≤ opc.toNat ∧ opc.toNat ≤ 0x4FF) ∨ (0x508 ≤ opc.toNat ∧ opc.toNat ≤ 0x5FF) ∨
      0x604 ≤ opc.toNat := by
  rw [ofOpc_eq_none_iff]
  simp only [opcodeRows, List.forall_mem_cons, List.not_mem_nil, false_imp_iff, implies_true, and_true, List.length_cons, List.length_nil]
  omega

theorem decode_of_ofOpc_eq_none {w : InstrWord} (h : ofOpc (w.extractLsb' 84 12) = none) :
    decode w = .ok (.unassignedOpcode (w.extractLsb' 84 12) (w.extractLsb' 72 8)) := by
  simp only [decode, h]

/-- R270: the opcode in bits [11:0] and the hint byte in bits [19:12]. -/
theorem tval_illegal (opc : BitVec 12) (hint : Byte) :
    (DecErr.illegal opc hint).tval = BitVec.ofNat 64 (opc.toNat + hint.toNat * 0x1000) := by
  have hopc := opc.isLt
  have hhint := hint.isLt
  apply BitVec.eq_of_toNat_eq
  rw [DecErr.tval, BitVec.toNat_append, BitVec.toNat_append, BitVec.toNat_ofNat, ← Nat.shiftLeft_add_eq_or_of_lt hopc,
    Nat.shiftLeft_eq]
  simp only [BitVec.toNat_ofNat, Nat.zero_shiftLeft, Nat.zero_mod, Nat.zero_or]
  omega

theorem exec_unassignedOpcode (opc : BitVec 12) (hint : Byte) (s : State) :
    exec (.unassignedOpcode opc hint) s = .next (s.faultHere .illegalOp (DecErr.illegal opc hint).tval) := rfl

/-- Settles O8: the ranges are the gaps between the rows of the opcode map, and the fault's tval is the number that its two fields form. -/
theorem unassignedOpcodesFault : Obligations.UnassignedOpcodesFault := by
  refine ⟨ofOpc_eq_none_iff_ranges, fun w => decode_of_ofOpc_eq_none, fun opc hint s => ?_⟩
  rw [exec_unassignedOpcode, tval_illegal]

end Sys2Proof.Machine
end

section
/-! CERTIFICATE. Predicates (R282): the field that names one, and what it reads as after a write. -/

namespace Sys2Proof.Machine

/-! ## Reading the parts of an operand field: kind, index and extension (R275) -/

theorem operandField_kind (kind : BitVec 3) (index : BitVec 5) (ext : BitVec 16) :
    (kind ++ index ++ ext).extractLsb' 21 3 = kind := by
  rw [BitVec.extractLsb'_append_eq_of_le (by decide)]
  exact BitVec.extractLsb'_append_eq_left

theorem operandField_index (kind : BitVec 3) (index : BitVec 5) (ext : BitVec 16) {len : Nat} (h : len ≤ 5) :
    (kind ++ index ++ ext).extractLsb' 16 len = index.extractLsb' 0 len := by
  rw [BitVec.extractLsb'_append_eq_of_le (by decide)]
  exact BitVec.extractLsb'_append_eq_of_add_le (by omega)

theorem operandField_ext (kind : BitVec 3) (index : BitVec 5) (ext : BitVec 16) {len : Nat} (h : len ≤ 16) :
    (kind ++ index ++ ext).extractLsb' 0 len = ext.extractLsb' 0 len :=
  BitVec.extractLsb'_append_eq_of_add_le (by omega)

/-! ## A predicate's index -/

theorem index_high_bits_eq_zero_iff (index : BitVec 5) : index.extractLsb' 3 2 = 0#2 ↔ index.toNat < 8 := by
  have bound := index.isLt
  rw [← BitVec.toNat_inj, BitVec.extractLsb'_toNat, Nat.shiftRight_eq_div_pow, BitVec.toNat_ofNat]
  omega

theorem index_low_bits_toNat {index : BitVec 5} (h : index.toNat < 8) : (index.extractLsb' 0 3).toNat = index.toNat := by
  rw [BitVec.extractLsb'_toNat, Nat.shiftRight_zero]
  exact Nat.mod_eq_of_lt h

/-- Kind 6 is a predicate, whose index is below 8 and whose bits [5:0] are zero; its MOD bits are free (R275). -/
theorem operandOfRaw_predicate (index : BitVec 5) (ext : BitVec 16) :
    operandOfRaw (6#3 ++ index ++ ext) =
      if 8 ≤ index.toNat ∨ (ext.extractLsb' 0 6).toFin ≠ 0 then none else some (.p (index.extractLsb' 0 3).toFin) := by
  simp [operandOfRaw, operandField_kind, operandField_index, operandField_ext, BitVec.extractLsb'_eq_self, index_high_bits_eq_zero_iff]

theorem operandOfRaw_plain_predicate (index : BitVec 5) :
    operandOfRaw (6#3 ++ index ++ 0#16) = if h : index.toNat < 8 then some (.p ⟨index.toNat, h⟩) else none := by
  have plain : ((0#16).extractLsb' 0 6).toFin = 0 := rfl
  rw [operandOfRaw_predicate]
  by_cases h : index.toNat < 8
  · rw [dif_pos h, if_neg (not_or.mpr ⟨Nat.not_le.mpr h, fun nonzero => nonzero plain⟩)]
    exact congrArg (some ∘ Operand.p) (Fin.ext (index_low_bits_toNat h))
  · rw [dif_neg h, if_pos (.inl (Nat.not_lt.mp h))]

/-! ## What a predicate reads as -/

@[simp] theorem Ctx.pred_seven (x : Ctx) : x.pred 7 = 0xFFFFFFFFFFFFFFFF := rfl

@[simp] theorem Ctx.setPred_seven (x : Ctx) (v : Word) : x.setPred 7 v = x := rfl

theorem Ctx.pred_of_lt (x : Ctx) {r : Fin 8} (h : r.val < 7) : x.pred r = x.p[r.val] := by
  unfold Ctx.pred
  split
  · rfl
  · contradiction

theorem Ctx.setPred_of_lt (x : Ctx) {r : Fin 8} (h : r.val < 7) (v : Word) : x.setPred r v = { x with p := x.p.set r.val v } := by
  unfold Ctx.setPred
  split
  · rfl
  · contradiction

theorem predicate_lt_seven {r : Fin 8} (h : r ≠ 7) : r.val < 7 := by
  omega

theorem Ctx.pred_setPred (x : Ctx) {r : Fin 8} (h : r ≠ 7) (q : Fin 8) (v : Word) :
    (x.setPred r v).pred q = if q = r then v else x.pred q := by
  by_cases hq : q = 7
  · subst hq
    rw [if_neg h.symm, Ctx.pred_seven, Ctx.pred_seven]
  · rw [Ctx.setPred_of_lt x (predicate_lt_seven h), Ctx.pred_of_lt _ (predicate_lt_seven hq), Ctx.pred_of_lt _ (predicate_lt_seven hq),
      Vector.getElem_set]
    simp only [Fin.val_inj, eq_comm]

/-- Settles O3: the decoder splits the field into its parts, p7 is no place of the predicate file, and p0 to p6 are places of it. -/
theorem predicateSevenReadsAllOnes : Obligations.PredicateSevenReadsAllOnes := by
  refine ⟨operandOfRaw_plain_predicate, fun x v => ⟨Ctx.pred_seven x, Ctx.setPred_seven x v, ?_⟩, fun x r q v h => Ctx.pred_setPred x h q v⟩
  rw [Ctx.setPred_seven, Ctx.pred_seven]

end Sys2Proof.Machine
end
